-- ==== Sys2Proof/Word.lean ====
section
/-!
DEFINITION. Word types of R4 and the one finite-map type the state is made of.

`AMap α` is a list of (key, value) pairs with strictly rising keys. `get d` is total: an unlisted key
reads as `d`. `put` inserts or replaces; `set d` also removes the entry when the value is `d`, so that
equal contents are equal lists (the canonical form memory is kept in).
-/
namespace Sys2Proof

abbrev Byte := BitVec 8
abbrev Word := BitVec 32
abbrev DWord := BitVec 64
/-- One bit per lane of a group: a predicate or an active mask (R7, R113). -/
abbrev Lanes := BitVec 96

abbrev AMap (α : Type) := List (Nat × α)

namespace AMap

def get {α : Type} (d : α) : AMap α → Nat → α
  | [], _ => d
  | (k, v) :: m, i => if i = k then v else get d m i

def put {α : Type} : AMap α → Nat → α → AMap α
  | [], i, x => [(i, x)]
  | (k, v) :: m, i, x =>
    if i < k then (i, x) :: (k, v) :: m
    else if i = k then (i, x) :: m
    else (k, v) :: put m i x

def del {α : Type} : AMap α → Nat → AMap α
  | [], _ => []
  | (k, v) :: m, i => if i = k then del m i else (k, v) :: del m i

def set {α : Type} [DecidableEq α] (d : α) (m : AMap α) (i : Nat) (x : α) : AMap α :=
  if x = d then del m i else put m i x

/-- `lo` bounds every key from below. -/
def sortedFrom {α : Type} : Nat → AMap α → Bool
  | _, [] => true
  | lo, (k, _) :: m => decide (lo ≤ k) && sortedFrom (k + 1) m

/-- The canonical form: keys strictly rising, no entry equal to what an unlisted key reads as. -/
def wf {α : Type} [DecidableEq α] (d : α) (m : AMap α) : Bool :=
  sortedFrom 0 m && m.all (fun p => decide (p.2 ≠ d))

end AMap

end Sys2Proof
end

