-- ==== Sys2Proof/Syntax.lean ====
section
/-!
DEFINITION. The instructions of the Z192: one constructor per row of spec/opcode_table.json.

The 129 scalar words (R207) carry their fields; the lane words (R212) carry one `LaneFields`; the paired lane
word (R218) carries its two halves; the 156 events (95_what_each_step_holds) are names alone. Events have no
encoding: the machine takes them, with what they act on, from its agenda or from its own schedule (log 1).
-/
namespace Sys2Proof

/-- A scalar register number s0–s63 (R208). -/
abbrev SIndex := BitVec 6

/-- The fields of a single lane word but its OPC (R212, R214): `xmod` is MOD[13:4], then BIMM, SAT and RM. -/
structure LaneFields where
  vd : BitVec 9
  va : BitVec 9
  vb : BitVec 9
  vc : BitVec 9
  pg : BitVec 3
  pn : Bool
  xmod : BitVec 10
  bimm : Bool
  sat : Bool
  rm : BitVec 2
  imm : BitVec 32
deriving DecidableEq, Repr

/-- The lane operations of R228. VBCAST with BIMM = 1 is `vbcastImm`. -/
inductive LaneOp where
  | vadd | vsub | vmul | vmulh | vmad | vdot2 | vmin | vmax | vabs | vshrr | vshl | vshr | vsar | vand
  | vor | vxor | vandn | vnot | vpopc | vclz | vbfx | vcmpEq | vcmpNe | vcmpLt | vcmpLe | vcmpLtu | vcmpLeu
  | vsel | pand | por | pxor | pnot | vfcmpEq | vfcmpLt | vfcmpLe | vfcmpUn | vmov | vperm | vslide | vid
  | vbcast | vbcastImm | vrdi | vwri | vredi | vfma | vfms | vfadd | vfsub | vfmul | vfmin | vfmax | vfabs
  | vfneg | vfdiv | vfsqrt | vfrcp | vfrsq | vfexp2 | vflog2 | vfsin | vfcos | vcvt | actEval | vredf | vld
  | vst | vlds | vsts | vatom | vcp | vcpc | cpy | xshfl | qpush | qpop | vrld | vrst | tmmaE4m3 | tmmaE5m2
  | tmmaI8 | tmmaBf16 | tmmaF16 | tmmaE2m1 | tmmaT16 | tmmaT32 | tmmaT64 | tzero | tld | tst | tres | encTc
  | embG | embR | gdeg | gnbr | gattr | gadd | gdel | gdegIn | gnbrIn | gattrIn | gdelIn | copen
  | copenLive | cnext | cclose | csave | crest | gbulk | wld | wval | wadv | vptld | actLd | actSwap
deriving DecidableEq, Repr

/-- One half of a paired lane word (R218). -/
structure PairHalf where
  op : LaneOp
  vd : BitVec 8
  va : BitVec 8
  vb : BitVec 8
  vc : BitVec 8
  pg : BitVec 3
  mod5 : BitVec 5
deriving DecidableEq, Repr

/-- The instructions. Field names follow the opcode table: d, a, b scalar registers SD, SA, SB; i, o, s, n
immediates, offsets, signatures and numbers; c a condition, count or class; m the spall or sign bit of MOD.
The words with fields come first; what an event acts on is named by the state's `cur` (log 1). -/
inductive Instr where
  | add (d a b : BitVec 6)
  | sub (d a b : BitVec 6)
  | and (d a b : BitVec 6)
  | or (d a b : BitVec 6)
  | xor (d a b : BitVec 6)
  | andn (d a b : BitVec 6)
  | sll (d a b : BitVec 6)
  | srl (d a b : BitVec 6)
  | sra (d a b : BitVec 6)
  | mul (d a b : BitVec 6)
  | mulh (d a b : BitVec 6)
  | mulhu (d a b : BitVec 6)
  | div (d a b : BitVec 6)
  | divu (d a b : BitVec 6)
  | rem (d a b : BitVec 6)
  | remu (d a b : BitVec 6)
  | min (d a b : BitVec 6)
  | max (d a b : BitVec 6)
  | minu (d a b : BitVec 6)
  | maxu (d a b : BitVec 6)
  | clz (d a : BitVec 6)
  | popc (d a : BitVec 6)
  | addw (d a b : BitVec 6)
  | subw (d a b : BitVec 6)
  | seq (d a b : BitVec 6)
  | sne (d a b : BitVec 6)
  | slt (d a b : BitVec 6)
  | sltu (d a b : BitVec 6)
  | sle (d a b : BitVec 6)
  | sleu (d a b : BitVec 6)
  | cmovNz (d a b : BitVec 6)
  | cmovZ (d a b : BitVec 6)
  | trap (a : BitVec 6)
  | rett (a : BitVec 6)
  | callo (a b : BitVec 6)
  | launch (d a b : BitVec 6)
  | addi (d a : BitVec 6) (i : BitVec 14)
  | andi (d a : BitVec 6) (i : BitVec 14)
  | ori (d a : BitVec 6) (i : BitVec 14)
  | xori (d a : BitVec 6) (i : BitVec 14)
  | slli (d a : BitVec 6) (i : BitVec 14)
  | srli (d a : BitVec 6) (i : BitVec 14)
  | srai (d a : BitVec 6) (i : BitVec 14)
  | slti (d a : BitVec 6) (i : BitVec 14)
  | sltiu (d a : BitVec 6) (i : BitVec 14)
  | muli (d a : BitVec 6) (i : BitVec 14)
  | li (d : BitVec 6) (i : BitVec 20)
  | lui (d : BitVec 6) (i : BitVec 20)
  | brCond (c : BitVec 4) (a : BitVec 6) (o : BitVec 16)
  | brd (p : BitVec 3) (o : BitVec 16)
  | call (o : BitVec 26)
  | join (o : BitVec 26)
  | lx (c : BitVec 6) (o : BitVec 20)
  | sigchk (s : BitVec 20)
  | ovlLd (d a : BitVec 6)
  | ovlEv (d a : BitVec 6)
  | ovlPin (d a : BitVec 6)
  | ovlUnpin (d a : BitVec 6)
  | srd (d : BitVec 6) (n : BitVec 14)
  | swr (a : BitVec 6) (n : BitVec 14)
  | ldb (d a : BitVec 6) (o : BitVec 10) (m : BitVec 1)
  | ldh (d a : BitVec 6) (o : BitVec 10) (m : BitVec 1)
  | ldw (d a : BitVec 6) (o : BitVec 10) (m : BitVec 1)
  | ldd (d a : BitVec 6) (o : BitVec 10) (m : BitVec 1)
  | ldbs (d a : BitVec 6) (o : BitVec 10)
  | ldhs (d a : BitVec 6) (o : BitVec 10)
  | ldws (d a : BitVec 6) (o : BitVec 10)
  | stb (d a : BitVec 6) (o : BitVec 10) (m : BitVec 1)
  | sth (d a : BitVec 6) (o : BitVec 10) (m : BitVec 1)
  | stw (d a : BitVec 6) (o : BitVec 10) (m : BitVec 1)
  | std (d a : BitVec 6) (o : BitVec 10) (m : BitVec 1)
  | atomAddW (d a b : BitVec 6)
  | atomXchgW (d a b : BitVec 6)
  | atomCasW (d a b : BitVec 6)
  | atomAndW (d a b : BitVec 6)
  | atomOrW (d a b : BitVec 6)
  | atomXorW (d a b : BitVec 6)
  | atomMinW (d a b : BitVec 6)
  | atomMaxW (d a b : BitVec 6)
  | atomMinuW (d a b : BitVec 6)
  | atomMaxuW (d a b : BitVec 6)
  | atomFaddW (d a b : BitVec 6)
  | atomAddD (d a b : BitVec 6)
  | atomXchgD (d a b : BitVec 6)
  | atomCasD (d a b : BitVec 6)
  | atomAndD (d a b : BitVec 6)
  | atomOrD (d a b : BitVec 6)
  | atomXorD (d a b : BitVec 6)
  | atomMinD (d a b : BitVec 6)
  | atomMaxD (d a b : BitVec 6)
  | atomMinuD (d a b : BitVec 6)
  | atomMaxuD (d a b : BitVec 6)
  | acqTeam (d a : BitVec 6)
  | acqCluster (d a : BitVec 6)
  | acqDevice (d a : BitVec 6)
  | acqSystem (d a : BitVec 6)
  | relTeam (a b : BitVec 6)
  | relCluster (a b : BitVec 6)
  | relDevice (a b : BitVec 6)
  | relSystem (a b : BitVec 6)
  | bind (d a b : BitVec 6)
  | unbind (a : BitVec 6)
  | waitr (c a : BitVec 6)
  | cleanL1 (a b : BitVec 6)
  | cleanL2 (a b : BitVec 6)
  | invL1 (a b : BitVec 6)
  | invL2 (a b : BitVec 6)
  | clinvL1 (a b : BitVec 6)
  | clinvL2 (a b : BitVec 6)
  | wait (e g t c s l : BitVec 4)
  | barInitTeam (a : BitVec 6) (n : BitVec 4)
  | barInitCluster (a : BitVec 6) (n : BitVec 4)
  | barInitGrid (a : BitVec 6) (n : BitVec 4)
  | barArr (d : BitVec 6) (n : BitVec 4)
  | barWait (a : BitVec 6) (n : BitVec 4)
  | barSync (n : BitVec 4)
  | rldb (d a : BitVec 6) (o : BitVec 10) (m : BitVec 1)
  | rldh (d a : BitVec 6) (o : BitVec 10) (m : BitVec 1)
  | rldw (d a : BitVec 6) (o : BitVec 10) (m : BitVec 1)
  | rldd (d a : BitVec 6) (o : BitVec 10)
  | rstb (d a : BitVec 6) (o : BitVec 10)
  | rsth (d a : BitVec 6) (o : BitVec 10)
  | rstw (d a : BitVec 6) (o : BitVec 10)
  | rstd (d a : BitVec 6) (o : BitVec 10)
  | vadd (f : LaneFields)
  | vsub (f : LaneFields)
  | vmul (f : LaneFields)
  | vmulh (f : LaneFields)
  | vmad (f : LaneFields)
  | vdot2 (f : LaneFields)
  | vmin (f : LaneFields)
  | vmax (f : LaneFields)
  | vabs (f : LaneFields)
  | vshrr (f : LaneFields)
  | vshl (f : LaneFields)
  | vshr (f : LaneFields)
  | vsar (f : LaneFields)
  | vand (f : LaneFields)
  | vor (f : LaneFields)
  | vxor (f : LaneFields)
  | vandn (f : LaneFields)
  | vnot (f : LaneFields)
  | vpopc (f : LaneFields)
  | vclz (f : LaneFields)
  | vbfx (f : LaneFields)
  | vcmpEq (f : LaneFields)
  | vcmpNe (f : LaneFields)
  | vcmpLt (f : LaneFields)
  | vcmpLe (f : LaneFields)
  | vcmpLtu (f : LaneFields)
  | vcmpLeu (f : LaneFields)
  | vsel (f : LaneFields)
  | pand (f : LaneFields)
  | por (f : LaneFields)
  | pxor (f : LaneFields)
  | pnot (f : LaneFields)
  | vfcmpEq (f : LaneFields)
  | vfcmpLt (f : LaneFields)
  | vfcmpLe (f : LaneFields)
  | vfcmpUn (f : LaneFields)
  | vmov (f : LaneFields)
  | vperm (f : LaneFields)
  | vslide (f : LaneFields)
  | vid (f : LaneFields)
  | vbcast (f : LaneFields)
  | vbcastImm (f : LaneFields)
  | vrdi (f : LaneFields)
  | vwri (f : LaneFields)
  | vredi (f : LaneFields)
  | vfma (f : LaneFields)
  | vfms (f : LaneFields)
  | vfadd (f : LaneFields)
  | vfsub (f : LaneFields)
  | vfmul (f : LaneFields)
  | vfmin (f : LaneFields)
  | vfmax (f : LaneFields)
  | vfabs (f : LaneFields)
  | vfneg (f : LaneFields)
  | vfdiv (f : LaneFields)
  | vfsqrt (f : LaneFields)
  | vfrcp (f : LaneFields)
  | vfrsq (f : LaneFields)
  | vfexp2 (f : LaneFields)
  | vflog2 (f : LaneFields)
  | vfsin (f : LaneFields)
  | vfcos (f : LaneFields)
  | vcvt (f : LaneFields)
  | actEval (f : LaneFields)
  | vredf (f : LaneFields)
  | pairedLaneWord (u l : PairHalf)
  | vld (f : LaneFields)
  | vst (f : LaneFields)
  | vlds (f : LaneFields)
  | vsts (f : LaneFields)
  | vatom (f : LaneFields)
  | vcp (f : LaneFields)
  | vcpc (f : LaneFields)
  | cpy (f : LaneFields)
  | xshfl (f : LaneFields)
  | qpush (f : LaneFields)
  | qpop (f : LaneFields)
  | vrld (f : LaneFields)
  | vrst (f : LaneFields)
  | tmmaE4m3 (f : LaneFields)
  | tmmaE5m2 (f : LaneFields)
  | tmmaI8 (f : LaneFields)
  | tmmaBf16 (f : LaneFields)
  | tmmaF16 (f : LaneFields)
  | tmmaE2m1 (f : LaneFields)
  | tmmaT16 (f : LaneFields)
  | tmmaT32 (f : LaneFields)
  | tmmaT64 (f : LaneFields)
  | tzero (f : LaneFields)
  | tld (f : LaneFields)
  | tst (f : LaneFields)
  | tres (f : LaneFields)
  | encTc (f : LaneFields)
  | embG (f : LaneFields)
  | embR (f : LaneFields)
  | gdeg (f : LaneFields)
  | gnbr (f : LaneFields)
  | gattr (f : LaneFields)
  | gadd (f : LaneFields)
  | gdel (f : LaneFields)
  | gdegIn (f : LaneFields)
  | gnbrIn (f : LaneFields)
  | gattrIn (f : LaneFields)
  | gdelIn (f : LaneFields)
  | copen (f : LaneFields)
  | copenLive (f : LaneFields)
  | cnext (f : LaneFields)
  | cclose (f : LaneFields)
  | csave (f : LaneFields)
  | crest (f : LaneFields)
  | gbulk (f : LaneFields)
  | wld (f : LaneFields)
  | wval (f : LaneFields)
  | wadv (f : LaneFields)
  | vptld (f : LaneFields)
  | actLd (f : LaneFields)
  | actSwap (f : LaneFields)
  | exit | ret | idemBegin | idemEnd | fence | scalarResultWrite | laneResultWrite | drain | fetch | fill
  | writeback | drop | deliver | perform | remoteScratchPerform | queueRefusalReturn | relSyncWrite
  | acqDrop | bindApply | unbindApply | counterRetire | exitComplete | dsfillReadback | widerArrival
  | widerRelease | copyGranuleWrite | copyComplete | xshflOfferArrival | xshflOfferRetry | engineCmdStart
  | kStep | tzeroStep | tresStep | trellisStep | embGRow | embRBag | gbulkRecord | engineCmdEnd
  | tilePortMove | windowFill | patternEntryLoad | actBankLoaded | actSwapPerform | launchAppend
  | ovlLoadDecide | ovlEvRequest | teamPinUpdate | imageReadComplete | reloadRetry | reserveInSlot
  | outInsert | inInsert | reserveCancel | outRemove | inRemove | inRankRemove | graphRankRead | cursorOpen
  | cursorNext | cursorClose | graphWriteback | translate | hbmAccess | refreshVisit | errorDetected
  | selftestComplete | recordWrite | watchdogExpire | groupHalt | restartEntry | teamHaltComplete
  | preemptRequest | teamImageWrite | teamRestore | suspendComplete | teardownComplete | packetHeadCheck
  | depPoll | dispatchStart | teamPlace | wayConversion | clusterGangStart | teamRetire | kernelComplete
  | slotMap | quantumExpiry | slotDrainComplete | priorityPreempt | keystoneArrival | packetSuspect
  | keystoneHoldExpire | keystoneRegenerate | routePacket | weepReplyTimeout | mapAdopt | stubForward
  | bucketHandover | hostWindowRead | hostWindowWrite | physApertureRead | physApertureWrite
  | hingeInboundRequest | hingeLock | hingeFlitReplay | hingeLinkLoss | hingeTrainFail | perstDeassert
  | hotReset | bringUp | linkTrained | linkRecovery | linkLost | mainPowerLoss | lifetimeFlush
  | powerStateEntry | wakeEvent | powerExitComplete | ctxCreate | ctxEnable | ctxSuspend | ctxResume
  | ctxDestroy | ctxReclaim | ctxQuota | ctxQuery | qRegister | qEnable | qDisable | qResume | qSkip
  | qUnregister | qQuery | qbell | tlbinvPage | tlbinvRegion | tlbinvAsid | tlbinvAll | pfdoneResolve
  | pfdoneFail | pfdoneAll | faqpop | bplAdd | bplRead | smapMove | smapRetire | smapRead | hlctlEnSet
  | hlctlEnClear | errtailWrite | fabcntRead | refcfgRead | hlstatRead | errstatRead | pwrstatRead
  | lifecmd | idAttest | idStage | registerWrite | hostReadCompletion | hingeReply
  | nonvolatileWriteComplete
deriving DecidableEq, Repr

end Sys2Proof
end

