-- ==== Sys2Proof/Machine/Formats.lean ====
section
/-!
DEFINITION. The instruction formats of R207–R219 and R290, R297, R342: which fields each word uses and how,
the checks on fields that raise ILLOP (R221), the registers a lane word reads and writes, and the opcode values
of R225–R228.
-/
namespace Sys2Proof

/-- The causes of the ILLOP trap (R221), in the order of their sub-codes. -/
inductive Illop where
  | unassigned | rsvbit | undefval | rowrite | rospecial | regrange | oddpair | pairport | pairwrite
deriving DecidableEq, Repr

/-- Sub-code of R221. -/
def illopCode : Illop → Nat
  | .unassigned => 1 | .rsvbit => 2 | .undefval => 3 | .rowrite => 4 | .rospecial => 5
  | .regrange => 6 | .oddpair => 7 | .pairport => 8 | .pairwrite => 9

/-- Use of a register field of a lane word (R208, R212): v register read, written or both; predicate, scalar,
cursor, window, tile; a register number not read as a value (R269). -/
inductive FieldUse where
  | zero | vr | vw | vrw | pr | pw | sr | sw | cur | wr | ww | tile | num
deriving DecidableEq, Repr

/-- Low bits of the field that hold the index (R208); the rest must be zero. -/
def useWidth : FieldUse → Nat
  | .zero => 0
  | .vr | .vw | .vrw | .num => 9
  | .pr | .pw | .cur => 3
  | .sr | .sw => 6
  | .wr | .ww => 2
  | .tile => 4

/-- How a lane operation uses the single form: register fields, the XMOD and IMM bits it may set, the value of
BIMM, and whether it takes SAT and RM. -/
structure LaneFormat where
  vd : FieldUse := .zero
  va : FieldUse := .zero
  vb : FieldUse := .zero
  vc : FieldUse := .zero
  xmod : Nat := 0
  imm : Nat := 0
  bimm : Bool := false
  sat : Bool := false
  rm : Bool := false
deriving DecidableEq, Repr

/-- XMOD[1:0]: the element format of R265, the size of R290. -/
def xmodLow (f : LaneFields) : Nat := (f.xmod.extractLsb' 0 2).toNat

/-- The format of each lane operation. -/
def laneFormat (op : LaneOp) (f : LaneFields) : LaneFormat :=
  match op with
  -- R260, R261
  | .vadd | .vsub | .vmul => { vd := .vw, va := .vr, vb := .vr, xmod := 1, sat := true }
  | .vmad => { vd := .vw, va := .vr, vb := .vr, vc := .vr, xmod := 1, sat := true }
  | .vdot2 => { vd := .vw, va := .vr, vb := .vr, vc := .vr, sat := true }
  | .vabs => { vd := .vw, va := .vr, sat := true }
  | .vmulh | .vmin | .vmax | .vshrr => { vd := .vw, va := .vr, vb := .vr, xmod := 1 }
  -- R262
  | .vand | .vor | .vxor | .vandn | .vshl | .vshr | .vsar => { vd := .vw, va := .vr, vb := .vr }
  | .vnot | .vpopc | .vclz => { vd := .vw, va := .vr }
  | .vbfx => { vd := .vw, va := .vr, vb := .vr, xmod := 1 }
  -- R263
  | .vcmpEq | .vcmpNe | .vcmpLt | .vcmpLe | .vcmpLtu | .vcmpLeu
  | .vfcmpEq | .vfcmpLt | .vfcmpLe | .vfcmpUn => { vd := .pw, va := .vr, vb := .vr }
  | .vsel => { vd := .vw, va := .vr, vb := .vr, vc := .pr }
  | .pand | .por | .pxor => { vd := .pw, va := .pr, vb := .pr }
  | .pnot => { vd := .pw, va := .pr }
  -- R264
  | .vmov => { vd := .vw, va := .vr }
  | .vid => { vd := .vw }
  | .vbcast => { vd := .vw, va := .sr }
  | .vbcastImm => { vd := .vw, imm := 0xFFFFFFFF, bimm := true }
  -- R265–R267
  | .vfma | .vfms => { vd := .vw, va := .vr, vb := .vr, vc := .vr, xmod := 3, rm := true }
  | .vfadd | .vfsub | .vfmul | .vfdiv => { vd := .vw, va := .vr, vb := .vr, xmod := 3, rm := true }
  | .vfmin | .vfmax => { vd := .vw, va := .vr, vb := .vr, xmod := 3 }
  | .vfabs | .vfneg => { vd := .vw, va := .vr, xmod := 3 }
  | .vfsqrt | .vfrcp | .vfrsq | .vfexp2 | .vflog2 | .vfsin | .vfcos =>
    { vd := .vw, va := .vr, xmod := 3, rm := true }
  -- R268
  | .vcvt => { vd := if f.imm.getLsbD 15 then .vrw else .vw, va := .vr, imm := 0xF7FF, sat := true, rm := true }
  -- R269–R271
  | .vrdi => { vd := .vw, va := .num, vb := .vr }
  | .vwri => { vd := .num, va := .vr, vb := .vr }
  | .vredi => { vd := .sw, va := .vr, xmod := 0xF }
  | .vredf => { vd := .sw, va := .vr, xmod := 3, rm := true }
  -- R272–R274
  | .vptld => { va := .sr, imm := 0x3F }
  | .vperm => { vd := .vw, va := .vr, imm := 0x3F }
  | .vslide =>
    { vd := .vw, va := .vr, vb := if (f.xmod.extractLsb' 1 2).toNat = 1 then .vr else .zero,
      xmod := 7, imm := 0xFFFFFFFF }
  -- R276, R277
  | .actLd => { va := .sr }
  | .actSwap => { vd := .sw }
  | .actEval => { vd := .vw, va := .vr, rm := true }
  -- R280–R282
  | .wld => { vd := .ww, va := .vr, vb := .sr, vc := .sr }
  | .wadv => { vd := .ww, vb := .sr, vc := .sr }
  | .wval => { vd := .vw, va := .wr, vb := if f.xmod.getLsbD 0 then .vr else .zero, xmod := 1 }
  -- R290–R293, R296
  | .vld | .vrld => { vd := .vw, va := .sr, vb := .vr, xmod := 0x38F, imm := 0xFFFFFFFF }
  | .vst | .vrst => { vd := .vr, va := .sr, vb := .vr, xmod := 0x38F, imm := 0xFFFFFFFF }
  | .vlds => { vd := .vw, va := .sr, xmod := 0x00F, imm := 0xFFFFFFFF }
  | .vsts => { vd := .vr, va := .sr, xmod := 0x00F, imm := 0xFFFFFFFF }
  | .vatom => { vd := .vrw, va := .sr, vb := .vr, vc := .vr, xmod := 0x383, imm := 0xF }
  -- R297–R299
  | .vcp => { vd := .vr, va := .vr, vb := .sr, vc := .sr, xmod := 0x383, imm := 0x7FFF }
  | .vcpc => { vd := .sw, va := .vr, vb := .sr, vc := .sr, xmod := 0x383, imm := 0x7E1F }
  | .cpy => { va := .sr, vb := .sr, vc := .sr, imm := 0x7FFF }
  -- R308–R312
  | .xshfl => { vd := .vw, va := .vr, vb := .sr }
  | .qpush =>
    { vd := if f.xmod.getLsbD 0 then .pw else .zero, va := .vr, vb := .sr,
      vc := if f.xmod.getLsbD 1 then .sr else .zero, xmod := 3 }
  | .qpop => { vd := .vw, vb := .sr, vc := if f.xmod.getLsbD 0 then .pw else .zero, xmod := 3 }
  -- R320, R326, R328, R331, R332
  | .tmmaE4m3 | .tmmaE5m2 | .tmmaBf16 | .tmmaF16 => { vd := .tile, va := .vr, vb := .sr, xmod := 1, imm := 0x1FF }
  | .tmmaI8 => { vd := .tile, va := .vr, vb := .sr, xmod := 1, imm := 0x1FF, sat := true }
  | .tmmaE2m1 => { vd := .tile, va := .vr, vb := .sr, vc := .vr, xmod := 7, imm := 0x1FF }
  | .tmmaT16 | .tmmaT32 | .tmmaT64 => { vd := .tile, va := .vr, vb := .sr, vc := .sr, xmod := 3, imm := 0x1FF }
  | .tzero => { vd := .tile, imm := 0xF }
  | .tld => { vd := .vw, va := .tile, imm := 3 }
  | .tst => { vd := .tile, va := .vr, imm := 3 }
  | .tres => { vd := .tile, va := .sr }
  -- R334, R337, R354
  | .encTc | .embG | .embR | .gbulk => { va := .sr, imm := 0x7FE0 }
  -- R342
  | .gdeg | .gdegIn => { vd := .vw, va := .vr, imm := 0xFFFF }
  | .gnbr | .gnbrIn => { vd := .vw, va := .vr, vb := .vr, xmod := 1, imm := 0xFFFF }
  | .gattr | .gattrIn | .gdel | .gdelIn => { vd := .vw, va := .vr, vb := .vr, imm := 0xFFFF }
  | .gadd => { vd := .vw, va := .vr, vb := .vr, vc := .vr, imm := 0xFFFF }
  | .copen | .copenLive => { va := .vr, vc := .cur, xmod := 2, imm := 0xFFFF }
  | .cnext => { vd := .vw, vc := .cur, imm := 0xFFC0 }
  | .cclose => { vc := .cur, imm := 0xFFC0 }
  | .csave | .crest => { va := .sr, vc := .cur, imm := 0xFFC0 }

/-! ## Sub-fields of IMM -/

/-- R297: SREG, SCOPE, REL, ACQ, BE, BAR. -/
def immSreg (f : LaneFields) : SIndex := f.imm.extractLsb' 9 6
def immScope (f : LaneFields) : Nat := (f.imm.extractLsb' 7 2).toNat
def immRel (f : LaneFields) : Bool := f.imm.getLsbD 6
def immAcq (f : LaneFields) : Bool := f.imm.getLsbD 5
def immBe (f : LaneFields) : Bool := f.imm.getLsbD 4
def immBar (f : LaneFields) : Nat := (f.imm.extractLsb' 0 4).toNat

/-- R342: SG, VS, SE. -/
def immSg (f : LaneFields) : SIndex := f.imm.extractLsb' 0 6
def immVs (f : LaneFields) : Nat := (f.imm.extractLsb' 6 9).toNat
def immSe (f : LaneFields) : Bool := f.imm.getLsbD 15

/-- R320, R326: SN or SK, and C0. -/
def immSn (f : LaneFields) : SIndex := f.imm.extractLsb' 0 6
def immC0 (f : LaneFields) : Nat := 16 * (f.imm.extractLsb' 6 3).toNat

/-- R290: SC as a factor, OU, SP, SX. -/
def xmodScale (f : LaneFields) : Nat :=
  match (f.xmod.extractLsb' 8 2).toNat with
  | 0 => 1 | 1 => 4 | 2 => 8 | _ => 16
def xmodOu (f : LaneFields) : Bool := f.xmod.getLsbD 7
def xmodSp (f : LaneFields) : Bool := f.xmod.getLsbD 3
def xmodSx (f : LaneFields) : Bool := f.xmod.getLsbD 2

/-- VCVT (R268): INS, DSTEL, SRCEL, DST, SRC. -/
def cvtIns (f : LaneFields) : Bool := f.imm.getLsbD 15
def cvtDstEl (f : LaneFields) : Nat := (f.imm.extractLsb' 12 3).toNat
def cvtSrcEl (f : LaneFields) : Nat := (f.imm.extractLsb' 8 3).toNat
def cvtDst (f : LaneFields) : Nat := (f.imm.extractLsb' 4 4).toNat
def cvtSrc (f : LaneFields) : Nat := (f.imm.extractLsb' 0 4).toNat

/-- Elements of a format code in one register (R43, R268); 0 for a code R268 does not give. -/
def cvtCount : Nat → Nat
  | 0 => 1 | 1 => 2 | 2 => 2 | 3 => 4 | 4 => 4 | 5 => 8 | 6 => 4 | 8 => 1 | 9 => 2 | 0xA => 4 | _ => 0

def cvtIsInt (c : Nat) : Bool := decide (8 ≤ c) && decide (c ≤ 10)

/-- Members of the second group of R296: op numbers 0x0–0xA. -/
def atomOpOf (f : LaneFields) : Nat := (f.imm.extractLsb' 0 4).toNat

/-! ## Field checks -/

/-- A reserved or unused field that is not zero, beyond what the format's masks say (R268, R270, R297, R342). -/
def laneRsvExtra (op : LaneOp) (f : LaneFields) : Bool :=
  match op with
  | .vcvt => f.sat && !(cvtIsInt (cvtDst f) && cvtIsInt (cvtSrc f))
  | .vredi => f.xmod.getLsbD 3 && decide (3 ≤ (f.xmod.extractLsb' 0 3).toNat) && decide ((f.xmod.extractLsb' 0 3).toNat ≤ 5)
  | .vcp | .cpy =>
    (!(immRel f || immAcq f) && (decide (immSreg f ≠ 0) || decide (immScope f ≠ 0))) || (!immBe f && decide (immBar f ≠ 0))
  | .vcpc => !immBe f && decide (immBar f ≠ 0)
  | .encTc | .embG | .embR | .gbulk =>
    !(immRel f || immAcq f) && (decide (immSreg f ≠ 0) || decide (immScope f ≠ 0))
  | .gdeg | .gdegIn | .gnbr | .gnbrIn | .gattr | .gattrIn | .gadd | .gdel | .gdelIn
  | .copen | .copenLive | .cnext | .cclose | .csave | .crest => !immSe f && decide (immVs f ≠ 0)
  | _ => false

/-- A field value the operation does not define (R221 UNDEFVAL). -/
def laneUndef (op : LaneOp) (f : LaneFields) : Bool :=
  match op with
  | .vfma | .vfms | .vfadd | .vfsub | .vfmul | .vfdiv | .vfmin | .vfmax | .vfabs | .vfneg
  | .vfsqrt | .vfrcp | .vfrsq | .vfexp2 | .vflog2 | .vfsin | .vfcos => decide (xmodLow f = 3)
  | .vcvt => decide (cvtCount (cvtDst f) ≤ cvtDstEl f) || decide (cvtCount (cvtSrc f) ≤ cvtSrcEl f)
  | .vredi => decide (6 ≤ (f.xmod.extractLsb' 0 3).toNat)
  | .vredf => decide (xmodLow f = 3) || decide (f.rm ≠ 0)
  | .vslide =>
    let n : Int := if f.xmod.getLsbD 0 then 192 else 96
    decide ((f.xmod.extractLsb' 1 2).toNat = 3) || decide (f.imm.toInt ≤ -n) || decide (n ≤ f.imm.toInt)
  | .vld | .vlds => xmodSx f && decide (2 ≤ xmodLow f)
  | .vrld => xmodSp f || (xmodSx f && decide (2 ≤ xmodLow f))
  | .vst | .vsts => xmodSx f
  | .vrst => xmodSp f || xmodSx f
  | .vatom => decide (xmodLow f < 2) || decide (0xA < atomOpOf f) || (decide (atomOpOf f = 0xA) && decide (xmodLow f ≠ 2))
  | .vcp | .vcpc => decide (xmodLow f = 3)
  | .qpush => f.xmod.getLsbD 1 && !f.xmod.getLsbD 0
  | .qpop => f.xmod.getLsbD 1
  | _ => false

/-- A field wider than its use. -/
def useBad (u : FieldUse) (v : BitVec 9) : Bool := decide (2 ^ useWidth u ≤ v.toNat)

/-- The checks of R221 on the fields of a lane operation that need no state, in the order of its table. -/
def laneCheck (op : LaneOp) (f : LaneFields) : Option Illop :=
  let m := laneFormat op f
  if (decide (f.pg = 0) && f.pn) || useBad m.vd f.vd || useBad m.va f.va || useBad m.vb f.vb || useBad m.vc f.vc
      || decide (f.xmod.toNat &&& m.xmod ≠ f.xmod.toNat) || decide (f.imm.toNat &&& m.imm ≠ f.imm.toNat)
      || (f.bimm != m.bimm) || (f.sat && !m.sat) || (decide (f.rm ≠ 0) && !m.rm) || laneRsvExtra op f then some .rsvbit
  else if laneUndef op f then some .undefval
  else if decide (m.vd = .sw) && decide (f.vd = 58) then some .rowrite
  else none

/-! ## Registers of a lane operation -/

/-- Consecutive v registers a field names: first, count, read, written. A count of 2 is a pair (R215). -/
structure VSpan where
  first : Nat
  count : Nat
  rd : Bool
  wr : Bool
deriving DecidableEq, Repr

/-- Registers named by VD, VA and VC (R215, R290, R321, R332, R342). -/
def spanVd (op : LaneOp) (f : LaneFields) : Nat :=
  match op with
  | .vld | .vst | .vlds | .vsts | .vrld | .vrst | .vatom => if xmodLow f = 3 then 2 else 1
  | .gnbr | .gnbrIn => if f.xmod.getLsbD 0 then 2 else 1
  | .cnext => 2
  | .tld => 32
  | _ => 1
def spanVa (op : LaneOp) : Nat :=
  match op with
  | .tmmaE4m3 | .tmmaE5m2 | .tmmaI8 | .tmmaT16 | .tmmaT32 | .tmmaT64 => 16
  | .tmmaBf16 | .tmmaF16 => 32
  | .tmmaE2m1 => 8
  | .tst => 32
  | _ => 1
def spanVc (op : LaneOp) (f : LaneFields) : Nat :=
  match op with
  | .vatom => if xmodLow f = 3 then 2 else 1
  | .tmmaE2m1 => 8
  | _ => 1

def vspan (u : FieldUse) (v : BitVec 9) (n : Nat) : List VSpan :=
  match u with
  | .vr => [⟨v.toNat, n, true, false⟩]
  | .vw => [⟨v.toNat, n, false, true⟩]
  | .vrw => [⟨v.toNat, n, true, true⟩]
  | _ => []

/-- A status register of R342. -/
def statusSpan (op : LaneOp) (f : LaneFields) : List VSpan :=
  match op with
  | .gdeg | .gdegIn | .gnbr | .gnbrIn | .gattr | .gattrIn | .gadd | .gdel | .gdelIn
  | .copen | .copenLive | .cnext | .cclose | .csave | .crest =>
    if immSe f then [⟨immVs f, 1, false, true⟩] else []
  | _ => []

def laneSpans (op : LaneOp) (f : LaneFields) : List VSpan :=
  let m := laneFormat op f
  vspan m.vd f.vd (spanVd op f) ++ vspan m.va f.va (spanVa op) ++ vspan m.vb f.vb 1 ++ vspan m.vc f.vc (spanVc op f)
    ++ statusSpan op f

def spanRegs (w : VSpan) : List Nat := (List.range w.count).map (w.first + ·)

/-- v registers read, written. -/
def laneVReads (op : LaneOp) (f : LaneFields) : List Nat := ((laneSpans op f).filter (·.rd)).flatMap spanRegs
def laneVWrites (op : LaneOp) (f : LaneFields) : List Nat := ((laneSpans op f).filter (·.wr)).flatMap spanRegs

def usesOf (op : LaneOp) (f : LaneFields) : List (FieldUse × Nat) :=
  let m := laneFormat op f
  [(m.vd, f.vd.toNat), (m.va, f.va.toNat), (m.vb, f.vb.toNat), (m.vc, f.vc.toNat)]

/-- Fields with one of the uses given, as register indices. -/
def fieldsWith (us : List FieldUse) (op : LaneOp) (f : LaneFields) : List Nat :=
  (usesOf op f).filterMap (fun p => if us.contains p.1 then some p.2 else none)

/-- Predicates read, the guard among them; predicates written. -/
def lanePReads (op : LaneOp) (f : LaneFields) : List Nat :=
  (if f.pg = 0 then [] else [f.pg.toNat]) ++ fieldsWith [.pr] op f
def lanePWrites (op : LaneOp) (f : LaneFields) : List Nat := fieldsWith [.pw] op f

/-- Window registers read or written. -/
def laneWindows (op : LaneOp) (f : LaneFields) : List Nat := fieldsWith [.wr, .ww] op f

/-- Scalar registers that hold the sync word, the length, the gid, N or K0 named in IMM. -/
def immSRegs (op : LaneOp) (f : LaneFields) : List Nat :=
  match op with
  | .vcp | .cpy | .encTc | .embG | .embR | .gbulk => if immRel f || immAcq f then [(immSreg f).toNat] else []
  | .vcpc => [(immSreg f).toNat]
  | .tmmaE4m3 | .tmmaE5m2 | .tmmaI8 | .tmmaBf16 | .tmmaF16 | .tmmaE2m1 | .tmmaT16 | .tmmaT32 | .tmmaT64 =>
    [(immSn f).toNat]
  | .gdeg | .gdegIn | .gnbr | .gnbrIn | .gattr | .gattrIn | .gadd | .gdel | .gdelIn | .copen | .copenLive =>
    [(immSg f).toNat]
  | _ => []

def laneSReads (op : LaneOp) (f : LaneFields) : List Nat := fieldsWith [.sr] op f ++ immSRegs op f
def laneSWrites (op : LaneOp) (f : LaneFields) : List Nat := fieldsWith [.sw] op f

/-- REGRANGE and ODDPAIR of R215 for a grant of G registers. -/
def grantCheck (grant : Nat) (op : LaneOp) (f : LaneFields) : Option Illop :=
  let ws := laneSpans op f
  if ws.any (fun w => decide (grant < w.first + w.count)) then some .regrange
  else if ws.any (fun w => decide (w.count = 2) && decide (w.first % 2 = 1)) then some .oddpair
  else none

/-! ## Pairs -/

/-- The class A table of R228: OPC7 of the upper half. -/
def classACode : LaneOp → Option Nat
  | .vfma => some 0x01 | .vfadd => some 0x02 | .vfsub => some 0x03 | .vfms => some 0x04 | .vfmul => some 0x05
  | .vfmin => some 0x06 | .vfmax => some 0x07 | .vfabs => some 0x08 | .vfneg => some 0x09
  | .vfdiv => some 0x0A | .vfsqrt => some 0x0B | .vfrcp => some 0x0C | .vfrsq => some 0x0D
  | .vfexp2 => some 0x0E | .vflog2 => some 0x0F | .vfsin => some 0x10 | .vfcos => some 0x11
  | .actEval => some 0x12
  | _ => none

def classAOp : Nat → Option LaneOp
  | 0x01 => some .vfma | 0x02 => some .vfadd | 0x03 => some .vfsub | 0x04 => some .vfms | 0x05 => some .vfmul
  | 0x06 => some .vfmin | 0x07 => some .vfmax | 0x08 => some .vfabs | 0x09 => some .vfneg
  | 0x0A => some .vfdiv | 0x0B => some .vfsqrt | 0x0C => some .vfrcp | 0x0D => some .vfrsq
  | 0x0E => some .vfexp2 | 0x0F => some .vflog2 | 0x10 => some .vfsin | 0x11 => some .vfcos
  | 0x12 => some .actEval
  | _ => none

/-- The class B table of R228: OPC7 of the lower half. -/
def classBCode : LaneOp → Option Nat
  | .vadd => some 0x01 | .vsub => some 0x02 | .vmul => some 0x03 | .vmulh => some 0x04 | .vmad => some 0x05
  | .vdot2 => some 0x06 | .vmin => some 0x07 | .vmax => some 0x08 | .vabs => some 0x09 | .vshrr => some 0x0A
  | .vshl => some 0x0B | .vshr => some 0x0C | .vsar => some 0x0D
  | .vand => some 0x10 | .vor => some 0x11 | .vxor => some 0x12 | .vandn => some 0x13 | .vnot => some 0x14
  | .vpopc => some 0x15 | .vclz => some 0x16 | .vbfx => some 0x17
  | .vcmpEq => some 0x20 | .vcmpNe => some 0x21 | .vcmpLt => some 0x22 | .vcmpLe => some 0x23
  | .vcmpLtu => some 0x24 | .vcmpLeu => some 0x25 | .vsel => some 0x26
  | .pand => some 0x27 | .por => some 0x28 | .pxor => some 0x29 | .pnot => some 0x2A
  | .vfcmpEq => some 0x2B | .vfcmpLt => some 0x2C | .vfcmpLe => some 0x2D | .vfcmpUn => some 0x2E
  | .vmov => some 0x30 | .vid => some 0x38
  | _ => none

def classBOp : Nat → Option LaneOp
  | 0x01 => some .vadd | 0x02 => some .vsub | 0x03 => some .vmul | 0x04 => some .vmulh | 0x05 => some .vmad
  | 0x06 => some .vdot2 | 0x07 => some .vmin | 0x08 => some .vmax | 0x09 => some .vabs | 0x0A => some .vshrr
  | 0x0B => some .vshl | 0x0C => some .vshr | 0x0D => some .vsar
  | 0x10 => some .vand | 0x11 => some .vor | 0x12 => some .vxor | 0x13 => some .vandn | 0x14 => some .vnot
  | 0x15 => some .vpopc | 0x16 => some .vclz | 0x17 => some .vbfx
  | 0x20 => some .vcmpEq | 0x21 => some .vcmpNe | 0x22 => some .vcmpLt | 0x23 => some .vcmpLe
  | 0x24 => some .vcmpLtu | 0x25 => some .vcmpLeu | 0x26 => some .vsel
  | 0x27 => some .pand | 0x28 => some .por | 0x29 => some .pxor | 0x2A => some .pnot
  | 0x2B => some .vfcmpEq | 0x2C => some .vfcmpLt | 0x2D => some .vfcmpLe | 0x2E => some .vfcmpUn
  | 0x30 => some .vmov | 0x38 => some .vid
  | _ => none

/-- R229: the single form a half stands for. -/
def halfFields (h : PairHalf) : LaneFields where
  vd := h.vd.setWidth 9
  va := h.va.setWidth 9
  vb := h.vb.setWidth 9
  vc := h.vc.setWidth 9
  pg := h.pg
  pn := false
  xmod := (h.mod5.extractLsb' 3 2).setWidth 10
  bimm := false
  sat := h.mod5.getLsbD 2
  rm := h.mod5.extractLsb' 0 2
  imm := 0

/-- How often a list of registers falls in a bank v mod 4 (R20). -/
def bankCount (b : Nat) (rs : List Nat) : Nat := (rs.filter (fun r => decide (r % 4 = b))).length

/-- R219 over both halves: PAIRPORT, then PAIRWRITE. -/
def pairCheck (u l : PairHalf) : Option Illop :=
  let fu := halfFields u
  let fl := halfFields l
  let reads := laneVReads u.op fu ++ laneVReads l.op fl
  let wu := laneVWrites u.op fu
  let wl := laneVWrites l.op fl
  if [0, 1, 2, 3].any (fun b => decide (2 < bankCount b reads)) then some .pairport
  else if [0, 1, 2, 3].any (fun b => decide (0 < bankCount b wu) && decide (0 < bankCount b wl))
      || (lanePWrites u.op fu).any (fun p => (lanePWrites l.op fl).contains p) then some .pairwrite
  else none

/-- The least of two causes in the order of R221's table. -/
def firstIllop : Option Illop → Option Illop → Option Illop
  | some a, some b => if illopCode a ≤ illopCode b then some a else some b
  | some a, none => some a
  | none, b => b

/-- The checks of R221 and R230 on a paired word that need no state: the fields of both halves. -/
def halvesCheck (u l : PairHalf) : Option Illop :=
  if (classACode u.op).isNone || (classBCode l.op).isNone then some .unassigned
  else firstIllop (laneCheck u.op (halfFields u)) (laneCheck l.op (halfFields l))

/-! ## Special registers (R227) -/

def sregAssigned (n : BitVec 14) : Bool :=
  decide (1 ≤ n.toNat && n.toNat ≤ 7) || decide (0x10 ≤ n.toNat && n.toNat ≤ 0x17)

def sregReadOnly (n : BitVec 14) : Bool :=
  decide (1 ≤ n.toNat && n.toNat ≤ 7) || decide (n.toNat = 0x17)

/-! ## Scalar words -/

/-- s58 (ok) named as destination (R208). -/
def destCheck (d : SIndex) : Option Illop := if d = 58 then some .rowrite else none

/-- A value outside its range, then ROWRITE. -/
def valueCheck (bad : Bool) (e : Illop) (k : Option Illop) : Option Illop := if bad then some e else k

end Sys2Proof
end

