-- ==== Sys2Proof/Machine/Opcodes.lean ====
section
/-!
DEFINITION. The lane opcodes of R228 and the constructor each stands for, and the checks on the fields of a
scalar word that its own description makes (R208–R210, R221).
-/
namespace Sys2Proof

/-- The instruction of a lane operation and its fields. -/
def laneInstr (op : LaneOp) (f : LaneFields) : Instr :=
  match op with
  | .vadd => .vadd f
  | .vsub => .vsub f
  | .vmul => .vmul f
  | .vmulh => .vmulh f
  | .vmad => .vmad f
  | .vdot2 => .vdot2 f
  | .vmin => .vmin f
  | .vmax => .vmax f
  | .vabs => .vabs f
  | .vshrr => .vshrr f
  | .vshl => .vshl f
  | .vshr => .vshr f
  | .vsar => .vsar f
  | .vand => .vand f
  | .vor => .vor f
  | .vxor => .vxor f
  | .vandn => .vandn f
  | .vnot => .vnot f
  | .vpopc => .vpopc f
  | .vclz => .vclz f
  | .vbfx => .vbfx f
  | .vcmpEq => .vcmpEq f
  | .vcmpNe => .vcmpNe f
  | .vcmpLt => .vcmpLt f
  | .vcmpLe => .vcmpLe f
  | .vcmpLtu => .vcmpLtu f
  | .vcmpLeu => .vcmpLeu f
  | .vsel => .vsel f
  | .pand => .pand f
  | .por => .por f
  | .pxor => .pxor f
  | .pnot => .pnot f
  | .vfcmpEq => .vfcmpEq f
  | .vfcmpLt => .vfcmpLt f
  | .vfcmpLe => .vfcmpLe f
  | .vfcmpUn => .vfcmpUn f
  | .vmov => .vmov f
  | .vperm => .vperm f
  | .vslide => .vslide f
  | .vid => .vid f
  | .vbcast => .vbcast f
  | .vbcastImm => .vbcastImm f
  | .vrdi => .vrdi f
  | .vwri => .vwri f
  | .vredi => .vredi f
  | .vfma => .vfma f
  | .vfms => .vfms f
  | .vfadd => .vfadd f
  | .vfsub => .vfsub f
  | .vfmul => .vfmul f
  | .vfmin => .vfmin f
  | .vfmax => .vfmax f
  | .vfabs => .vfabs f
  | .vfneg => .vfneg f
  | .vfdiv => .vfdiv f
  | .vfsqrt => .vfsqrt f
  | .vfrcp => .vfrcp f
  | .vfrsq => .vfrsq f
  | .vfexp2 => .vfexp2 f
  | .vflog2 => .vflog2 f
  | .vfsin => .vfsin f
  | .vfcos => .vfcos f
  | .vcvt => .vcvt f
  | .actEval => .actEval f
  | .vredf => .vredf f
  | .vld => .vld f
  | .vst => .vst f
  | .vlds => .vlds f
  | .vsts => .vsts f
  | .vatom => .vatom f
  | .vcp => .vcp f
  | .vcpc => .vcpc f
  | .cpy => .cpy f
  | .xshfl => .xshfl f
  | .qpush => .qpush f
  | .qpop => .qpop f
  | .vrld => .vrld f
  | .vrst => .vrst f
  | .tmmaE4m3 => .tmmaE4m3 f
  | .tmmaE5m2 => .tmmaE5m2 f
  | .tmmaI8 => .tmmaI8 f
  | .tmmaBf16 => .tmmaBf16 f
  | .tmmaF16 => .tmmaF16 f
  | .tmmaE2m1 => .tmmaE2m1 f
  | .tmmaT16 => .tmmaT16 f
  | .tmmaT32 => .tmmaT32 f
  | .tmmaT64 => .tmmaT64 f
  | .tzero => .tzero f
  | .tld => .tld f
  | .tst => .tst f
  | .tres => .tres f
  | .encTc => .encTc f
  | .embG => .embG f
  | .embR => .embR f
  | .gdeg => .gdeg f
  | .gnbr => .gnbr f
  | .gattr => .gattr f
  | .gadd => .gadd f
  | .gdel => .gdel f
  | .gdegIn => .gdegIn f
  | .gnbrIn => .gnbrIn f
  | .gattrIn => .gattrIn f
  | .gdelIn => .gdelIn f
  | .copen => .copen f
  | .copenLive => .copenLive f
  | .cnext => .cnext f
  | .cclose => .cclose f
  | .csave => .csave f
  | .crest => .crest f
  | .gbulk => .gbulk f
  | .wld => .wld f
  | .wval => .wval f
  | .wadv => .wadv f
  | .vptld => .vptld f
  | .actLd => .actLd f
  | .actSwap => .actSwap f

/-- The lane operation and fields of a single lane word. -/
def laneOf (i : Instr) : Option (LaneOp × LaneFields) :=
  match i with
  | .vadd f => some (.vadd, f)
  | .vsub f => some (.vsub, f)
  | .vmul f => some (.vmul, f)
  | .vmulh f => some (.vmulh, f)
  | .vmad f => some (.vmad, f)
  | .vdot2 f => some (.vdot2, f)
  | .vmin f => some (.vmin, f)
  | .vmax f => some (.vmax, f)
  | .vabs f => some (.vabs, f)
  | .vshrr f => some (.vshrr, f)
  | .vshl f => some (.vshl, f)
  | .vshr f => some (.vshr, f)
  | .vsar f => some (.vsar, f)
  | .vand f => some (.vand, f)
  | .vor f => some (.vor, f)
  | .vxor f => some (.vxor, f)
  | .vandn f => some (.vandn, f)
  | .vnot f => some (.vnot, f)
  | .vpopc f => some (.vpopc, f)
  | .vclz f => some (.vclz, f)
  | .vbfx f => some (.vbfx, f)
  | .vcmpEq f => some (.vcmpEq, f)
  | .vcmpNe f => some (.vcmpNe, f)
  | .vcmpLt f => some (.vcmpLt, f)
  | .vcmpLe f => some (.vcmpLe, f)
  | .vcmpLtu f => some (.vcmpLtu, f)
  | .vcmpLeu f => some (.vcmpLeu, f)
  | .vsel f => some (.vsel, f)
  | .pand f => some (.pand, f)
  | .por f => some (.por, f)
  | .pxor f => some (.pxor, f)
  | .pnot f => some (.pnot, f)
  | .vfcmpEq f => some (.vfcmpEq, f)
  | .vfcmpLt f => some (.vfcmpLt, f)
  | .vfcmpLe f => some (.vfcmpLe, f)
  | .vfcmpUn f => some (.vfcmpUn, f)
  | .vmov f => some (.vmov, f)
  | .vperm f => some (.vperm, f)
  | .vslide f => some (.vslide, f)
  | .vid f => some (.vid, f)
  | .vbcast f => some (.vbcast, f)
  | .vbcastImm f => some (.vbcastImm, f)
  | .vrdi f => some (.vrdi, f)
  | .vwri f => some (.vwri, f)
  | .vredi f => some (.vredi, f)
  | .vfma f => some (.vfma, f)
  | .vfms f => some (.vfms, f)
  | .vfadd f => some (.vfadd, f)
  | .vfsub f => some (.vfsub, f)
  | .vfmul f => some (.vfmul, f)
  | .vfmin f => some (.vfmin, f)
  | .vfmax f => some (.vfmax, f)
  | .vfabs f => some (.vfabs, f)
  | .vfneg f => some (.vfneg, f)
  | .vfdiv f => some (.vfdiv, f)
  | .vfsqrt f => some (.vfsqrt, f)
  | .vfrcp f => some (.vfrcp, f)
  | .vfrsq f => some (.vfrsq, f)
  | .vfexp2 f => some (.vfexp2, f)
  | .vflog2 f => some (.vflog2, f)
  | .vfsin f => some (.vfsin, f)
  | .vfcos f => some (.vfcos, f)
  | .vcvt f => some (.vcvt, f)
  | .actEval f => some (.actEval, f)
  | .vredf f => some (.vredf, f)
  | .vld f => some (.vld, f)
  | .vst f => some (.vst, f)
  | .vlds f => some (.vlds, f)
  | .vsts f => some (.vsts, f)
  | .vatom f => some (.vatom, f)
  | .vcp f => some (.vcp, f)
  | .vcpc f => some (.vcpc, f)
  | .cpy f => some (.cpy, f)
  | .xshfl f => some (.xshfl, f)
  | .qpush f => some (.qpush, f)
  | .qpop f => some (.qpop, f)
  | .vrld f => some (.vrld, f)
  | .vrst f => some (.vrst, f)
  | .tmmaE4m3 f => some (.tmmaE4m3, f)
  | .tmmaE5m2 f => some (.tmmaE5m2, f)
  | .tmmaI8 f => some (.tmmaI8, f)
  | .tmmaBf16 f => some (.tmmaBf16, f)
  | .tmmaF16 f => some (.tmmaF16, f)
  | .tmmaE2m1 f => some (.tmmaE2m1, f)
  | .tmmaT16 f => some (.tmmaT16, f)
  | .tmmaT32 f => some (.tmmaT32, f)
  | .tmmaT64 f => some (.tmmaT64, f)
  | .tzero f => some (.tzero, f)
  | .tld f => some (.tld, f)
  | .tst f => some (.tst, f)
  | .tres f => some (.tres, f)
  | .encTc f => some (.encTc, f)
  | .embG f => some (.embG, f)
  | .embR f => some (.embR, f)
  | .gdeg f => some (.gdeg, f)
  | .gnbr f => some (.gnbr, f)
  | .gattr f => some (.gattr, f)
  | .gadd f => some (.gadd, f)
  | .gdel f => some (.gdel, f)
  | .gdegIn f => some (.gdegIn, f)
  | .gnbrIn f => some (.gnbrIn, f)
  | .gattrIn f => some (.gattrIn, f)
  | .gdelIn f => some (.gdelIn, f)
  | .copen f => some (.copen, f)
  | .copenLive f => some (.copenLive, f)
  | .cnext f => some (.cnext, f)
  | .cclose f => some (.cclose, f)
  | .csave f => some (.csave, f)
  | .crest f => some (.crest, f)
  | .gbulk f => some (.gbulk, f)
  | .wld f => some (.wld, f)
  | .wval f => some (.wval, f)
  | .wadv f => some (.wadv, f)
  | .vptld f => some (.vptld, f)
  | .actLd f => some (.actLd, f)
  | .actSwap f => some (.actSwap, f)
  | _ => none

/-- OPC of the single form (R228). -/
def laneCode (op : LaneOp) : BitVec 9 :=
  match op with
  | .vadd => 0x001
  | .vsub => 0x002
  | .vmul => 0x003
  | .vmulh => 0x004
  | .vmad => 0x005
  | .vdot2 => 0x006
  | .vmin => 0x007
  | .vmax => 0x008
  | .vabs => 0x009
  | .vshrr => 0x00A
  | .vshl => 0x00B
  | .vshr => 0x00C
  | .vsar => 0x00D
  | .vand => 0x010
  | .vor => 0x011
  | .vxor => 0x012
  | .vandn => 0x013
  | .vnot => 0x014
  | .vpopc => 0x015
  | .vclz => 0x016
  | .vbfx => 0x017
  | .vcmpEq => 0x020
  | .vcmpNe => 0x021
  | .vcmpLt => 0x022
  | .vcmpLe => 0x023
  | .vcmpLtu => 0x024
  | .vcmpLeu => 0x025
  | .vsel => 0x026
  | .pand => 0x027
  | .por => 0x028
  | .pxor => 0x029
  | .pnot => 0x02A
  | .vfcmpEq => 0x02B
  | .vfcmpLt => 0x02C
  | .vfcmpLe => 0x02D
  | .vfcmpUn => 0x02E
  | .vmov => 0x030
  | .vperm => 0x031
  | .vslide => 0x032
  | .vid => 0x038
  | .vbcast => 0x039
  | .vbcastImm => 0x039
  | .vrdi => 0x03A
  | .vwri => 0x03B
  | .vredi => 0x03C
  | .vfma => 0x040
  | .vfms => 0x041
  | .vfadd => 0x042
  | .vfsub => 0x043
  | .vfmul => 0x044
  | .vfmin => 0x045
  | .vfmax => 0x046
  | .vfabs => 0x047
  | .vfneg => 0x048
  | .vfdiv => 0x050
  | .vfsqrt => 0x051
  | .vfrcp => 0x052
  | .vfrsq => 0x053
  | .vfexp2 => 0x054
  | .vflog2 => 0x055
  | .vfsin => 0x056
  | .vfcos => 0x057
  | .vcvt => 0x060
  | .actEval => 0x068
  | .vredf => 0x070
  | .vld => 0x100
  | .vst => 0x101
  | .vlds => 0x102
  | .vsts => 0x103
  | .vatom => 0x104
  | .vcp => 0x105
  | .vcpc => 0x106
  | .cpy => 0x10C
  | .xshfl => 0x107
  | .qpush => 0x108
  | .qpop => 0x109
  | .vrld => 0x10A
  | .vrst => 0x10B
  | .tmmaE4m3 => 0x140
  | .tmmaE5m2 => 0x141
  | .tmmaI8 => 0x142
  | .tmmaBf16 => 0x143
  | .tmmaF16 => 0x144
  | .tmmaE2m1 => 0x145
  | .tmmaT16 => 0x146
  | .tmmaT32 => 0x147
  | .tmmaT64 => 0x148
  | .tzero => 0x149
  | .tld => 0x14A
  | .tst => 0x14B
  | .tres => 0x14C
  | .encTc => 0x14D
  | .embG => 0x14E
  | .embR => 0x14F
  | .gdeg => 0x160
  | .gnbr => 0x161
  | .gattr => 0x162
  | .gadd => 0x163
  | .gdel => 0x164
  | .gdegIn => 0x165
  | .gnbrIn => 0x166
  | .gattrIn => 0x167
  | .gdelIn => 0x168
  | .copen => 0x169
  | .copenLive => 0x16A
  | .cnext => 0x16B
  | .cclose => 0x16C
  | .csave => 0x16D
  | .crest => 0x16E
  | .gbulk => 0x16F
  | .wld => 0x180
  | .wval => 0x181
  | .wadv => 0x182
  | .vptld => 0x183
  | .actLd => 0x184
  | .actSwap => 0x185

/-- The operation of an OPC (R228); OPC 0x039 is told apart by BIMM (R264). -/
def laneOpOf (opc : BitVec 9) (bimm : Bool) : Option LaneOp :=
  match opc.toNat with
  | 0x001 => some .vadd
  | 0x002 => some .vsub
  | 0x003 => some .vmul
  | 0x004 => some .vmulh
  | 0x005 => some .vmad
  | 0x006 => some .vdot2
  | 0x007 => some .vmin
  | 0x008 => some .vmax
  | 0x009 => some .vabs
  | 0x00A => some .vshrr
  | 0x00B => some .vshl
  | 0x00C => some .vshr
  | 0x00D => some .vsar
  | 0x010 => some .vand
  | 0x011 => some .vor
  | 0x012 => some .vxor
  | 0x013 => some .vandn
  | 0x014 => some .vnot
  | 0x015 => some .vpopc
  | 0x016 => some .vclz
  | 0x017 => some .vbfx
  | 0x020 => some .vcmpEq
  | 0x021 => some .vcmpNe
  | 0x022 => some .vcmpLt
  | 0x023 => some .vcmpLe
  | 0x024 => some .vcmpLtu
  | 0x025 => some .vcmpLeu
  | 0x026 => some .vsel
  | 0x027 => some .pand
  | 0x028 => some .por
  | 0x029 => some .pxor
  | 0x02A => some .pnot
  | 0x02B => some .vfcmpEq
  | 0x02C => some .vfcmpLt
  | 0x02D => some .vfcmpLe
  | 0x02E => some .vfcmpUn
  | 0x030 => some .vmov
  | 0x031 => some .vperm
  | 0x032 => some .vslide
  | 0x038 => some .vid
  | 0x039 => some (if bimm then .vbcastImm else .vbcast)
  | 0x03A => some .vrdi
  | 0x03B => some .vwri
  | 0x03C => some .vredi
  | 0x040 => some .vfma
  | 0x041 => some .vfms
  | 0x042 => some .vfadd
  | 0x043 => some .vfsub
  | 0x044 => some .vfmul
  | 0x045 => some .vfmin
  | 0x046 => some .vfmax
  | 0x047 => some .vfabs
  | 0x048 => some .vfneg
  | 0x050 => some .vfdiv
  | 0x051 => some .vfsqrt
  | 0x052 => some .vfrcp
  | 0x053 => some .vfrsq
  | 0x054 => some .vfexp2
  | 0x055 => some .vflog2
  | 0x056 => some .vfsin
  | 0x057 => some .vfcos
  | 0x060 => some .vcvt
  | 0x068 => some .actEval
  | 0x070 => some .vredf
  | 0x100 => some .vld
  | 0x101 => some .vst
  | 0x102 => some .vlds
  | 0x103 => some .vsts
  | 0x104 => some .vatom
  | 0x105 => some .vcp
  | 0x106 => some .vcpc
  | 0x107 => some .xshfl
  | 0x108 => some .qpush
  | 0x109 => some .qpop
  | 0x10A => some .vrld
  | 0x10B => some .vrst
  | 0x10C => some .cpy
  | 0x140 => some .tmmaE4m3
  | 0x141 => some .tmmaE5m2
  | 0x142 => some .tmmaI8
  | 0x143 => some .tmmaBf16
  | 0x144 => some .tmmaF16
  | 0x145 => some .tmmaE2m1
  | 0x146 => some .tmmaT16
  | 0x147 => some .tmmaT32
  | 0x148 => some .tmmaT64
  | 0x149 => some .tzero
  | 0x14A => some .tld
  | 0x14B => some .tst
  | 0x14C => some .tres
  | 0x14D => some .encTc
  | 0x14E => some .embG
  | 0x14F => some .embR
  | 0x160 => some .gdeg
  | 0x161 => some .gnbr
  | 0x162 => some .gattr
  | 0x163 => some .gadd
  | 0x164 => some .gdel
  | 0x165 => some .gdegIn
  | 0x166 => some .gnbrIn
  | 0x167 => some .gattrIn
  | 0x168 => some .gdelIn
  | 0x169 => some .copen
  | 0x16A => some .copenLive
  | 0x16B => some .cnext
  | 0x16C => some .cclose
  | 0x16D => some .csave
  | 0x16E => some .crest
  | 0x16F => some .gbulk
  | 0x180 => some .wld
  | 0x181 => some .wval
  | 0x182 => some .wadv
  | 0x183 => some .vptld
  | 0x184 => some .actLd
  | 0x185 => some .actSwap
  | _ => none

/-- The checks on a scalar word's fields beyond opcode, reserved bits, SZ and MOD: values out of range, special
registers, s58 as a destination (R208–R210, R221, R227, R234, R301, R306). -/
def scalarCheck (i : Instr) : Option Illop :=
  match i with
  | .slli d _ n | .srli d _ n | .srai d _ n => valueCheck (decide (63 < n.toNat)) .undefval (destCheck d)
  | .brCond c a _ =>
    if c = 0xF then some .undefval else if c = 0xE ∧ a ≠ 0 then some .rsvbit else none
  | .bind d _ b => valueCheck (decide (b.toNat = 0) || decide (62 < b.toNat)) .undefval (destCheck d)
  | .waitr c _ => valueCheck (decide (5 < c.toNat)) .undefval none
  | .srd d n => valueCheck (!sregAssigned n) .unassigned (destCheck d)
  | .swr _ n => valueCheck (!sregAssigned n) .unassigned (valueCheck (sregReadOnly n) .rospecial none)
  | .add d _ _ => destCheck d
  | .sub d _ _ => destCheck d
  | .and d _ _ => destCheck d
  | .or d _ _ => destCheck d
  | .xor d _ _ => destCheck d
  | .andn d _ _ => destCheck d
  | .sll d _ _ => destCheck d
  | .srl d _ _ => destCheck d
  | .sra d _ _ => destCheck d
  | .mul d _ _ => destCheck d
  | .mulh d _ _ => destCheck d
  | .mulhu d _ _ => destCheck d
  | .div d _ _ => destCheck d
  | .divu d _ _ => destCheck d
  | .rem d _ _ => destCheck d
  | .remu d _ _ => destCheck d
  | .min d _ _ => destCheck d
  | .max d _ _ => destCheck d
  | .minu d _ _ => destCheck d
  | .maxu d _ _ => destCheck d
  | .clz d _ => destCheck d
  | .popc d _ => destCheck d
  | .addw d _ _ => destCheck d
  | .subw d _ _ => destCheck d
  | .seq d _ _ => destCheck d
  | .sne d _ _ => destCheck d
  | .slt d _ _ => destCheck d
  | .sltu d _ _ => destCheck d
  | .sle d _ _ => destCheck d
  | .sleu d _ _ => destCheck d
  | .cmovNz d _ _ => destCheck d
  | .cmovZ d _ _ => destCheck d
  | .launch d _ _ => destCheck d
  | .addi d _ _ => destCheck d
  | .andi d _ _ => destCheck d
  | .ori d _ _ => destCheck d
  | .xori d _ _ => destCheck d
  | .slti d _ _ => destCheck d
  | .sltiu d _ _ => destCheck d
  | .muli d _ _ => destCheck d
  | .li d _ => destCheck d
  | .lui d _ => destCheck d
  | .ovlLd d _ => destCheck d
  | .ovlEv d _ => destCheck d
  | .ovlPin d _ => destCheck d
  | .ovlUnpin d _ => destCheck d
  | .ldb d _ _ _ => destCheck d
  | .ldh d _ _ _ => destCheck d
  | .ldw d _ _ _ => destCheck d
  | .ldd d _ _ _ => destCheck d
  | .ldbs d _ _ => destCheck d
  | .ldhs d _ _ => destCheck d
  | .ldws d _ _ => destCheck d
  | .atomAddW d _ _ => destCheck d
  | .atomXchgW d _ _ => destCheck d
  | .atomCasW d _ _ => destCheck d
  | .atomAndW d _ _ => destCheck d
  | .atomOrW d _ _ => destCheck d
  | .atomXorW d _ _ => destCheck d
  | .atomMinW d _ _ => destCheck d
  | .atomMaxW d _ _ => destCheck d
  | .atomMinuW d _ _ => destCheck d
  | .atomMaxuW d _ _ => destCheck d
  | .atomFaddW d _ _ => destCheck d
  | .atomAddD d _ _ => destCheck d
  | .atomXchgD d _ _ => destCheck d
  | .atomCasD d _ _ => destCheck d
  | .atomAndD d _ _ => destCheck d
  | .atomOrD d _ _ => destCheck d
  | .atomXorD d _ _ => destCheck d
  | .atomMinD d _ _ => destCheck d
  | .atomMaxD d _ _ => destCheck d
  | .atomMinuD d _ _ => destCheck d
  | .atomMaxuD d _ _ => destCheck d
  | .acqTeam d _ => destCheck d
  | .acqCluster d _ => destCheck d
  | .acqDevice d _ => destCheck d
  | .acqSystem d _ => destCheck d
  | .barArr d _ => destCheck d
  | .rldb d _ _ _ => destCheck d
  | .rldh d _ _ _ => destCheck d
  | .rldw d _ _ _ => destCheck d
  | .rldd d _ _ => destCheck d
  | _ => none

end Sys2Proof
end

