-- ==== Sys2Proof/WellFormed.lean ====
section
/-!
DEFINITION. Well-formed instructions: those whose fields pass every check of R221 that needs no state.
-/
namespace Sys2Proof

/-- The first check on an instruction's own fields that fails. Events have no fields to check. -/
def fieldCheck (i : Instr) : Option Illop :=
  match i with
  | .pairedLaneWord u l =>
    match halvesCheck u l with
    | some e => some e
    | none => pairCheck u l
  | _ =>
    match laneOf i with
    | some (op, f) => laneCheck op f
    | none => scalarCheck i

/-- An instruction no decoder refuses and no field check traps; the grant of R215 is the group's. -/
def WellFormed (i : Instr) : Prop := fieldCheck i = none

end Sys2Proof
end

