-- ==== Sys2Proof/Decode.lean ====
section
/-!
DEFINITION. The decoder (R206–R230): total on any bytes, refusing by the sub-code of R221. Then the encoder,
written from the same tables.
-/
namespace Sys2Proof

/-! ## Words as bytes (R3, R206) -/

/-- n bytes of a value, least significant first. -/
def leBytes : Nat → Nat → List Byte
  | 0, _ => []
  | n + 1, v => BitVec.ofNat 8 v :: leBytes n (v / 256)

def ofLe : List Byte → Nat
  | [] => 0
  | b :: bs => b.toNat + 256 * ofLe bs

/-! ## Fields of a scalar word (R207) -/

def fOP (w : Word) : BitVec 6 := w.extractLsb' 26 6
def fSD (w : Word) : BitVec 6 := w.extractLsb' 20 6
def fSA (w : Word) : BitVec 6 := w.extractLsb' 14 6
def fSB (w : Word) : BitVec 6 := w.extractLsb' 8 6
def fFN (w : Word) : BitVec 8 := w.extractLsb' 0 8
def fIMM14 (w : Word) : BitVec 14 := w.extractLsb' 0 14
def fIMM20 (w : Word) : BitVec 20 := w.extractLsb' 0 20
def fCOND (w : Word) : BitVec 4 := w.extractLsb' 22 4
def fSAc (w : Word) : BitVec 6 := w.extractLsb' 16 6
def fOFF16 (w : Word) : BitVec 16 := w.extractLsb' 0 16
def fOFF26 (w : Word) : BitVec 26 := w.extractLsb' 0 26
def fOFF10 (w : Word) : BitVec 10 := w.extractLsb' 4 10
def fSZ (w : Word) : BitVec 2 := w.extractLsb' 2 2
def fMOD (w : Word) : BitVec 2 := w.extractLsb' 0 2

/-- Accept when a field condition holds, else refuse by name. -/
def need (ok : Bool) (e : Illop) (i : Instr) : Except Illop Instr := if ok then .ok i else .error e

/-- Unused fields that must be zero (R208). -/
def zeroed (z : Bool) (i : Instr) : Except Illop Instr := need z .rsvbit i

/-- Integer ALU, OP 0x01 (R226, R233). -/
def decodeAlu (w : Word) : Except Illop Instr :=
  let d := fSD w; let a := fSA w; let b := fSB w
  match (fFN w).toNat with
  | 0x00 => .ok (.add d a b)
  | 0x01 => .ok (.sub d a b)
  | 0x02 => .ok (.and d a b)
  | 0x03 => .ok (.or d a b)
  | 0x04 => .ok (.xor d a b)
  | 0x05 => .ok (.andn d a b)
  | 0x06 => .ok (.sll d a b)
  | 0x07 => .ok (.srl d a b)
  | 0x08 => .ok (.sra d a b)
  | 0x09 => .ok (.mul d a b)
  | 0x0A => .ok (.mulh d a b)
  | 0x0B => .ok (.mulhu d a b)
  | 0x0C => .ok (.div d a b)
  | 0x0D => .ok (.divu d a b)
  | 0x0E => .ok (.rem d a b)
  | 0x0F => .ok (.remu d a b)
  | 0x10 => .ok (.min d a b)
  | 0x11 => .ok (.max d a b)
  | 0x12 => .ok (.minu d a b)
  | 0x13 => .ok (.maxu d a b)
  | 0x14 => zeroed (decide (b = 0)) (.clz d a)
  | 0x15 => zeroed (decide (b = 0)) (.popc d a)
  | 0x16 => .ok (.addw d a b)
  | 0x17 => .ok (.subw d a b)
  | _ => .error .unassigned

/-- Compare and conditional move, OP 0x02 (R226, R236). -/
def decodeCmp (w : Word) : Except Illop Instr :=
  let d := fSD w; let a := fSA w; let b := fSB w
  match (fFN w).toNat with
  | 0x00 => .ok (.seq d a b)
  | 0x01 => .ok (.sne d a b)
  | 0x02 => .ok (.slt d a b)
  | 0x03 => .ok (.sltu d a b)
  | 0x04 => .ok (.sle d a b)
  | 0x05 => .ok (.sleu d a b)
  | 0x08 => .ok (.cmovNz d a b)
  | 0x09 => .ok (.cmovZ d a b)
  | _ => .error .unassigned

/-- Control, OP 0x03 (R226). -/
def decodeControl (w : Word) : Except Illop Instr :=
  let d := fSD w; let a := fSA w; let b := fSB w
  match (fFN w).toNat with
  | 0x00 => zeroed (decide (d = 0) && decide (a = 0) && decide (b = 0)) .exit
  | 0x01 => zeroed (decide (d = 0) && decide (b = 0)) (.trap a)
  | 0x02 => zeroed (decide (d = 0) && decide (b = 0)) (.rett a)
  | 0x03 => zeroed (decide (d = 0)) (.callo a b)
  | 0x04 => zeroed (decide (d = 0) && decide (a = 0) && decide (b = 0)) .ret
  | 0x05 => .ok (.launch d a b)
  | 0x06 => zeroed (decide (d = 0) && decide (a = 0) && decide (b = 0)) .idemBegin
  | 0x07 => zeroed (decide (d = 0) && decide (a = 0) && decide (b = 0)) .idemEnd
  | _ => .error .unassigned

/-- Overlay, OP 0x16 (R226, R244). -/
def decodeOverlay (w : Word) : Except Illop Instr :=
  let d := fSD w; let a := fSA w; let b := fSB w
  match (fFN w).toNat with
  | 0x00 => zeroed (decide (b = 0)) (.ovlLd d a)
  | 0x01 => zeroed (decide (b = 0)) (.ovlEv d a)
  | 0x02 => zeroed (decide (b = 0)) (.ovlPin d a)
  | 0x03 => zeroed (decide (b = 0)) (.ovlUnpin d a)
  | _ => .error .unassigned

/-- Scalar atomics, OP 0x22 (R226, R295). -/
def decodeAtomic (w : Word) : Except Illop Instr :=
  let d := fSD w; let a := fSA w; let b := fSB w
  match (fFN w).toNat with
  | 0x00 => .ok (.atomAddW d a b)
  | 0x01 => .ok (.atomXchgW d a b)
  | 0x02 => .ok (.atomCasW d a b)
  | 0x03 => .ok (.atomAndW d a b)
  | 0x04 => .ok (.atomOrW d a b)
  | 0x05 => .ok (.atomXorW d a b)
  | 0x06 => .ok (.atomMinW d a b)
  | 0x07 => .ok (.atomMaxW d a b)
  | 0x08 => .ok (.atomMinuW d a b)
  | 0x09 => .ok (.atomMaxuW d a b)
  | 0x0A => .ok (.atomFaddW d a b)
  | 0x10 => .ok (.atomAddD d a b)
  | 0x11 => .ok (.atomXchgD d a b)
  | 0x12 => .ok (.atomCasD d a b)
  | 0x13 => .ok (.atomAndD d a b)
  | 0x14 => .ok (.atomOrD d a b)
  | 0x15 => .ok (.atomXorD d a b)
  | 0x16 => .ok (.atomMinD d a b)
  | 0x17 => .ok (.atomMaxD d a b)
  | 0x18 => .ok (.atomMinuD d a b)
  | 0x19 => .ok (.atomMaxuD d a b)
  | _ => .error .unassigned

/-- Synchronisation, OP 0x23 (R226). -/
def decodeSync (w : Word) : Except Illop Instr :=
  let d := fSD w; let a := fSA w; let b := fSB w
  match (fFN w).toNat with
  | 0x00 => zeroed (decide (b = 0)) (.acqTeam d a)
  | 0x01 => zeroed (decide (b = 0)) (.acqCluster d a)
  | 0x02 => zeroed (decide (b = 0)) (.acqDevice d a)
  | 0x03 => zeroed (decide (b = 0)) (.acqSystem d a)
  | 0x04 => zeroed (decide (d = 0)) (.relTeam a b)
  | 0x05 => zeroed (decide (d = 0)) (.relCluster a b)
  | 0x06 => zeroed (decide (d = 0)) (.relDevice a b)
  | 0x07 => zeroed (decide (d = 0)) (.relSystem a b)
  | 0x08 => .ok (.bind d a b)
  | 0x09 => zeroed (decide (d = 0) && decide (b = 0)) (.unbind a)
  | 0x0A => zeroed (decide (d = 0) && decide (a = 0) && decide (b = 0)) .fence
  | 0x0B => zeroed (decide (b = 0)) (.waitr d a)
  | _ => .error .unassigned

/-- Cache maintenance, OP 0x24 (R226, R304). -/
def decodeMaint (w : Word) : Except Illop Instr :=
  let d := fSD w; let a := fSA w; let b := fSB w
  match (fFN w).toNat with
  | 0x00 => zeroed (decide (d = 0)) (.cleanL1 a b)
  | 0x01 => zeroed (decide (d = 0)) (.cleanL2 a b)
  | 0x02 => zeroed (decide (d = 0)) (.invL1 a b)
  | 0x03 => zeroed (decide (d = 0)) (.invL2 a b)
  | 0x04 => zeroed (decide (d = 0)) (.clinvL1 a b)
  | 0x05 => zeroed (decide (d = 0)) (.clinvL2 a b)
  | _ => .error .unassigned

/-- Barriers, OP 0x26 (R226, R307). -/
def decodeBarrier (w : Word) : Except Illop Instr :=
  let d := fSD w; let a := fSA w; let b := fSB w
  match (fFN w).toNat with
  | 0x00 => zeroed (decide (b.extractLsb' 4 2 = 0) && decide (d = 0)) (.barInitTeam a (b.extractLsb' 0 4))
  | 0x01 => zeroed (decide (b.extractLsb' 4 2 = 0) && decide (d = 0)) (.barInitCluster a (b.extractLsb' 0 4))
  | 0x02 => zeroed (decide (b.extractLsb' 4 2 = 0) && decide (d = 0)) (.barInitGrid a (b.extractLsb' 0 4))
  | 0x04 => zeroed (decide (b.extractLsb' 4 2 = 0) && decide (a = 0)) (.barArr d (b.extractLsb' 0 4))
  | 0x05 => zeroed (decide (b.extractLsb' 4 2 = 0) && decide (d = 0)) (.barWait a (b.extractLsb' 0 4))
  | 0x06 => zeroed (decide (b.extractLsb' 4 2 = 0) && decide (d = 0) && decide (a = 0)) (.barSync (b.extractLsb' 0 4))
  | _ => .error .unassigned

/-- Scalar loads, OP 0x20 (R211, R289). -/
def decodeLoad (w : Word) : Except Illop Instr :=
  let d := fSD w; let a := fSA w; let o := fOFF10 w; let m := w.extractLsb' 1 1
  match (fSZ w).toNat, (fMOD w).toNat with
  | 0, 0 | 0, 2 => .ok (.ldb d a o m)
  | 1, 0 | 1, 2 => .ok (.ldh d a o m)
  | 2, 0 | 2, 2 => .ok (.ldw d a o m)
  | 3, 0 | 3, 2 => .ok (.ldd d a o m)
  | 0, 1 => .ok (.ldbs d a o)
  | 1, 1 => .ok (.ldhs d a o)
  | 2, 1 => .ok (.ldws d a o)
  | _, _ => .error .undefval

/-- Scalar stores, OP 0x21 (R211, R289). -/
def decodeStore (w : Word) : Except Illop Instr :=
  let d := fSD w; let a := fSA w; let o := fOFF10 w; let m := w.extractLsb' 1 1
  match (fSZ w).toNat, (fMOD w).toNat with
  | 0, 0 | 0, 2 => .ok (.stb d a o m)
  | 1, 0 | 1, 2 => .ok (.sth d a o m)
  | 2, 0 | 2, 2 => .ok (.stw d a o m)
  | 3, 0 | 3, 2 => .ok (.std d a o m)
  | _, _ => .error .undefval

/-- Remote scratch loads, OP 0x27 (R225, R293). -/
def decodeRld (w : Word) : Except Illop Instr :=
  let d := fSD w; let a := fSA w; let o := fOFF10 w; let m := w.extractLsb' 0 1
  match (fSZ w).toNat, (fMOD w).toNat with
  | 0, 0 | 0, 1 => .ok (.rldb d a o m)
  | 1, 0 | 1, 1 => .ok (.rldh d a o m)
  | 2, 0 | 2, 1 => .ok (.rldw d a o m)
  | 3, 0 => .ok (.rldd d a o)
  | _, _ => .error .undefval

/-- Remote scratch stores, OP 0x28 (R225, R293). -/
def decodeRst (w : Word) : Except Illop Instr :=
  let d := fSD w; let a := fSA w; let o := fOFF10 w
  match (fSZ w).toNat, (fMOD w).toNat with
  | 0, 0 => .ok (.rstb d a o)
  | 1, 0 => .ok (.rsth d a o)
  | 2, 0 => .ok (.rstw d a o)
  | 3, 0 => .ok (.rstd d a o)
  | _, _ => .error .undefval

/-- WAIT, OP 0x25 (R305): bits 25:24 must be zero. -/
def decodeWait (w : Word) : Except Illop Instr :=
  zeroed (decide (w.extractLsb' 24 2 = 0))
    (.wait (w.extractLsb' 20 4) (w.extractLsb' 16 4) (w.extractLsb' 12 4) (w.extractLsb' 8 4) (w.extractLsb' 4 4)
      (w.extractLsb' 0 4))

/-- SRD and SWR (R227, R249, R250): an unassigned number comes before a reserved field that is not zero. -/
def decodeSpecial (zero : Bool) (n : BitVec 14) (i : Instr) : Except Illop Instr :=
  if zero then .ok i else if sregAssigned n then .error .rsvbit else .error .unassigned

/-- A scalar word (R207, R225, R230). -/
def decodeScalar (w : Word) : Except Illop Instr :=
  match (fOP w).toNat with
  | 0x01 => decodeAlu w
  | 0x02 => decodeCmp w
  | 0x03 => decodeControl w
  | 0x04 => .ok (.addi (fSD w) (fSA w) (fIMM14 w))
  | 0x05 => .ok (.andi (fSD w) (fSA w) (fIMM14 w))
  | 0x06 => .ok (.ori (fSD w) (fSA w) (fIMM14 w))
  | 0x07 => .ok (.xori (fSD w) (fSA w) (fIMM14 w))
  | 0x08 => .ok (.slli (fSD w) (fSA w) (fIMM14 w))
  | 0x09 => .ok (.srli (fSD w) (fSA w) (fIMM14 w))
  | 0x0A => .ok (.srai (fSD w) (fSA w) (fIMM14 w))
  | 0x0B => .ok (.slti (fSD w) (fSA w) (fIMM14 w))
  | 0x0C => .ok (.sltiu (fSD w) (fSA w) (fIMM14 w))
  | 0x0D => .ok (.muli (fSD w) (fSA w) (fIMM14 w))
  | 0x0E => .ok (.li (fSD w) (fIMM20 w))
  | 0x0F => .ok (.lui (fSD w) (fIMM20 w))
  | 0x10 => .ok (.brCond (fCOND w) (fSAc w) (fOFF16 w))
  | 0x11 => zeroed (decide (w.extractLsb' 19 7 = 0)) (.brd (w.extractLsb' 16 3) (fOFF16 w))
  | 0x12 => .ok (.call (fOFF26 w))
  | 0x13 => .ok (.join (fOFF26 w))
  | 0x14 => .ok (.lx (fSD w) (fIMM20 w))
  | 0x15 => zeroed (decide (fSD w = 0)) (.sigchk (fIMM20 w))
  | 0x16 => decodeOverlay w
  | 0x17 => decodeSpecial (decide (fSA w = 0)) (fIMM14 w) (.srd (fSD w) (fIMM14 w))
  | 0x18 => decodeSpecial (decide (fSD w = 0)) (fIMM14 w) (.swr (fSA w) (fIMM14 w))
  | 0x20 => decodeLoad w
  | 0x21 => decodeStore w
  | 0x22 => decodeAtomic w
  | 0x23 => decodeSync w
  | 0x24 => decodeMaint w
  | 0x25 => decodeWait w
  | 0x26 => decodeBarrier w
  | 0x27 => decodeRld w
  | 0x28 => decodeRst w
  | _ => .error .unassigned

/-! ## Lane words -/

/-- The fields of a single lane word (R212, R214). -/
def laneFieldsOf (w : Lanes) : LaneFields where
  vd := w.extractLsb' 77 9
  va := w.extractLsb' 68 9
  vb := w.extractLsb' 59 9
  vc := w.extractLsb' 50 9
  pg := w.extractLsb' 47 3
  pn := w.getLsbD 46
  xmod := w.extractLsb' 36 10
  bimm := w.getLsbD 35
  sat := w.getLsbD 34
  rm := w.extractLsb' 32 2
  imm := w.extractLsb' 0 32

/-- A half of a paired word (R218) from its 47 bits, its operation already read from the class's table. -/
def halfOf (op : LaneOp) (h : BitVec 47) : PairHalf where
  op := op
  vd := h.extractLsb' 32 8
  va := h.extractLsb' 24 8
  vb := h.extractLsb' 16 8
  vc := h.extractLsb' 8 8
  pg := h.extractLsb' 5 3
  mod5 := h.extractLsb' 0 5

def upperBits (w : Lanes) : BitVec 47 := w.extractLsb' 48 47
def lowerBits (w : Lanes) : BitVec 47 := w.extractLsb' 1 47
def opc7 (h : BitVec 47) : Nat := (h.extractLsb' 40 7).toNat

/-- A paired word (R218, R230): bit 0, then both OPC7 codes, then the fields of both halves. -/
def decodePair (w : Lanes) : Except Illop Instr :=
  if w.getLsbD 0 then .error .rsvbit
  else match classAOp (opc7 (upperBits w)), classBOp (opc7 (lowerBits w)) with
    | some a, some b =>
      let u := halfOf a (upperBits w)
      let l := halfOf b (lowerBits w)
      match halvesCheck u l with
      | some e => .error e
      | none => .ok (.pairedLaneWord u l)
    | _, _ => .error .unassigned

/-- A single lane word: OPC, then the fields. -/
def decodeSingle (w : Lanes) : Except Illop Instr :=
  let f := laneFieldsOf w
  match laneOpOf (w.extractLsb' 86 9) f.bimm with
  | none => .error .unassigned
  | some op =>
    match laneCheck op f with
    | some e => .error e
    | none => .ok (laneInstr op f)

/-- A lane word (R212, R218, R230). -/
def decodeLane (w : Lanes) : Except Illop Instr :=
  if w.getLsbD 95 then decodePair w else decodeSingle w

/-- The decoder on the bytes of one word: 4 bytes a scalar word, 12 a lane word, little-endian (R206). -/
def decodeBytes (bs : List Byte) : Except Illop Instr :=
  if bs.length = 12 then decodeLane (BitVec.ofNat 96 (ofLe bs)) else decodeScalar (BitVec.ofNat 32 (ofLe bs))

/-- The instruction the decoder reads from the bits the opcode table numbers: up to 32 a scalar word, more a
lane word. -/
def decodeTableWord (nbits w : Nat) : Option Instr :=
  match decodeBytes (leBytes (if nbits ≤ 32 then 4 else 12) w) with
  | .ok i => some i
  | .error _ => none

/-! ## The encoder -/

def srWord (op d a b : BitVec 6) (fn : BitVec 8) : Word := op ++ d ++ a ++ b ++ fn
def siWord (op d a : BitVec 6) (i : BitVec 14) : Word := op ++ d ++ a ++ i
def slWord (op d : BitVec 6) (i : BitVec 20) : Word := op ++ d ++ i
def scWord (op : BitVec 6) (c : BitVec 4) (a : BitVec 6) (o : BitVec 16) : Word := op ++ c ++ a ++ o
def sjWord (op : BitVec 6) (o : BitVec 26) : Word := op ++ o
def smWord (op d a : BitVec 6) (o : BitVec 10) (sz md : BitVec 2) : Word := op ++ d ++ a ++ o ++ sz ++ md

/-- SZ and MOD of a word whose spall or sign bit is m (R211). -/
def spMod (m : BitVec 1) : BitVec 2 := m ++ (0 : BitVec 1)
def sxMod (m : BitVec 1) : BitVec 2 := (0 : BitVec 1) ++ m

/-- A barrier number in SB (R307). -/
def barSb (n : BitVec 4) : BitVec 6 := (0 : BitVec 2) ++ n

def singleWord (opc : BitVec 9) (f : LaneFields) : Lanes :=
  (0 : BitVec 1) ++ opc ++ f.vd ++ f.va ++ f.vb ++ f.vc ++ f.pg ++ BitVec.ofBool f.pn ++ f.xmod ++ BitVec.ofBool f.bimm
    ++ BitVec.ofBool f.sat ++ f.rm ++ f.imm

def halfWord (code : Nat) (h : PairHalf) : BitVec 47 :=
  BitVec.ofNat 7 code ++ h.vd ++ h.va ++ h.vb ++ h.vc ++ h.pg ++ h.mod5

def pairWord (a b : Nat) (u l : PairHalf) : Lanes :=
  (1 : BitVec 1) ++ halfWord a u ++ halfWord b l ++ (0 : BitVec 1)

/-- The word of a scalar instruction; `none` for the others. -/
def encodeScalar (i : Instr) : Option Word :=
  match i with
  | .add d a b => some (srWord 0x01 d a b 0x00)
  | .sub d a b => some (srWord 0x01 d a b 0x01)
  | .and d a b => some (srWord 0x01 d a b 0x02)
  | .or d a b => some (srWord 0x01 d a b 0x03)
  | .xor d a b => some (srWord 0x01 d a b 0x04)
  | .andn d a b => some (srWord 0x01 d a b 0x05)
  | .sll d a b => some (srWord 0x01 d a b 0x06)
  | .srl d a b => some (srWord 0x01 d a b 0x07)
  | .sra d a b => some (srWord 0x01 d a b 0x08)
  | .mul d a b => some (srWord 0x01 d a b 0x09)
  | .mulh d a b => some (srWord 0x01 d a b 0x0A)
  | .mulhu d a b => some (srWord 0x01 d a b 0x0B)
  | .div d a b => some (srWord 0x01 d a b 0x0C)
  | .divu d a b => some (srWord 0x01 d a b 0x0D)
  | .rem d a b => some (srWord 0x01 d a b 0x0E)
  | .remu d a b => some (srWord 0x01 d a b 0x0F)
  | .min d a b => some (srWord 0x01 d a b 0x10)
  | .max d a b => some (srWord 0x01 d a b 0x11)
  | .minu d a b => some (srWord 0x01 d a b 0x12)
  | .maxu d a b => some (srWord 0x01 d a b 0x13)
  | .clz d a => some (srWord 0x01 d a 0 0x14)
  | .popc d a => some (srWord 0x01 d a 0 0x15)
  | .addw d a b => some (srWord 0x01 d a b 0x16)
  | .subw d a b => some (srWord 0x01 d a b 0x17)
  | .seq d a b => some (srWord 0x02 d a b 0x00)
  | .sne d a b => some (srWord 0x02 d a b 0x01)
  | .slt d a b => some (srWord 0x02 d a b 0x02)
  | .sltu d a b => some (srWord 0x02 d a b 0x03)
  | .sle d a b => some (srWord 0x02 d a b 0x04)
  | .sleu d a b => some (srWord 0x02 d a b 0x05)
  | .cmovNz d a b => some (srWord 0x02 d a b 0x08)
  | .cmovZ d a b => some (srWord 0x02 d a b 0x09)
  | .exit => some (srWord 0x03 0 0 0 0x00)
  | .trap a => some (srWord 0x03 0 a 0 0x01)
  | .rett a => some (srWord 0x03 0 a 0 0x02)
  | .callo a b => some (srWord 0x03 0 a b 0x03)
  | .ret => some (srWord 0x03 0 0 0 0x04)
  | .launch d a b => some (srWord 0x03 d a b 0x05)
  | .idemBegin => some (srWord 0x03 0 0 0 0x06)
  | .idemEnd => some (srWord 0x03 0 0 0 0x07)
  | .addi d a i => some (siWord 0x04 d a i)
  | .andi d a i => some (siWord 0x05 d a i)
  | .ori d a i => some (siWord 0x06 d a i)
  | .xori d a i => some (siWord 0x07 d a i)
  | .slli d a i => some (siWord 0x08 d a i)
  | .srli d a i => some (siWord 0x09 d a i)
  | .srai d a i => some (siWord 0x0A d a i)
  | .slti d a i => some (siWord 0x0B d a i)
  | .sltiu d a i => some (siWord 0x0C d a i)
  | .muli d a i => some (siWord 0x0D d a i)
  | .li d i => some (slWord 0x0E d i)
  | .lui d i => some (slWord 0x0F d i)
  | .brCond c a o => some (scWord 0x10 c a o)
  | .brd p o => some (scWord 0x11 0 ((0 : BitVec 3) ++ p) o)
  | .call o => some (sjWord 0x12 o)
  | .join o => some (sjWord 0x13 o)
  | .lx c o => some (slWord 0x14 c o)
  | .sigchk s => some (slWord 0x15 0 s)
  | .ovlLd d a => some (srWord 0x16 d a 0 0x00)
  | .ovlEv d a => some (srWord 0x16 d a 0 0x01)
  | .ovlPin d a => some (srWord 0x16 d a 0 0x02)
  | .ovlUnpin d a => some (srWord 0x16 d a 0 0x03)
  | .srd d n => some (siWord 0x17 d 0 n)
  | .swr a n => some (siWord 0x18 0 a n)
  | .ldb d a o m => some (smWord 0x20 d a o 0 (spMod m))
  | .ldh d a o m => some (smWord 0x20 d a o 1 (spMod m))
  | .ldw d a o m => some (smWord 0x20 d a o 2 (spMod m))
  | .ldd d a o m => some (smWord 0x20 d a o 3 (spMod m))
  | .ldbs d a o => some (smWord 0x20 d a o 0 1)
  | .ldhs d a o => some (smWord 0x20 d a o 1 1)
  | .ldws d a o => some (smWord 0x20 d a o 2 1)
  | .stb d a o m => some (smWord 0x21 d a o 0 (spMod m))
  | .sth d a o m => some (smWord 0x21 d a o 1 (spMod m))
  | .stw d a o m => some (smWord 0x21 d a o 2 (spMod m))
  | .std d a o m => some (smWord 0x21 d a o 3 (spMod m))
  | .atomAddW d a b => some (srWord 0x22 d a b 0x00)
  | .atomXchgW d a b => some (srWord 0x22 d a b 0x01)
  | .atomCasW d a b => some (srWord 0x22 d a b 0x02)
  | .atomAndW d a b => some (srWord 0x22 d a b 0x03)
  | .atomOrW d a b => some (srWord 0x22 d a b 0x04)
  | .atomXorW d a b => some (srWord 0x22 d a b 0x05)
  | .atomMinW d a b => some (srWord 0x22 d a b 0x06)
  | .atomMaxW d a b => some (srWord 0x22 d a b 0x07)
  | .atomMinuW d a b => some (srWord 0x22 d a b 0x08)
  | .atomMaxuW d a b => some (srWord 0x22 d a b 0x09)
  | .atomFaddW d a b => some (srWord 0x22 d a b 0x0A)
  | .atomAddD d a b => some (srWord 0x22 d a b 0x10)
  | .atomXchgD d a b => some (srWord 0x22 d a b 0x11)
  | .atomCasD d a b => some (srWord 0x22 d a b 0x12)
  | .atomAndD d a b => some (srWord 0x22 d a b 0x13)
  | .atomOrD d a b => some (srWord 0x22 d a b 0x14)
  | .atomXorD d a b => some (srWord 0x22 d a b 0x15)
  | .atomMinD d a b => some (srWord 0x22 d a b 0x16)
  | .atomMaxD d a b => some (srWord 0x22 d a b 0x17)
  | .atomMinuD d a b => some (srWord 0x22 d a b 0x18)
  | .atomMaxuD d a b => some (srWord 0x22 d a b 0x19)
  | .acqTeam d a => some (srWord 0x23 d a 0 0x00)
  | .acqCluster d a => some (srWord 0x23 d a 0 0x01)
  | .acqDevice d a => some (srWord 0x23 d a 0 0x02)
  | .acqSystem d a => some (srWord 0x23 d a 0 0x03)
  | .relTeam a b => some (srWord 0x23 0 a b 0x04)
  | .relCluster a b => some (srWord 0x23 0 a b 0x05)
  | .relDevice a b => some (srWord 0x23 0 a b 0x06)
  | .relSystem a b => some (srWord 0x23 0 a b 0x07)
  | .bind d a b => some (srWord 0x23 d a b 0x08)
  | .unbind a => some (srWord 0x23 0 a 0 0x09)
  | .fence => some (srWord 0x23 0 0 0 0x0A)
  | .waitr c a => some (srWord 0x23 c a 0 0x0B)
  | .cleanL1 a b => some (srWord 0x24 0 a b 0x00)
  | .cleanL2 a b => some (srWord 0x24 0 a b 0x01)
  | .invL1 a b => some (srWord 0x24 0 a b 0x02)
  | .invL2 a b => some (srWord 0x24 0 a b 0x03)
  | .clinvL1 a b => some (srWord 0x24 0 a b 0x04)
  | .clinvL2 a b => some (srWord 0x24 0 a b 0x05)
  | .wait e g t c s l => some (sjWord 0x25 ((0 : BitVec 2) ++ e ++ g ++ t ++ c ++ s ++ l))
  | .barInitTeam a n => some (srWord 0x26 0 a (barSb n) 0x00)
  | .barInitCluster a n => some (srWord 0x26 0 a (barSb n) 0x01)
  | .barInitGrid a n => some (srWord 0x26 0 a (barSb n) 0x02)
  | .barArr d n => some (srWord 0x26 d 0 (barSb n) 0x04)
  | .barWait a n => some (srWord 0x26 0 a (barSb n) 0x05)
  | .barSync n => some (srWord 0x26 0 0 (barSb n) 0x06)
  | .rldb d a o m => some (smWord 0x27 d a o 0 (sxMod m))
  | .rldh d a o m => some (smWord 0x27 d a o 1 (sxMod m))
  | .rldw d a o m => some (smWord 0x27 d a o 2 (sxMod m))
  | .rldd d a o => some (smWord 0x27 d a o 3 0)
  | .rstb d a o => some (smWord 0x28 d a o 0 0)
  | .rsth d a o => some (smWord 0x28 d a o 1 0)
  | .rstw d a o => some (smWord 0x28 d a o 2 0)
  | .rstd d a o => some (smWord 0x28 d a o 3 0)
  | _ => none

/-- The word of a lane instruction; `none` for the others and for halves their class's table does not hold. -/
def encodeLane (i : Instr) : Option Lanes :=
  match i with
  | .pairedLaneWord u l =>
    match classACode u.op, classBCode l.op with
    | some a, some b => some (pairWord a b u l)
    | _, _ => none
  | _ => (laneOf i).map (fun p => singleWord (laneCode p.1) p.2)

/-- The bytes of a well-formed instruction as they stand in an overlay; events have none (log 1). -/
def encode (i : Instr) : List Byte :=
  match encodeScalar i with
  | some w => leBytes 4 w.toNat
  | none =>
    match encodeLane i with
    | some w => leBytes 12 w.toNat
    | none => []

/-- One clause per shape of `encode`: the decoder on the encoder's word. -/
def decodeEncoded (i : Instr) : Except Illop Instr :=
  match encodeScalar i with
  | some w => decodeScalar w
  | none =>
    match encodeLane i with
    | some w => decodeLane w
    | none => .error .unassigned

end Sys2Proof
end

