-- ==== Sys2Proof/Config.lean ====
section
/-!
DEFINITION. What the manual leaves open and the machine goes on from: free values, each a constant with no
body, so that no proof can learn what it is. Every one is named in notes/assumptions.
-/
namespace Sys2Proof.Config

/-- Free value: the count of `fclk` since module reset after the machine's n-th step (R407 TIME); timing is
outside the model (log 3). -/
opaque fclkAt : Nat → BitVec 64

/-- Free value: the bytes of an instruction-store frame beyond the image's last byte (R128); the manual
gives them no content (log 9). Arguments: store slot, byte offset. -/
opaque frameByte : Nat → Nat → BitVec 8

/-- Free value: the row of a bank, and so the row group, that holds a channel address (R370); the manual
gives no row mapping (log 24). Arguments: controller, channel address. -/
opaque rowOf : Nat → Nat → Nat

/-- Free value: whether an ML-DSA-87 signature over these bytes verifies under the fused vendor key (R462);
the manual gives no key (log 25). -/
opaque signatureOk : List (BitVec 8) → Bool

/-- Free value: the attestation report's digest and signature bytes (R464): they depend on keys the manual
does not give (log 25). Arguments: the report's known bytes, the index of the byte. -/
opaque attestByte : List (BitVec 8) → Nat → BitVec 8

/-- Fused values (R461): the stepping and the serial number. -/
opaque fusedStep : BitVec 16
opaque fusedSerial : BitVec 64

/-- Fused security-version floor of firmware (R462). -/
opaque versionFloor : Nat

/-- Free value: the ECC syndrome in DATA of a CE or UE record (R407). Arguments: step count, address. -/
opaque syndrome : Nat → Nat → BitVec 64

/-- Free value: data that a peer or the host did not give (R394; log 36). Arguments: step count, byte. -/
opaque lostByte : Nat → Nat → BitVec 8
opaque lostWord : Nat → BitVec 64

/-- Free value: the security version of a firmware image (R462); the manual gives the header's fields no offsets (log 25). -/
opaque imageVersion : List (BitVec 8) → Nat

/-- Free value: where a row of an embedding table in a page that is not in HBM stands among the stacks of EMB.R's sum
(R65, R339; log 29). Arguments: context, page address. -/
opaque farStack : Nat → Nat → Nat

/-- Free value: sign and payload of the NaN a reducer's addition gives when an addend is a NaN (R67; log 30).
Arguments: the addends. -/
opaque reducerNan : Nat → Nat → BitVec 32

/-- Free value: a correctly rounded transcendental result where 600-bit interval bounds still disagree
(R267; log 21). Arguments: function code, operand bits, rounding mode. -/
opaque hardCase : Nat → Nat → Nat → Nat

end Sys2Proof.Config
end

