-- ==== Sys2Proof/Machine/State.lean ====
section
/-!
DEFINITION. The state of one Z192 module (R37, R150) as plain data, the reasons a step can stop, and the
state after module reset.

Objects that come in numbers are finite maps from a number to a record (`AMap`), with a record standing for
"nothing there". Groups are keyed by `groupKey team grpid`, teams by a handle counted up at placement,
cores by their number of R15, contexts by ASID, queues by queue number. Each field's docstring gives its
width, the rule that names it and its value at reset (or at group start, for a group's own state).
-/
namespace Sys2Proof.Machine

/-! ## Registers and lanes -/

/-- One scalar register with its poison bit (R7, R231). -/
structure SReg where
  val : DWord
  poison : Bool
deriving DecidableEq, Repr

/-- One 32-bit lane element of a v register with its poison bit (R7, R258). -/
structure LElt where
  val : Word
  poison : Bool
deriving DecidableEq, Repr

/-- One predicate: a value bit and a poison bit per lane (R7, R258). -/
structure Pred where
  bits : Lanes
  poison : Lanes
deriving DecidableEq, Repr

/-- One lane of a window register in the layout of R279, with its poison bit (R258). -/
structure WElt where
  val : DWord
  poison : Bool
deriving DecidableEq, Repr

/-- One lane of a cursor, in the fields of R204. -/
structure Cursor where
  gid : BitVec 16
  isOpen : Bool
  live : Bool
  inList : Bool
  atEnd : Bool
  slot : BitVec 4
  segpos : Word
  seqs : Word
  vertex : Word
deriving DecidableEq, Repr

/-- A byte and the poison bit of the sector it came from (R286). -/
structure PByte where
  val : Byte
  poison : Bool
deriving DecidableEq, Repr

/-- The reason codes of R107. -/
inductive Reason where
  | none | counter | barrier | lxfull | hazard | retry | dsfill | exitdrain | spillwait
  | pagefault | ovlcall | ovlret | ovlrestore
deriving DecidableEq, Repr

/-- The counter classes of R173. -/
inductive CtrClass where
  | ld | st | cp | tl | gr | en
deriving DecidableEq, Repr

/-- The trap classes of R395, in code order from 0x01. -/
inductive TrapClass where
  | illop | poison | divg | signature | overlay | rstack | launch | user | watchdog | barrier | mem | lane
  | tile | engine | graph | page
deriving DecidableEq, Repr

/-- A rejected word (R287, R288): its rejections so far; the miss-status and FIFO entries it needs; the order in which it became
aged. -/
structure Rejected where
  count : Nat
  need : Nat
  fifo : Nat
  stamp : Nat
deriving DecidableEq, Repr

/-- One program-counter slot of a group (R107, R114, R116, R119). -/
structure PcSlot where
  /-- 1 bit; R116. -/
  live : Bool
  /-- Scalar-word offset of the program counter; R206. -/
  pc : Nat
  /-- 16 bits; OVLID half of the program counter; R206. -/
  ovlid : BitVec 16
  /-- Instruction-store slot that holds the overlay; R135, R142. -/
  islot : Nat
  /-- ok: the key word of the overlay the program counter entered last; R135. -/
  ok : DWord
  /-- The program counter has entered its overlay; clear while a recorded position waits to be resolved (R140). -/
  entered : Bool
  /-- Reason code under which a slot not entered parks: OVLRET or OVLRESTORE (R140). -/
  resumeAs : Reason
  /-- 96 bits: m0, m1, m2, the low halves of s60–s62 (R113, R114). -/
  mask : Lanes
  /-- 32 bits; SIGACC.ACCk; R119. -/
  acc : Word
  /-- 1 bit; SIGSKIP; R119. -/
  sigskip : Bool
  /-- Reason code; R107. -/
  reason : Reason
  /-- The word at the program counter has issued and waits: its condition is evaluated again, it is not folded again (R119, R176, R181, R242). -/
  issued : Bool
  /-- Barrier and phase a BAR.SYNC of this slot waits for (R181). -/
  waitPhase : Option (Nat × BitVec 16)
  /-- The word at the program counter is kept back by an ACQ, a FENCE or a BIND, for which R107 has no code (R159, R163, R301). -/
  kept : Bool
  /-- Operations and queued lane blocks that come before the slot's next word in its program order (R147). -/
  prior : List Nat
  /-- The rejections of the word at the program counter (R288). -/
  rej : Option Rejected
  /-- Operations that hold this slot's later memory, copy, graph and engine words: an ACQ (R159). -/
  acqHold : List Nat
  /-- Operations a FENCE of this slot waits for before later memory words (R163). -/
  fenceHold : List Nat
  /-- BIND and UNBIND operations that hold this slot's later ACQ and REL (R301). -/
  bindHold : List Nat
  /-- Issue order of the slot's last scalar word (R109). -/
  lastIssue : Nat
deriving DecidableEq, Repr

/-- A divergence record (R116). -/
inductive DRec where
  | side (mask : Lanes) (ovlid : BitVec 16) (off : Nat)
  | joinM (mask : Lanes) (ovlid : BitVec 16) (off : Nat)
  | joinA (mask : Lanes) (arr : Bool)
  | waitB (phase : BitVec 16) (bar : BitVec 4)
deriving DecidableEq, Repr

/-- What the device keeps of a divergence record beside its sixteen bytes, wherever these lie (R119, R147): what comes before the
side, or before the side that arrived, in program order; its holds; whether the word at its offset has issued. -/
structure DMeta where
  prior : List Nat
  acqHold : List Nat
  fenceHold : List Nat
  bindHold : List Nat
  issued : Bool
deriving DecidableEq, Repr

/-- A return word's fields (R240). -/
structure RetEnt where
  ovlid : BitVec 16
  off : Nat
deriving DecidableEq, Repr

/-- A block in the lane queue (R112, R83). `second` is the slot that issued its LX, at offset `lxpc`; its words stand at the place
of the LX in program order, behind the slot's holds of that moment (R147, R159, R163). -/
structure LaneBlock where
  id : Nat
  acqHold : List Nat
  fenceHold : List Nat
  ovlid : BitVec 16
  islot : Nat
  off : Nat
  count : Nat
  next : Nat
  mask : Lanes
  second : Bool
  lxpc : Nat
deriving DecidableEq, Repr

/-- An outstanding operation (R173, R175). -/
structure OutOp where
  id : Nat
  cls : CtrClass
  second : Bool
  /-- It has reached its falling point. -/
  done : Bool
  /-- The kinds FENCE and REL wait for: copies and engine commands are outside (R158, R163). -/
  fenced : Bool
  /-- Faulted lanes are parked on a page (R361). -/
  parked : Bool
  /-- The lane block its word came from, 0 for a scalar word (R147). -/
  blk : Nat
  /-- Position of its word (a lane word: of its LX), and the word's index in its block (R407 PC, WIDX). -/
  ovlid : BitVec 16
  off : Nat
  widx : Nat
  /-- Lanes the engine has saturated for it, which SATF shows once the counter has fallen (R48). -/
  sat : Lanes
deriving DecidableEq, Repr

/-- One entry of the group's store FIFO: the bytes one store writes to one line (R150, R287). -/
structure StoreEnt where
  op : Nat
  asid : Nat
  bytes : List (Nat × PByte)
  spall : Bool
deriving DecidableEq, Repr

/-- Where a load's bytes go when it completes. -/
inductive LoadDest where
  | scalar (sd : BitVec 6) (sz : Nat) (sext : Bool)
  | lane (vd : Nat) (sz : Nat) (sext : Bool)
  | window (k : Nat)
  | pattern (e : Nat)
  | actBank (bank : Nat)
  | cursor (k : Nat)
deriving DecidableEq, Repr

/-- One lane's access of a load: the address of each byte, and the bytes received so far. -/
structure LoadPiece where
  lane : Nat
  addrs : List Nat
  got : List (Option PByte)
  /-- For a window load: the new window with its WIN field clear, and the bits of the first byte before WIN (R280). -/
  win : DWord
  skip : Nat
deriving DecidableEq, Repr

/-- A load whose bytes are not all there yet (R151). -/
structure PendLoad where
  op : Nat
  dest : LoadDest
  pieces : List LoadPiece
  spall : Bool
deriving DecidableEq, Repr

/-- What a request asks a slice to do (R151, R152). -/
inductive ReqBody where
  | fetch (sector : Nat) (spall : Bool)
  | write (bytes : List (Nat × PByte))
  | atomic (op : Nat) (size : Nat) (addr : Nat) (operand cmp : DWord) (lane : Nat)
  | acq (addr : Nat)
  | rel (addr : Nat) (value : DWord) (system : Bool)
  /-- A unit's read of bytes of the line; its release, which adds 1 to a sync word (R166). -/
  | read (off len : Nat) (spall : Bool)
  | bump (addr : Nat) (system : Bool)
  /-- A granule of a copy; whether the sector's poison is cleared with it (R172, R286). -/
  | granule (bytes : List (Nat × PByte)) (clears : Bool)
deriving DecidableEq, Repr

/-- A request a group's word has started (R151): of the group's line, not yet sent, sent under a message
identifier, or answered with a fault of a kind (R361). -/
structure Fetch where
  op : Nat
  line : Nat
  body : ReqBody
  sent : Option Nat
  stale : Bool
  faulted : Option Nat
  /-- Bytes of its sector that the core has written back since it was sent, by address, oldest first: its reply is older (R153). -/
  newer : List (Nat × PByte)
deriving DecidableEq, Repr

/-- An engine command in the queue (R314, R316, R355): the lane word as issued and the acting lanes, the three operand
values, the next step, AUX and AUX2. -/
structure EngCmd where
  op : Nat
  word : BitVec 96
  act : Lanes
  opv1 : DWord
  opv2 : DWord
  opv3 : DWord
  step : Nat
  aux : Nat
  aux2 : Nat
  started : Bool
  acqdone : Bool
  /-- All its steps are done; ENGINE_CMD_END has still to end it. -/
  finished : Bool
  /-- The block's fields are written; the release is still to do (R341). -/
  wrote : Bool
  /-- GBULK: records performed, records sent whose in-list step is to come, a record sent and not answered, the
  sub-code it stops with. -/
  count : Nat
  inflight : Nat
  asked : Bool
  stop : Option Nat
  /-- Waits on a page (R318, R362). -/
  waitPage : Option Nat
deriving DecidableEq, Repr

/-- A TLD or TST that has issued and not moved its slice (R332). -/
structure TileMove where
  op : Nat
  load : Bool
  tile : Nat
  q : Nat
  reg : Nat
  act : Lanes
deriving DecidableEq, Repr

/-- A copy in progress (R298). Addresses are effective addresses of R283. -/
structure Copy where
  op : Nat
  /-- (lane, source, destination, length). -/
  pieces : List (Nat × Nat × Nat × Nat)
  /-- The bytes still to be written, by destination address, once the sources are read; and the sectors of which it writes every byte
  clean, by address div 32 (R286). -/
  data : Option (List (Nat × PByte))
  clears : List Nat
  bar : Option Nat
  /-- Acquire still to do; release still to do, at a sync word and scope. -/
  acq : Bool
  rel : Bool
  sync : Nat
  scope : Nat
  /-- VCPC: destination register, base D, expected version (R300). -/
  commit : Option (BitVec 6 × Nat × DWord)
  /-- Destination lines in linear memory, for step 3 of R298. -/
  lines : List Nat
  /-- Steps 3 and 4 are done. -/
  arrived : Bool
  waitPage : Option Nat
deriving DecidableEq, Repr

/-- An outstanding ACQ or REL (R158, R159). -/
structure SyncOp where
  op : Nat
  isRel : Bool
  scope : Nat
  word : Nat
  value : SReg
  sd : BitVec 6
  /-- REL: the earlier operations it waits for; then the lines whose write-back it waits for. -/
  after : List Nat
  lines : Option (List Nat)
  /-- ACQ: the value read at the point, once the answer is there. -/
  answer : Option SReg
  sent : Bool
deriving DecidableEq, Repr

/-- An outstanding CLEAN, INV or CLINV (R162): kind 0, 1, 2 at level 1 or 2, over lines `lo…hi`; the stores it waits
for; then the lines whose write-back it waits for. -/
structure MaintOp where
  op : Nat
  kind : Nat
  level : Nat
  lo : Nat
  hi : Nat
  after : List Nat
  lines : Option (List Nat)
deriving DecidableEq, Repr

/-- An outstanding BIND or UNBIND (R301). -/
structure BindOp where
  op : Nat
  isBind : Bool
  sync : Nat
  base : Nat
  len : Nat
  entry : Nat
  sd : BitVec 6
deriving DecidableEq, Repr

/-- A scalar register held until its result is written (R232): by a result latency (`op` 0), of a division or
not, or by the operation that writes it. -/
structure SBusy where
  reg : BitVec 6
  op : Nat
  div : Bool
deriving DecidableEq, Repr

/-- Results of a lane word not yet written (R257): what a later word must not read or write. -/
structure LaneBusy where
  id : Nat
  vregs : List Nat
  preds : List Nat
  windows : List Nat
  sregs : List Nat
deriving DecidableEq, Repr

/-- What is parked on an overlay (R140): the overlay it waits for, and the store slot that is loading it, none while it
waits for room (R141); for its slot's own transfer (0), a queued block of the slot (1), or the replay record (2). -/
structure Reload where
  ovlid : BitVec 16
  second : Bool
  slot : Option Nat
  part : Nat
deriving DecidableEq, Repr

/-- An error record before it is written (R407). -/
structure Rec where
  kind : Nat
  sev : Nat
  cls : Nat
  sub : Nat
  unit : Nat
  asid : Nat
  phys : Bool
  dpois : Bool
  time : DWord
  addr : Nat
  data : DWord
  teamid : Nat
  grpid : Nat
  gflags : Nat
  widx : Nat
  pc : Word
  seq : Word
  lanes : Lanes
  count : Nat
deriving DecidableEq, Repr

/-- What the device keeps of a saved group beside its image, which has no place for it (log 35): how its slots waited,
its queued blocks with their masks, its outstanding operations, its commands, the number of its divergence records, a
restart in progress. -/
structure Beside where
  slot0 : PcSlot
  slot1 : PcSlot
  blocks : List LaneBlock
  ops : List OutOp
  engq : List EngCmd
  recs : Nat
  dmeta : List DMeta
  /-- Its cursors, whose vertices stay pinned (R81, R204). -/
  cursors : AMap Cursor
  restart : Option Rec
deriving DecidableEq, Repr

inductive GPhase where
  | absent | waiting | running | restarting | stopping | halted | exited | saved
deriving DecidableEq, Repr

/-- One group (R83, R96, R122): everything below holds its R96 value when the group starts. -/
structure Group where
  /-- Life of the group: placed and not yet started, running, restarting (R399), stopping in its skid (R121), HALT, EXIT, saved (R108). -/
  phase : GPhase
  /-- Handle of the team; the GRPID is 0…15 (R27). -/
  team : Nat
  grpid : Nat
  /-- Lane registers granted, 32…256 (R21). -/
  grant : Nat
  /-- Partition and place order, set at placement (R102, R110). -/
  partition : Nat
  age : Nat
  /-- Skip count of R110; 0. -/
  skip : Nat
  /-- First register of the grant in the partition's 512 (R21, R102). -/
  vbase : Nat
  /-- s0–s63, 64 bits and poison; low halves of s60–s62 lie in the slots (R208, R114, R231); 0 but s1 = KARG. -/
  s : AMap SReg
  /-- v registers: key 96·r + L; 0 (R21, R96). -/
  v : AMap LElt
  /-- p0–p7; 0 (R96). -/
  p : AMap Pred
  /-- w0–w3: key 96·k + L; 0 (R279). -/
  w : AMap WElt
  /-- 4 bits; WVALID (R122, R279); 0. -/
  wvalid : BitVec 4
  /-- c0–c7: key 96·k + L; closed (R201, R204). -/
  c : AMap Cursor
  /-- FPST, bits 4:0 (R47); 0. -/
  fpst : BitVec 5
  /-- SATF0–2, one bit per lane (R48); 0. -/
  satf : Lanes
  /-- IDEMPC, 64 bits (R398); 0. -/
  idempc : DWord
  /-- DSTK.ROOM, 12 bits (R115); 0. -/
  room : BitVec 12
  /-- DSTK.PTR, 48 bits (R115); 0. -/
  ptr : BitVec 48
  /-- Divergence records on chip, top first, at most four (R115); none. -/
  drecs : List DRec
  /-- Records below them in memory (R115); 0. -/
  dbelow : Nat
  /-- What is kept of each record of the stack, top first (R119, R147). -/
  dmeta : List DMeta
  /-- Program-counter slots 0 and 1 (R96, R116). -/
  slot0 : PcSlot
  slot1 : PcSlot
  /-- Return stack, top first, at most 8 (R240); empty. -/
  rstack : List RetEnt
  /-- Lane queue, head first, at most 4 blocks (R112); empty. -/
  laneq : List LaneBlock
  /-- The word at the head of the lane queue has issued, stays there and keeps every later one back until it is answered
  (R309, R313). -/
  laneStall : Option Nat
  /-- The rejections of the word at the head of the lane queue (R288). -/
  laneRej : Option Rejected
  /-- Outstanding operations in issue order: the six counters of R173 are the numbers of each class. -/
  ops : List OutOp
  /-- Store FIFO, oldest first (R150); empty. -/
  fifo : List StoreEnt
  loads : List PendLoad
  fetches : List Fetch
  engq : List EngCmd
  moves : List TileMove
  copies : List Copy
  syncs : List SyncOp
  maints : List MaintOp
  binds : List BindOp
  /-- Scalar registers whose result is not written yet (R232). -/
  sbusy : List SBusy
  /-- Lane results not written yet (R257). -/
  lbusy : List LaneBusy
  /-- Overlay reloads this group waits for (R140). -/
  reloads : List Reload
  /-- Header fields of R122: SKID, HALTPC, HALTSLOT, TRAPCLS, TRAPSUB, PRIMARY. -/
  skid : Nat
  haltpc : Option (BitVec 16 × Nat)
  haltslot : Bool
  trapcls : Nat
  trapsub : Nat
  primary : Bool
  /-- Last issued position, for HALTPC of a watchdog trap and of a skid (R121, R125). -/
  lastpos : BitVec 16 × Nat
  lastslot : Bool
  /-- Replay record: lanes, position, word index, slot (R363). -/
  replay : Option (Lanes × (BitVec 16 × Nat) × Nat × Bool)
  /-- A restart of R399 in progress: the record it will write, with the time still to come (R399 step 5). -/
  restart : Option Rec
  /-- A stack access of R364 waits on a page. -/
  stackWait : Option Nat
  /-- The slot whose BRD or JOIN caused the stack access to come; it waits for it with PAGEFAULT (R364). -/
  stackBy : Bool
  stackHeld : Bool
  /-- Kept from a save to the restore's end (log 35). -/
  beside : Option Beside
deriving DecidableEq, Repr

/-! ## Teams -/

inductive BState where
  | unarmed | opened | forwarded
deriving DecidableEq, Repr

/-- A team barrier (R178). -/
structure Barrier where
  state : BState
  scope : Nat
  expect : Nat
  arrived : Nat
  phase : BitVec 16
  waiters : BitVec 32
  waitn : BitVec 32
deriving DecidableEq, Repr

inductive TState where
  | absent | placed | running | halting | handler | saving | restoring | saved | retired
deriving DecidableEq, Repr

/-- A team (R82, R121, R125, R401). -/
structure Team where
  state : TState
  asid : Nat
  /-- Handle of its kernel. -/
  kernel : Nat
  teamid : Nat
  clusid : Nat
  core : Nat
  groups : Nat
  grant : Nat
  /-- Physical tiles granted, ascending (R22). -/
  tiles : List Nat
  /-- Scratch ways held, ascending (R372). -/
  ways : List Nat
  /-- b0–b15 (R178); Unarmed, all 0. -/
  bars : AMap Barrier
  /-- Team pins, one per store slot (R144); 0. -/
  pins : BitVec 32
  /-- GRPID of the primary trap (R121, R82 PRIMGRP). -/
  primgrp : Option Nat
  /-- The image records KSTATE.HALT, KSTATE.INHANDLER (R82, R124). -/
  kHalt : Bool
  kHandler : Bool
  /-- KSTATE.GANG as the image last read held it (R82, R84). -/
  kGang : Bool
  /-- A pre-emption request has stopped issue (R123). -/
  preempt : Bool
  /-- RETT RESTART chosen for the restore in progress (R253, R401). -/
  restartAll : Bool
  /-- A pre-emption request is on its way to the team's partitions (R123); in Handler it waits for RETT (R401). -/
  asked : Bool
  /-- Barriers whose wider arrival is still to be sent (R184). -/
  widerOut : List Nat
  /-- Barriers with a wider completion not yet released here (R184). -/
  widerIn : List Nat
  /-- The page an access of its image waits on (R365). -/
  waitPage : Option Nat
  /-- Order of its last placement (R97). -/
  stamp : Nat
deriving DecidableEq, Repr

/-! ## Cores -/

/-- A line in an L1 (R150): per byte valid and dirty, per 32-byte sector poison. -/
structure L1Line where
  data : BitVec 1024
  valid : BitVec 128
  dirty : BitVec 128
  poison : BitVec 4
  /-- At most one write-back of a line is in flight (R150, R151). -/
  wb : Bool
  /-- Way of its set (R24, R372). -/
  way : Nat
  /-- Spall class and USED (R371); order of insertion and of last use. -/
  spall : Bool
  used : Bool
  stamp : Nat
  last : Nat
deriving DecidableEq, Repr

inductive SState where
  | empty | loading | resident
deriving DecidableEq, Repr

/-- A slot of the instruction store with the overlay it holds (R128, R129, R138). -/
structure StoreSlot where
  state : SState
  /-- 27 bits; generation (R129); 0. -/
  gen : BitVec 27
  /-- (ASID, OVLID) of each holder, first holder first, at most 16 (R146). -/
  holders : List (Nat × BitVec 16)
  frames : Nat
  bytes : Nat
  laneoff : Nat
  flags : Byte
  /-- SHA3-512 digest the image must have (R130). -/
  tag : List Byte
  /-- Address of the image of the load, and of its context. -/
  code : Nat
  asid : Nat
  /-- The first holder's descriptor and context both had SHARE set (R146). -/
  shared : Bool
  image : List Byte
  /-- Entry time (R142), as a count of entries. -/
  entry : Nat
  /-- OVL.LD operations answered when the load ends: group, operation, sd, the overlay identifier each named (R136). -/
  waiters : List (Nat × Nat × BitVec 6 × BitVec 16)
  /-- The last holder's context reached Dying during the load (R138). -/
  doomed : Bool
deriving DecidableEq, Repr

/-- A request at the instruction store, in order of arrival (R136, R144, R145). -/
inductive OvlReq where
  | load (grp op : Nat) (sd : BitVec 6) (addr : Nat)
  | evict (grp op : Nat) (second : Bool) (sd : BitVec 6) (key : DWord)
  | pin (grp op : Nat) (second : Bool) (sd : BitVec 6) (key : DWord) (set : Bool)
deriving DecidableEq, Repr

/-- A crossbar pattern entry (R272). -/
structure Pattern where
  tag : Nat
  bytes : List Byte
  poison : Bool
deriving DecidableEq, Repr

/-- An activation table bank (R275, R276): 516 words from the image, and which of its words are poisoned. -/
structure ActBank where
  tag : Nat
  words : AMap Word
  poison : List Nat
deriving DecidableEq, Repr

/-- A shadow bank (R327, R329): held by a group for a team tile. -/
structure Bank where
  owner : Option (Nat × Nat)
  init : Bool
deriving DecidableEq, Repr

/-- An XSHFL that has issued (R308, R309): its group and operation, operand and lanes, its partner. -/
structure Offer where
  grp : Nat
  op : Nat
  vd : Nat
  act : Lanes
  vals : List LElt
  kernel : Nat
  partner : Nat × Nat
  tag : Nat
  /-- 0 sent, 1 held at the partner's core, 2 refused, 3 taken, 4 refused and its refusal on the way. -/
  place : Nat
  /-- Its own side has completed. -/
  completed : Bool
deriving DecidableEq, Repr

/-- One core (R18–R24, R128, R150). -/
structure Core where
  l1 : AMap L1Line
  /-- W, scratch ways, 0…18 (R372); 0. -/
  split : Nat
  /-- A split that waits for copies in flight (R374). -/
  newSplit : Option Nat
  /-- Scratch bytes by way·16384 + offset, and poison by sector (R150, R286). -/
  scratch : AMap Byte
  scratchPoison : AMap Bool
  /-- 32 slots (R128); all Empty. -/
  store : AMap StoreSlot
  ovlreqs : List OvlReq
  /-- Loads decided, in order: the store reads one image at a time (R137). -/
  imgReads : List Nat
  /-- Reloads kept waiting for room (R141): group, OVLID, slot. -/
  roomWait : List (Nat × BitVec 16 × Bool)
  /-- Accumulator tiles 0–15 and shadow banks 16–19: element key (t·96 + row)·128 + column (R22). -/
  tiles : AMap Word
  /-- Poison granules: key (t·96 + row)·16 + column/8 (R319). -/
  tilePoison : AMap Bool
  banks : AMap Bank
  patterns : AMap Pattern
  act0 : ActBank
  act1 : ActBank
  /-- ACTBANK.BANK (R278); 0. -/
  actCur : Bool
  /-- ACT.LD and ACT.SWAP in order of arrival: group, operation, swap's sd (R276). -/
  actReqs : List (Nat × Nat × Option (BitVec 6))
  /-- Partition and place of the group the engine last served (R314). -/
  engLast : Option (Nat × Nat)
  /-- Scheduled to take no further team (R415). -/
  offline : Bool
  /-- Placement count for ages (R110). -/
  ageNext : Nat
  /-- The scheduler drains this core (R373). -/
  draining : Bool
deriving DecidableEq, Repr

/-! ## Memory behind the cores -/

/-- A line at its slice (R150, R371): the L2 copy of one context's line. -/
structure L2Line where
  data : BitVec 1024
  dirty : BitVec 128
  poison : BitVec 4
  writable : Bool
  /-- TGT of the page: 0 HBM, 1 host, 2 peer (R356). -/
  tgt : Nat
  /-- Physical address of the line. -/
  pa : Nat
  /-- Spall class and USED (R371); order of insertion and of last use. -/
  spall : Bool
  used : Bool
  /-- The access that brought it has still to be performed: it is no hit (R371). -/
  fresh : Bool
  stamp : Nat
  last : Nat
deriving DecidableEq, Repr

/-- What a holding array answers (R294, R310–R313): bytes by address; a sync word; a write's end, or the poison it met; the lanes a
queue takes or gives, its refusal, its MEM sub-code. -/
inductive ArrayAns where
  | bytes (bs : List (Nat × PByte))
  | word (v : SReg)
  | done
  | poisoned
  | lanes (ls : List Nat) (got : List (Nat × LElt))
  | refused
  | trap (sub : Nat)
deriving DecidableEq, Repr

/-- What a reply brings back. -/
inductive RepBody where
  | sector (sector : Nat) (bytes : List PByte)
  | bytes (bytes : List PByte)
  | value (v : DWord) (poison : Bool) (lane : Nat)
  | ack
  | faulted (kind : Nat) (page : Nat) (req : ReqBody)
deriving DecidableEq, Repr

/-- A message's body: a request to a slice and its reply (R152); a slice's need of a line, and its dirty bytes, to the home
controller (R358); a translation that failed, back to the slice (R360); a 64-byte access to the controller that holds it, a
read answered with its half of the line, a write; a request to a holding array or a graph unit and its answer (R294, R346);
an XSHFL offer and its refusal (R309). -/
inductive MsgBody where
  | req (b : ReqBody)
  | rep (b : RepBody)
  | line (spall : Bool)
  | dirty (bytes : List (Nat × PByte))
  | walked (kind : Nat) (bytes : List (Nat × PByte))
  | access (id pa : Nat) (hi : Bool)
  | half (id : Nat) (hi : Bool) (data : BitVec 512) (poison : BitVec 2)
  | store (pa : Nat) (bytes : List (Nat × PByte))
  | array (id core : Nat)
  | arrayAns (id core : Nat) (a : ArrayAns)
  | graph (id unit : Nat)
  | graphAns (id core : Nat)
  | offer (op core : Nat)
  | refusal (op core : Nat)
deriving DecidableEq, Repr

/-- A message of the fabric (R150, R375). Requester: core number (its L1 and coalescer), 1000 + hinge link, 2000 host port,
3000 + graph unit, 4000 + core (its engine), 5000 + core (its copy unit). -/
structure Msg where
  id : Nat
  requester : Nat
  /-- Group and operation served, 0 when none. -/
  grp : Nat
  op : Nat
  asid : Nat
  /-- Line number v div 128, and the requester's number for this line (R152). -/
  line : Nat
  num : Nat
  /-- Destination slice of a request (R384). -/
  slice : Nat
  body : MsgBody
  /-- The port whose injection queue it stands in, none once it has left it (R25). -/
  inj : Option Nat
  /-- Where it is on the mesh: router, plane, weep lane, suspect (R377–R380). -/
  router : Nat
  plane : Bool
  weep : Bool
  suspect : Bool
  /-- A reply to a packet taken from a weep ejection buffer, not in the mesh yet (R378). -/
  late : Bool
deriving DecidableEq, Repr

/-- An access that a unit of the device has made at a slice for the step it is taking (R151, R152): the unit's number as a requester;
the operation or graph request the step is of, and a part of it; its message; the answer, once it is there. -/
structure UnitReq where
  who : Nat
  key : Nat
  part : Nat
  grp : Nat
  msg : Nat
  asid : Nat
  line : Nat
  body : ReqBody
  answer : Option RepBody
deriving DecidableEq, Repr

/-- A pending fault entry of a controller (R362). -/
structure PendFault where
  ctrl : Nat
  asid : Nat
  page : Nat
  kind : Nat
deriving DecidableEq, Repr

/-- A line a home controller has asked for: its two 64-byte accesses (R358, R369), each with its data and the poison of
its halves once performed. -/
structure HbmReq where
  id : Nat
  asid : Nat
  line : Nat
  pa : Nat
  writable : Bool
  spall : Bool
  lo : Option (BitVec 512 × BitVec 2)
  hi : Option (BitVec 512 × BitVec 2)
deriving DecidableEq, Repr

/-- A frame in a state other than Good (R366): Suspect with its counts, or Retired. -/
structure Frame where
  retired : Bool
  suspect : Bool
  ce : Nat
  queued : Bool
deriving DecidableEq, Repr

/-- An entry of the fault-address queue (R367). -/
structure FaqEnt where
  ue : Bool
  cecnt : Nat
  chan : Nat
  pfn : Nat
deriving DecidableEq, Repr

/-- Refresh state of a row group (R370): timestamp, sweep index, previous visit. -/
structure RowGroup where
  stamp : Nat
  sweep : Nat
  visit : Nat
deriving DecidableEq, Repr

/-- A remote scratch or queue request at a holding array (R294, R310–R313). -/
inductive RemBody where
  | load (offs : List Nat)
  | store (bytes : List (Nat × PByte))
  | acq (off : Nat)
  | rel (off : Nat) (value : DWord)
  | push (d : Nat) (msgs : List (Nat × LElt)) (nb : Bool)
  | pop (d : Nat) (lanes : List Nat) (nb : Bool)
deriving DecidableEq, Repr

structure RemReq where
  id : Nat
  /-- Requesting core, group and operation. -/
  requester : Nat
  grp : Nat
  op : Nat
  /-- Kernel, cluster, member. -/
  kernel : Nat
  cluster : Nat
  member : Nat
  /-- 128-byte block of the member's scratch, and the requester's number for it (R294). -/
  block : Nat
  num : Nat
  body : RemBody
  /-- It has reached the array's core; it has been performed there. -/
  here : Bool
  done : Bool
deriving DecidableEq, Repr

/-- A QPUSH or QPOP whose targets have not all answered (R311–R313): the predicate an `.nb` word writes, the register a
pop writes, lanes placed at every target so far or popped with their messages, targets still to answer. -/
structure QueueOp where
  op : Nat
  grp : Nat
  push : Bool
  nb : Bool
  pd : Nat
  vd : Nat
  act : Lanes
  placed : Lanes
  got : List (Nat × LElt)
  left : Nat
  refused : Bool
deriving DecidableEq, Repr

/-! ## Graph units -/

/-- What a graph request asks (R195, R196, R201, R347–R355). -/
inductive GKind where
  | degree (inList : Bool)
  | rank (inList : Bool)
  | add | del | delIn
  | openCur (live inList : Bool) | nextCur | closeCur
  | saveCur (addr : Nat) | restCur (saved : Cursor)
  | bulkAdd | bulkDel
deriving DecidableEq, Repr

/-- Where a request stands: its bytes are being loaded (R353); it waits for an earlier cursor word, or a lower lane's request (R205,
R346); its cursor's old vertex is to be closed first, and is closed (R350); sent; its reservation is asked of the destination's unit,
and has come back; its out-list step is done; its in-rank is read; its reservation is to be cancelled (R195, R196); it is answered. -/
inductive GStage where
  | loading | unsent | closing | turn | sent | asked | reserved | outDone | inRank | cancel | answered
deriving DecidableEq, Repr

/-- A unit's answer to a lane's request: the status, two results, and the cursor's state where it changes (R343, R347–R353). -/
structure GAns where
  status : Nat
  v0 : Nat
  v1 : Nat
  cursor : Option Cursor
deriving DecidableEq, Repr

/-- A graph request of one lane (R346), or of a GBULK record. -/
structure GReq where
  id : Nat
  core : Nat
  grp : Nat
  op : Nat
  lane : Nat
  kind : GKind
  stage : GStage
  asid : Nat
  gid : Nat
  /-- Vertex named by the request, the other vertex, rank, attribute, cursor number. -/
  vertex : Nat
  other : Nat
  rank : Nat
  attr : Nat
  cur : Nat
  /-- Segment and slot reserved at the destination, and whether the reservation took the segment (R195). -/
  rseg : Nat
  rslot : Nat
  took : Bool
  /-- The unit it is sent to, and its core's number there (R346). -/
  unit : Nat
  num : Nat
  /-- The number of its in-list message among those of its source unit for the destination vertex (R197). -/
  inNum : Nat
  /-- Status met so far: a close's, or a failed insertion's. -/
  status : Nat
  waitPage : Option Nat
  /-- It is on its way to a unit, or its answer to its core. -/
  moving : Bool
  answer : Option GAns
deriving DecidableEq, Repr

/-- Which registers a graph word writes from a lane's two results: none, VD from the first or the second, the pair. -/
inductive GShape where
  | none | first | second | pair
deriving DecidableEq, Repr

/-- A graph word in flight (R343, R345): where its lanes' answers go. -/
structure GraphOp where
  op : Nat
  grp : Nat
  shape : GShape
  vd : Nat
  vs : Option Nat
  left : Nat
  /-- Failing lanes: lane and status. -/
  fails : List (Nat × Nat)
deriving DecidableEq, Repr

/-- A graph-table entry a graph unit keeps (R190). -/
structure GEntry where
  vbase : Nat
  vcount : Nat
  segbase : Nat
  sqbase : Nat
  poolbase : Nat
  segper : Nat
  bound : Bool
deriving DecidableEq, Repr

/-! ## Contexts, queues, kernels -/

inductive CState where
  | free | created | active | suspending | suspended | faulted | dying | dead
deriving DecidableEq, Repr

/-- A binding-table entry as cached (R75, R157). -/
structure BindEnt where
  valid : Bool
  sync : Nat
  base : Nat
  len : Nat
deriving DecidableEq, Repr

/-- A context (R69–R79): its state, its descriptor's fields, its caches. -/
structure Ctx where
  state : CState
  sub : Nat
  ptroot : Nat
  gtbase : Nat
  gmax : Nat
  btbase : Nat
  frameq : Nat
  scrq : Nat
  qslotq : Nat
  priomax : Nat
  irqring : Nat
  /-- FRAMEQ, SCRQ and QSLOTQ of a QUOTA made while Suspended, which apply from RESUME (R78). -/
  newQuota : Option (Nat × Nat × Nat)
  share : Bool
  sys : Bool
  binds : AMap BindEnt
  /-- Graph-table entries kept: key unit·65536 + gid (R190). -/
  gents : AMap GEntry
  /-- Bytes of graph storage the graph units hold and have not written back (R194): key unit·2^56 + address. -/
  gstore : AMap Byte
  /-- Sectors of them that an error has poisoned (R396): key div 32. -/
  gbad : List Nat
deriving DecidableEq, Repr

inductive QState where
  | free | disabled | enabled | halted
deriving DecidableEq, Repr

inductive PState where
  | none | waiting | dispatching
deriving DecidableEq, Repr

/-- A queue (R85, R89, R92, R97) with the packet at its head. -/
structure Queue where
  state : QState
  asid : Nat
  ring : Nat
  log2n : Nat
  prio : Nat
  devlaunch : Bool
  wraddr : Nat
  rdaddr : Nat
  wr : DWord
  rd : DWord
  slot : Option Nat
  /-- Order in which the queue began to wait or was mapped (R97). -/
  since : Nat
  /-- The slot is being taken (R97). -/
  taken : Bool
  head : PState
  /-- Handle of the kernel in Waiting or Dispatching. -/
  kernel : Nat
  lastst : Nat
  /-- The last packet of the queue is Complete or was skipped (R93 ORDER). -/
  prevDone : Bool
  /-- A doorbell's re-read of WRADDR is still to be done (R87). -/
  bell : Bool
deriving DecidableEq, Repr

/-- A LAUNCH at the queue manager (R101, R254): who issued it and where, its destination, queue and packet, and
the group's stores it must come after. -/
structure LaunchReq where
  grp : Nat
  op : Nat
  second : Bool
  sd : BitVec 6
  queue : Nat
  addr : Nat
  after : List Nat
  ovlid : BitVec 16
  pc : Nat
deriving DecidableEq, Repr

inductive KState where
  | absent | waiting | dispatching | running | completing | complete | aborted
deriving DecidableEq, Repr

/-- A kernel (R93, R95): its packet's fields and its progress. -/
structure Kernel where
  state : KState
  queue : Nat
  /-- Priority of its queue when it was admitted (R97). -/
  prio : Nat
  num : DWord
  asid : Nat
  marker : Bool
  coop : Bool
  spec : Bool
  order : Bool
  sys : Bool
  groups : Nat
  tiles : Nat
  regs : Nat
  ways : Nat
  csize : Nat
  teams : Nat
  entry : Nat
  entoff : Nat
  karg : DWord
  ksave : Nat
  dep0 : Nat
  dep0v : DWord
  dep1 : Nat
  dep1v : DWord
  met0 : Bool
  met1 : Bool
  done : Nat
  packet : Nat
  /-- Kernel directory (R131) and entry OVLID. -/
  dirbase : Nat
  dirlen : Nat
  entovl : BitVec 16
  /-- Teams placed and retired so far. -/
  placed : Nat
  retired : Nat
  /-- Wider barrier counts: key cluster·16 + b for cluster scope (R184). -/
  clusBar : AMap Nat
  /-- Wider barrier counts at L2 for grid scope (R184). -/
  gridBar : AMap Nat
  /-- NOPLACE has been reported (R106). -/
  noplace : Bool
  /-- Clusters whose placement was withdrawn before their gang start: unplaced again (R124). -/
  back : List Nat
  /-- Cores on which its entry overlay is being loaded before its first team there (R95, R141). -/
  loads : List Nat
  /-- In Completing: lines (core, line) still to be cleaned, once listed (R95). -/
  toClean : Option (List (Nat × Nat))
  /-- STATUS has been written for its completion (R95). -/
  told : Bool
deriving DecidableEq, Repr

/-- A write that its slice holds for its page, with the kind of its fault (R360): bytes at offsets of a line, of a write-back, a
plain store or the scheduler; or the scheduler's increment by one of the DONE word at an offset (R95), of a launch with SYS or without. -/
structure HeldWrite where
  asid : Nat
  line : Nat
  bytes : List (Nat × PByte)
  add : Option (Nat × Bool)
  kind : Nat
deriving DecidableEq, Repr

/-! ## Reports, links, power -/

/-- What a slice asks a peer (R393): a line's bytes; bytes to write, at offsets of the line; an atomic at an offset. -/
inductive PeerBody where
  | read
  | write (bytes : List (Nat × PByte))
  | atomic (op size off : Nat) (operand cmp : DWord)
deriving DecidableEq, Repr

/-- What the device sends towards the host (R388, R390, R411): posted writes, reads it asks, MSI-X vectors,
error messages, completions of host reads; and over the hinge links (R393): requests by link and peer address, replies to
requests that arrived. -/
inductive HostOut where
  | write (addr : Nat) (bytes : List Byte) (relaxed : Bool)
  | readReq (tag addr len : Nat)
  | msix (vector : Nat)
  | errMsg (severity : Nat)
  | completion (bytes : List Byte)
  | unsupported
  | peerReq (link pa : Nat) (body : PeerBody)
  | peerReply (src tag : Nat) (bytes : List PByte)
deriving DecidableEq, Repr

/-- A read the device has sent over the host link and why (R72, R411). -/
inductive HostWait where
  | ctxDesc (quota : Bool)
  | ringDesc
  | ringTail
  | sliceFill (id asid line : Nat)
  | stage
  | nonce
deriving DecidableEq, Repr

inductive LinkState where
  | down | training | up | contained
deriving DecidableEq, Repr

inductive HingeState where
  | down | training | up | failed
deriving DecidableEq, Repr

/-- One hinge link (R392). -/
structure Hinge where
  state : HingeState
  en : Bool
  lanes : BitVec 3
  peer : BitVec 10
  retrain : Nat
  replay : Nat
  /-- Failed trainings in a row. -/
  fails : Nat
deriving DecidableEq, Repr

/-- A request this device has in flight to a peer (R393, R394). -/
structure PeerReq where
  id : Nat
  /-- The slice it is of, and the link it went out on. -/
  slice : Nat
  link : Nat
  asid : Nat
  line : Nat
  pa : Nat
  body : PeerBody
  /-- A read's line takes these (R356, R371). -/
  writable : Bool
  spall : Bool
  /-- The atomic it stands for, if any. -/
  msg : Option Nat
deriving DecidableEq, Repr

/-- A BAR2 window HAPWINk or hinge window HWINw (R389). -/
structure Win where
  valid : Bool
  write : Bool
  vabase : Nat
  asid : Nat
deriving DecidableEq, Repr

/-- A bucket on the move between slices (R386). -/
structure BucketMove where
  bucket : Nat
  old : Nat
  new : Nat
  /-- Requesters that have adopted the new entry. -/
  adopted : List Nat
  handed : Bool
deriving DecidableEq, Repr

/-- The memory-mapped control registers (R8), each as the software-visible value of its fields. -/
structure Regs where
  /-- CTXARG, 64 bits; R77; 0. -/
  ctxarg : DWord
  /-- CTXSTAT: BUSY, CMDLOST, STATE, SUB, ERR, ASID; R77; 0. -/
  ctxBusy : Bool
  ctxLost : Bool
  ctxState : Nat
  ctxSub : Nat
  ctxErr : Nat
  ctxAsid : Nat
  /-- QARG, 64 bits; R88; 0. -/
  qarg : DWord
  /-- QSTAT fields; R89; 0. -/
  qBusy : Bool
  qLost : Bool
  qLastst : Nat
  qSlot : Nat
  qMapped : Bool
  qState : Nat
  qErr : Nat
  qQid : Nat
  /-- SCHEDCFG: PREEMPT 1, DEPPOLL 128, QUANTUM 64, DRAIN_MAX 64; R91. -/
  preempt : Bool
  deppoll : BitVec 16
  quantum : BitVec 16
  drainMax : BitVec 16
  /-- WDOGCFG: EN 1, LOG2 28; R126. -/
  wdogEn : Bool
  wdogLog2 : BitVec 6
  /-- TLBINV.BUSY, CMDLOST; R359; 0. -/
  tlbBusy : Bool
  tlbLost : Bool
  /-- FAQSTAT.OVF 0, CETHR 16; R367. -/
  faqOvf : Bool
  cethr : BitVec 8
  /-- BPLSTAT.BUSY, CMDLOST, ERR, DATA; R368; 0. -/
  bplBusy : Bool
  bplLost : Bool
  bplErr : Nat
  bplData : Nat
  /-- REFCFG.SKIPS 0, ASKIP 1; R370. -/
  refSkips : BitVec 32
  askip : Bool
  /-- FABCFG: KEN 1, HOLDMAX 64, KTHR 4096; R382. -/
  ken : Bool
  holdmax : BitVec 8
  kthr : BitVec 16
  /-- FABCNT: WEEPPKT, KCAPT, KREGEN; R382; 0. -/
  weeppkt : BitVec 24
  kcapt : BitVec 24
  kregen : BitVec 8
  /-- SMAPSTAT: BUSY, CMDLOST, ERR, DATA; R385; 0. LIVE is counted from the retired slices. -/
  smapBusy : Bool
  smapLost : Bool
  smapErr : Nat
  smapData : Nat
  /-- HLID, 10 bits; R392; 0. -/
  hlid : BitVec 10
  /-- ERRBASE.BASE, TGT; R409; 0. -/
  errBase : DWord
  errTgt : Bool
  /-- ERRSIZE.LOG2, 5 bits, as written; R409; 0. -/
  errLog2 : BitVec 5
  errHead : Word
  errTail : Word
  /-- ERRSTAT: OVF, BADCFG, DROPS, SEQ; R409; 0. -/
  errOvf : Bool
  errBadcfg : Bool
  errDrops : BitVec 16
  errSeq : Word
  /-- IRQTBASE, 64 bits; R411; 0. -/
  irqtbase : DWord
  /-- PWRCFG: MAXS 3, TOL 0, VRAMP 40, HBMX 12, IDLEDLY 64; R457. -/
  maxs : BitVec 3
  tol : BitVec 16
  vramp : BitVec 8
  hbmx : BitVec 8
  idledly : BitVec 16
  /-- PWRSTAT: ENT3, ENT2; R457; 0. -/
  ent3 : BitVec 16
  ent2 : BitVec 16
  /-- DEVSTAT: READY, BOOTERR, SLOT, FWVER; R460; 0. -/
  ready : Bool
  booterr : Nat
  fwslot : Bool
  fwver : BitVec 16
  /-- IDARG; IDSTAT: BUSY, CMDLOST, ERR; R463; 0. -/
  idarg : DWord
  idBusy : Bool
  idLost : Bool
  idErr : Nat
  /-- Addresses that LIFECMD copies are still to be made to; LIFESTAT.BUSY is 1 while there are any; R416; none. -/
  lifeCopies : List Nat
deriving DecidableEq, Repr

/-- What survives module reset (R458): non-volatile storage. -/
structure NonVol where
  /-- The bad-page list (R368). -/
  badPages : List Nat
  /-- An ADD being written (R368). -/
  adding : Option Nat
  /-- Lifetime counts by index of R416: CE 1–9, UE 10–18, SELFTEST 19–24, keystones 25, context faults 26, fatal 27, powered seconds 0, seconds by temperature 28–43, days by CE count 44–59. -/
  life : AMap Nat
  /-- Counts since the last flush (R416). -/
  unflushed : AMap Nat
  /-- Correctable errors of the day (R416). -/
  ceToday : Nat
  /-- Cores offline (R415). -/
  offline : List Nat
  /-- Spare rows in use (R415): structure, row. -/
  spares : List (Nat × Nat)
  /-- Firmware slots A and B, and which is active at the next reset (R459, R463). -/
  fwA : List Byte
  fwB : List Byte
  fwActive : Bool
  staging : Option (List Byte)
deriving DecidableEq, Repr

/-- A keystone (R379–R381): the router it is at, its epoch, whether that router holds it. -/
structure Keystone where
  router : Nat
  epoch : BitVec 16
  held : Bool
deriving DecidableEq, Repr

/-- The error bits a privileged unit sets (R413), and the AER Header Log: bytes 0x00–0x0F of the record that set one. -/
structure Aer where
  cor : Bool
  unc : Bool
  log : List Byte
deriving DecidableEq, Repr

/-- The memory-mapped control registers (R8), and the size of BAR2 in configuration space (R388); k numbers a register of a family. -/
inductive CtlReg where
  | ctxcmd | ctxarg | ctxstat | qcmd | qarg | qstat | schedcfg | wdogcfg | faqstat | bplcmd | bplstat | refcfg | fabcfg
  | smapcmd | smapstat | hlid | errbase | errsize | errstat | irqtbase | pwrcfg | idcmd | idarg | idstat
  | hapwin (k : Nat) | hwin (k : Nat) | hlctl (k : Nat) | hlstat (k : Nat)
  | qbell | tlbinv | pfdone | faqpop | fabcnt | errhead | errtail | lifecmd | lifestat | pwrstat | devstat | devid | devser | barsize
deriving DecidableEq, Repr

/-- Where an error is found (R396, R414): the element that is poisoned by an uncorrectable one. -/
inductive ErrorPlace where
  | laneReg (g r lane : Nat)
  | scalarReg (g : Nat) (r : SIndex)
  | windowReg (g k lane : Nat)
  | l1Sector (core asid sector : Nat)
  | scratchSector (core sector : Nat)
  | l2Sector (asid sector : Nat)
  | tileGranule (core granule : Nat)
  | hbmHalf (pa : Nat) (lasting : Bool)
  | graphEntry (unit asid gid : Nat)
  | graphStorage (unit asid addr : Nat)
  | context (asid : Nat)
  | instructionStore (core slot : Nat)
  | reducer (unit : Nat)
  | flit (router : Nat)
  | privileged (kind cls sub unit : Nat)
deriving DecidableEq, Repr

/-- A detected error (R396): its place, whether it is uncorrectable. -/
structure ErrorEvent where
  place : ErrorPlace
  ue : Bool
deriving DecidableEq, Repr

/-- A request that arrives on a hinge link (R393): the inbound window, the offset in it, and what is asked. -/
inductive HingeRequest where
  | read (tag src w off len : Nat)
  | write (src w off : Nat) (data : List Byte)
  | atomic (tag src w off op size : Nat) (operand cmp : DWord)
deriving DecidableEq, Repr

/-- What the step that `exec` is given acts on. For a word: who issues it (R109, R110), set by `step`. For an
event: the handles of what it acts on, as its meaning says. -/
structure Subject where
  grp : Nat
  second : Bool
  /-- Lane word: the block's mask, the word's index in its block, the LX position. -/
  mask : Lanes
  widx : Nat
  blk : Nat
  lxpc : Nat
  ovlid : BitVec 16
  /-- The word's own bits (R407 DATA, R316 WORD, R119 folding). -/
  word : BitVec 96
  /-- The word has not issued: it waits, or it was not offered (R107, R109). -/
  held : Bool
  /-- The word is issued again for the lanes of its replay record (R363): it is not folded or counted, its queue and
  program counter stay. -/
  replay : Bool
  /-- Handles of an event. -/
  a : Nat
  b : Nat
  c : Nat
  flag : Bool
  val : DWord
  data : List Byte
  reg : CtlReg
  place : ErrorPlace
  hinge : HingeRequest
deriving DecidableEq, Repr

/-- An access at the host port, or at the port of a hinge link for a source slice's request (R389, R393). -/
structure PortReq where
  id : Nat
  link : Option Nat
  /-- A write of the host to a control register, which acts after the writes before it (R170): the event, and what it acts on. -/
  ctl : Option (Instr × Subject)
  /-- The window it comes through, read when it is performed; its address is then an offset in the window. -/
  win : Option Nat
  /-- The address is physical (BAR4); else virtual, of a context, through a window that allows writes or not. -/
  phys : Bool
  valid : Bool
  canWrite : Bool
  asid : Nat
  va : Nat
  /-- A read of `len` bytes; a write of `data`; an atomic: operation, size, operand, comparand. -/
  write : Bool
  len : Nat
  data : List Byte
  atomic : Option (Nat × Nat × DWord × DWord)
  src : Nat
  tag : Nat
deriving DecidableEq, Repr

/-- The state of the module. -/
structure State where
  /-- MODEL's own: the steps the outside world and the schedule take next, oldest first (R151: any enabled step may come next). -/
  agenda : List (Instr × Subject)
  /-- MODEL's own: what the step being taken acts on. -/
  cur : Subject
  /-- MODEL's own: the partition (16·core + partition) that issues next. -/
  partNext : Nat
  /-- MODEL's own: steps taken, for free values and orders of arrival. -/
  steps : Nat
  /-- MODEL's own: next identifier of an operation, message or handle. -/
  nextId : Nat
  groups : AMap Group
  teams : AMap Team
  cores : AMap Core
  ctxs : AMap Ctx
  queues : AMap Queue
  kernels : AMap Kernel
  /-- L2 lines: key asid·2^45 + line (R150). -/
  l2 : AMap L2Line
  /-- HBM bytes by physical address (R357); all zero at READY (R459). -/
  hbm : AMap Byte
  /-- HBM sectors whose check bits hold the poison code (R467): key pa div 32. -/
  hbmPoison : AMap Bool
  /-- HBM sectors whose check bits fail: key pa div 32, lasting or not (R467). -/
  hbmBad : AMap Bool
  hbmReqs : List HbmReq
  /-- The TLBINV in progress: the value written, and the identifier behind those of the requests it waits for (R359). -/
  tlbInv : Option (DWord × Nat)
  /-- Accesses that units of the device have made for the steps they are taking (R151). -/
  unitReqs : List UnitReq
  /-- Lines a unit of the device waits to have at their slice: (asid, line). -/
  demands : List (Nat × Nat)
  /-- Cached translations: (controller, asid, page base, 2 MiB page, leaf entry) (R358). -/
  tlb : List (Nat × Nat × Nat × Bool × DWord)
  faults : List PendFault
  frames : AMap Frame
  faq : List FaqEnt
  rows : AMap RowGroup
  /-- Messages in flight, and requests that have reached their slice (R150). -/
  fabric : List Msg
  arrived : List Msg
  /-- Next number of a requester for a line, and next number a slice expects (R152): key requester·2^60 + asid·2^45 + line. -/
  sendNum : AMap Nat
  expect : AMap Nat
  remotes : List RemReq
  remSend : AMap Nat
  remExpect : AMap Nat
  queueOps : List QueueOp
  offers : List Offer
  greqs : List GReq
  gops : List GraphOp
  /-- Next request number per core and graph unit, and next expected (R346): key core·96 + unit. -/
  gSend : AMap Nat
  gExpect : AMap Nat
  /-- In-list message numbers per source unit and destination vertex (R197). -/
  inSend : AMap Nat
  inExpect : AMap Nat
  /-- LAUNCH requests at the queue manager in order of arrival (R101). -/
  launches : List LaunchReq
  /-- Writes held at their slices, oldest first (R95, R360). -/
  heldWrites : List HeldWrite
  /-- Slice map (R384): unlisted buckets hold b mod 96; retired slices (R385). -/
  smap : AMap Nat
  retired : List Nat
  moves : List BucketMove
  /-- Records waiting for the interrupt controller (R412). -/
  records : List Rec
  /-- The ring descriptor read for the record at the head, and its tail (R411). -/
  ringInfo : Option (List Byte × Option DWord)
  osHeads : AMap DWord
  hostOut : List HostOut
  hostWait : List HostWait
  regs : Regs
  nv : NonVol
  link : LinkState
  /-- Corrected and Uncorrectable Internal Error, and the log (R413); 0. -/
  aer : Aer
  hinges : AMap Hinge
  peerReqs : List PeerReq
  /-- The links a slice sends its requests for a peer over (R394): key slice·1024 + peer. -/
  peerSets : AMap (List Nat)
  /-- The slice a RETIRE in progress empties (R385). -/
  retiring : Option Nat
  /-- Accesses at the host port and the hinge ports whose lines are on their way (R170, R393). -/
  ports : List PortReq
  hapwin : AMap Win
  hwin : AMap Win
  /-- The keystones on the ring, and the newest epoch each router has seen (R381). -/
  keystones : List Keystone
  kseen : AMap (BitVec 16)
  /-- Power state 0…3 and a pending exit or entry (R455–R457). -/
  power : Nat
  powerExit : Bool
  /-- 64 hardware queue slots (R97): the queue mapped. -/
  slots : AMap Nat
  /-- PREEMPT as it has held in each slot since its last quantum boundary (R91); 1. -/
  slotPre : AMap Bool
  /-- Size of BAR2 as a power of two of MiB (R388); 16. -/
  bar2 : Nat
  /-- Main power present (R466). -/
  powered : Bool
  /-- A context command waiting on the host link: the OP and ASID (R78). -/
  ctxCmd : Option (Nat × Nat)
  /-- A REGISTER whose reads wait for their lines: the value written to QCMD (R88, R92). -/
  qCmd : Option DWord
  /-- Self-tests running (R414): structure, unit, element, uncorrectable. -/
  selftests : List (Nat × Nat × Nat × Bool)
deriving DecidableEq, Repr

/-- Why a step stops for good. No meaning of this model raises one: every event the manual describes is a next
state (a trap is taken, R121). The type is closed with the one condition in which there is no machine. -/
inductive Fault where
  /-- Raised by `step` while main power is lost (R466) and the outside world does not bring it back next. Safe. -/
  | powerLost
deriving DecidableEq, Repr

/-- Why a word has no meaning here. -/
inductive Refusal where
  /-- Raised by an arm of `exec` whose instruction has no meaning yet. Safe. -/
  | notModelled (mnemonic : String)
deriving DecidableEq, Repr

/-! ## Reset -/

/-- A step that acts on nothing yet. -/
def noSubject : Subject :=
  { grp := 0, second := false, mask := 0, widx := 0xFFFF, blk := 0, lxpc := 0, ovlid := 0, word := 0, held := false, replay := false,
    a := 0, b := 0, c := 0, flag := false, val := 0, data := [], reg := .ctxarg, place := .reducer 0,
    hinge := .read 0 0 0 0 0 }

/-- The control registers after module reset, each field at the value of its table. -/
def resetRegs : Regs :=
  { ctxarg := 0, ctxBusy := false, ctxLost := false, ctxState := 0, ctxSub := 0, ctxErr := 0, ctxAsid := 0, qarg := 0,
    qBusy := false, qLost := false, qLastst := 0, qSlot := 0, qMapped := false, qState := 0, qErr := 0, qQid := 0,
    preempt := true, deppoll := 128, quantum := 64, drainMax := 64, wdogEn := true, wdogLog2 := 28, tlbBusy := false,
    tlbLost := false, faqOvf := false, cethr := 16, bplBusy := false, bplLost := false, bplErr := 0, bplData := 0,
    refSkips := 0, askip := true, ken := true, holdmax := 64, kthr := 4096, weeppkt := 0, kcapt := 0, kregen := 0,
    smapBusy := false, smapLost := false, smapErr := 0, smapData := 0, hlid := 0, errBase := 0, errTgt := false,
    errLog2 := 0, errHead := 0, errTail := 0, errOvf := false, errBadcfg := false, errDrops := 0, errSeq := 0,
    irqtbase := 0, maxs := 3, tol := 0, vramp := 40, hbmx := 12, idledly := 64, ent3 := 0, ent2 := 0,
    ready := false, booterr := 0, fwslot := false, fwver := 0, idarg := 0, idBusy := false, idLost := false, idErr := 0, lifeCopies := [] }

/-- Non-volatile storage of a module as made (log 28): no bad page, no count, no core offline, both firmware slots
without an image, slot A active. -/
def blankNv : NonVol :=
  { badPages := [], adding := none, life := [], unflushed := [], ceToday := 0, offline := [], spares := [], fwA := [], fwB := [],
    fwActive := false, staging := none }

/-- The module right after module reset with non-volatile storage as it stands (R37, R458): the host link trains,
router 0 holds the keystone with epoch 0. -/
def resetWith (nv : NonVol) : State :=
  { agenda := [], cur := noSubject, partNext := 0, steps := 0, nextId := 1, groups := [], teams := [], cores := [],
    ctxs := [], queues := [], kernels := [], l2 := [], hbm := [], hbmPoison := [], hbmBad := [], hbmReqs := [], tlbInv := none,
    unitReqs := [], demands := [], tlb := [], faults := [], frames := [], faq := [], rows := [], fabric := [], arrived := [],
    sendNum := [], expect := [], remotes := [], remSend := [], remExpect := [], queueOps := [], offers := [],
    greqs := [], gops := [], gSend := [], gExpect := [], inSend := [], inExpect := [], launches := [], heldWrites := [], smap := [],
    retired := [], moves := [], records := [], ringInfo := none, osHeads := [], hostOut := [], hostWait := [],
    regs := resetRegs, nv := nv, link := .training, aer := ⟨false, false, []⟩, hinges := [], peerReqs := [], peerSets := [], retiring := none, ports := [], hapwin := [], hwin := [],
    keystones := [{ router := 0, epoch := 0, held := true }], kseen := [], power := 0,
    powerExit := false, slots := [], slotPre := [], bar2 := 16, powered := true, ctxCmd := none, qCmd := none, selftests := [] }

/-- The machine right after module reset. -/
def State.reset : State := resetWith blankNv

end Sys2Proof.Machine
end

