-- ==== Sys2Proof/Machine/Ops.lean ====
section
/-!
DEFINITION. The named operations every meaning is written from: the records that stand for nothing, lookups and
updates, scalar and lane registers, program-counter slots, the outstanding-operation counters, error records,
taking a trap (R121) with the poison signal (R399, R400) and the context fault (R78), and the return from a trap
handler (R253, R401).
-/
namespace Sys2Proof.Machine

/-- The outcome of a step of this machine. -/
abbrev Out := Host.Outcome State Fault Refusal

/-! ## Records that stand for nothing -/

def zeroReg : SReg := ⟨0, false⟩
def zeroElt : LElt := ⟨0, false⟩
def zeroPred : Pred := ⟨0, 0⟩
def zeroWin : WElt := ⟨0, false⟩

/-- A closed cursor lane (R201): all zero. -/
def closedCursor : Cursor := ⟨0, false, false, false, false, 0, 0, 0, 0⟩

def deadSlot : PcSlot :=
  { live := false, pc := 0, ovlid := 0, islot := 0, ok := 0, entered := true, resumeAs := .none, mask := 0, acc := 0, sigskip := false,
    reason := .none, issued := false, waitPhase := none, kept := false, prior := [], rej := none, acqHold := [], fenceHold := [], bindHold := [],
    lastIssue := 0 }

/-- The state of R96, with no place and no grant. -/
def absentGroup : Group :=
  { phase := .absent, team := 0, grpid := 0, grant := 0, partition := 0, age := 0, skip := 0, vbase := 0,
    s := [], v := [], p := [], w := [], wvalid := 0, c := [], fpst := 0, satf := 0, idempc := 0, room := 0, ptr := 0,
    drecs := [], dbelow := 0, dmeta := [], slot0 := deadSlot, slot1 := deadSlot, rstack := [], laneq := [], laneStall := none,
    laneRej := none,
    ops := [], fifo := [], loads := [], fetches := [], engq := [], moves := [], copies := [], syncs := [],
    maints := [], binds := [], sbusy := [], lbusy := [], reloads := [], skid := 0, haltpc := none, haltslot := false,
    trapcls := 0, trapsub := 0, primary := false, lastpos := (0, 0), lastslot := false, replay := none,
    restart := none, stackWait := none, stackBy := false, stackHeld := false, beside := none }

/-- R178: Unarmed, scope team, every count 0. -/
def unarmed : Barrier := ⟨.unarmed, 0, 0, 0, 0, 0, 0⟩

def absentTeam : Team :=
  { state := .absent, asid := 0, kernel := 0, teamid := 0, clusid := 0, core := 0, groups := 0, grant := 0,
    tiles := [], ways := [], bars := [], pins := 0, primgrp := none, kHalt := false, kHandler := false,
    kGang := false, preempt := false, restartAll := false, asked := false, widerOut := [], widerIn := [], waitPage := none, stamp := 0 }

def emptyLine : L1Line := ⟨0, 0, 0, 0, false, 0, false, false, 0, 0⟩

/-- An Empty store slot (R138). -/
def emptyStore : StoreSlot :=
  { state := .empty, gen := 0, holders := [], frames := 0, bytes := 0, laneoff := 0, flags := 0, tag := [], code := 0,
    asid := 0, shared := false, image := [], entry := 0, waiters := [], doomed := false }

def emptyPattern : Pattern := ⟨0, [], false⟩
def emptyAct : ActBank := ⟨0, [], []⟩
def freeBank : Bank := ⟨none, false⟩

/-- A core after module reset (R37): nothing resident, tags 0, every store slot Empty. -/
def resetCore : Core :=
  { l1 := [], split := 0, newSplit := none, scratch := [], scratchPoison := [], store := [],
    ovlreqs := [], imgReads := [], roomWait := [], tiles := [], tilePoison := [], banks := [],
    patterns := [], act0 := emptyAct, act1 := emptyAct, actCur := false, actReqs := [], engLast := none,
    offline := false, ageNext := 0, draining := false }

def freeCtx : Ctx :=
  { state := .free, sub := 0, ptroot := 0, gtbase := 0, gmax := 0, btbase := 0, frameq := 0, scrq := 0, qslotq := 0,
    priomax := 0, irqring := 0, newQuota := none, share := false, sys := false, binds := [], gents := [], gstore := [], gbad := [] }

def freeQueue : Queue :=
  { state := .free, asid := 0, ring := 0, log2n := 0, prio := 0, devlaunch := false, wraddr := 0, rdaddr := 0, wr := 0,
    rd := 0, slot := none, since := 0, taken := false, head := .none, kernel := 0, lastst := 0, prevDone := true, bell := false }

def absentKernel : Kernel :=
  { state := .absent, queue := 0, prio := 0, num := 0, asid := 0, marker := false, coop := false, spec := false, order := false,
    sys := false, groups := 0, tiles := 0, regs := 0, ways := 0, csize := 1, teams := 0, entry := 0, entoff := 0,
    karg := 0, ksave := 0, dep0 := 0, dep0v := 0, dep1 := 0, dep1v := 0, met0 := false, met1 := false, done := 0,
    packet := 0, dirbase := 0, dirlen := 0, entovl := 0, placed := 0, retired := 0, clusBar := [],
    gridBar := [], noplace := false, back := [], loads := [], toClean := none, told := false }

/-! ## Lookups and updates -/

def State.grp (s : State) (k : Nat) : Group := AMap.get absentGroup s.groups k
def State.setGrp (s : State) (k : Nat) (g : Group) : State := { s with groups := AMap.put s.groups k g }
def State.modGrp (s : State) (k : Nat) (f : Group → Group) : State := s.setGrp k (f (s.grp k))
def State.team (s : State) (t : Nat) : Team := AMap.get absentTeam s.teams t
def State.setTeam (s : State) (t : Nat) (x : Team) : State := { s with teams := AMap.put s.teams t x }
def State.modTeam (s : State) (t : Nat) (f : Team → Team) : State := s.setTeam t (f (s.team t))
def State.core (s : State) (c : Nat) : Core := AMap.get resetCore s.cores c
def State.setCore (s : State) (c : Nat) (x : Core) : State := { s with cores := AMap.put s.cores c x }
def State.modCore (s : State) (c : Nat) (f : Core → Core) : State := s.setCore c (f (s.core c))
def State.ctx (s : State) (a : Nat) : Ctx := AMap.get freeCtx s.ctxs a
def State.setCtx (s : State) (a : Nat) (x : Ctx) : State := { s with ctxs := AMap.put s.ctxs a x }
def State.modCtx (s : State) (a : Nat) (f : Ctx → Ctx) : State := s.setCtx a (f (s.ctx a))
def State.queue (s : State) (q : Nat) : Queue := AMap.get freeQueue s.queues q
def State.setQueue (s : State) (q : Nat) (x : Queue) : State := { s with queues := AMap.put s.queues q x }
def State.modQueue (s : State) (q : Nat) (f : Queue → Queue) : State := s.setQueue q (f (s.queue q))
def State.kernel (s : State) (n : Nat) : Kernel := AMap.get absentKernel s.kernels n
def State.setKernel (s : State) (n : Nat) (x : Kernel) : State := { s with kernels := AMap.put s.kernels n x }
def State.modKernel (s : State) (n : Nat) (f : Kernel → Kernel) : State := s.setKernel n (f (s.kernel n))
def State.modRegs (s : State) (f : Regs → Regs) : State := { s with regs := f s.regs }
def State.modNv (s : State) (f : NonVol → NonVol) : State := { s with nv := f s.nv }

/-- Groups are numbered 16·team + GRPID. -/
def groupKey (team grpid : Nat) : Nat := 16 * team + grpid

/-- Keys of a team's groups in ascending GRPID. -/
def teamGroups (s : State) (t : Nat) : List Nat := (List.range (s.team t).groups).map (groupKey t)

/-- Groups of a team that have not exited. -/
def liveGroups (s : State) (t : Nat) : List Nat := (teamGroups s t).filter (fun k => decide ((s.grp k).phase ≠ .exited))

def State.teamOf (s : State) (k : Nat) : Team := s.team (s.grp k).team
def State.coreOf (s : State) (k : Nat) : Nat := (s.teamOf k).core
def State.asidOf (s : State) (k : Nat) : Nat := (s.teamOf k).asid
def State.kernelOf (s : State) (k : Nat) : Kernel := s.kernel (s.teamOf k).kernel

/-- A fresh identifier. -/
def State.bump (s : State) : State := { s with nextId := s.nextId + 1 }

def Core.storeSlot (c : Core) (n : Nat) : StoreSlot := AMap.get emptyStore c.store n
def Core.setStore (c : Core) (n : Nat) (x : StoreSlot) : Core := { c with store := AMap.put c.store n x }
def Core.bank (c : Core) (t : Nat) : Bank := AMap.get freeBank c.banks t
def Core.pattern (c : Core) (e : Nat) : Pattern := AMap.get emptyPattern c.patterns e
def Team.bar (t : Team) (b : Nat) : Barrier := AMap.get unarmed t.bars b
def Team.setBar (t : Team) (b : Nat) (x : Barrier) : Team := { t with bars := AMap.set unarmed t.bars b x }

/-! ## Program-counter slots -/

def Group.slot (g : Group) (second : Bool) : PcSlot := if second then g.slot1 else g.slot0
def Group.setSlot (g : Group) (second : Bool) (x : PcSlot) : Group :=
  if second then { g with slot1 := x } else { g with slot0 := x }
def Group.modSlot (g : Group) (second : Bool) (f : PcSlot → PcSlot) : Group := g.setSlot second (f (g.slot second))
def State.modSlot (s : State) (k : Nat) (second : Bool) (f : PcSlot → PcSlot) : State :=
  s.modGrp k (fun g => g.modSlot second f)

/-- The operation the word being issued starts: a new one, or for the word of a replay record the one it stands for
(R363). -/
def nextOp (s : State) (c : CtrClass) : Nat :=
  match s.cur.replay, (s.grp s.cur.grp).ops.find? (fun o => decide (o.cls = c) && !o.done) with
  | true, some o => o.id
  | _, _ => s.nextId

/-- What of a slot's earlier words is still outstanding (R147). -/
def Group.stillPrior (g : Group) (ids : List Nat) : List Nat :=
  ids.filter (fun i => g.laneq.any (fun b => decide (b.id = i)) || g.ops.any (fun o => decide (o.id = i) || decide (o.blk = i)))

/-- An operation or a lane block takes its place in its slot's program order (R147). -/
def Group.place (g : Group) (second : Bool) (id : Nat) : Group :=
  g.modSlot second (fun sl => { sl with prior := g.stillPrior sl.prior ++ [id] })

/-- A new operation raises its counter (R173); the word of a replay record has its counter raised already (R363). A scalar word
has its own place in program order, a lane word that of its block (R147). -/
def startOp (s : State) (c : CtrClass) (fenced : Bool) : State × Nat :=
  let id := nextOp s c
  if id = s.nextId then
    (s.bump.modGrp s.cur.grp (fun g =>
      let g := if s.cur.blk = 0 then g.place s.cur.second id else g
      { g with ops := g.ops ++ [⟨id, c, s.cur.second, false, fenced, false, s.cur.blk, s.cur.ovlid, s.cur.lxpc, s.cur.widx, 0⟩] }), id)
  else (s, id)

/-- An operation comes before the slot's next word in its program order (R147). -/
def PcSlot.follows (sl : PcSlot) (o : OutOp) : Bool :=
  sl.prior.contains o.id || (decide (o.blk ≠ 0) && sl.prior.contains o.blk)

/-- Both slots live (R118). -/
def Group.diverged (g : Group) : Bool := g.slot0.live && g.slot1.live

/-- Codes 0x10–0x13 of R107. -/
def Reason.isParked : Reason → Bool
  | .pagefault | .ovlcall | .ovlret | .ovlrestore => true
  | _ => false

/-- Reason codes of R107. -/
def Reason.code : Reason → Nat
  | .none => 0 | .counter => 1 | .barrier => 2 | .lxfull => 3 | .hazard => 4 | .retry => 6 | .dsfill => 7
  | .exitdrain => 8 | .spillwait => 9 | .pagefault => 0x10 | .ovlcall => 0x11 | .ovlret => 0x12 | .ovlrestore => 0x13

/-! ## Key words (R134, R135) -/

def keyWord (ovlid : BitVec 16) (gen : BitVec 27) (slot : Nat) : DWord :=
  BitVec.ofNat 64 (ovlid.toNat * 2 ^ 32 + gen.toNat * 32 + slot % 32)

def keyStatus (k : DWord) : Nat := (k.extractLsb' 56 8).toNat
def keyOvlid (k : DWord) : BitVec 16 := k.extractLsb' 32 16
def keyGen (k : DWord) : BitVec 27 := k.extractLsb' 5 27
def keySlot (k : DWord) : Nat := (k.extractLsb' 0 5).toNat

/-- A key word that is only a status (R134). -/
def statusKey (st : Nat) : DWord := BitVec.ofNat 64 (st * 2 ^ 56)

/-- The key word of the overlay in a store slot of the group's core, under an overlay identifier: what ok becomes when the
program counter enters it (R135). -/
def okWord (s : State) (k slot : Nat) (ovlid : BitVec 16) : DWord :=
  keyWord ovlid ((s.core (s.coreOf k)).storeSlot slot).gen slot

/-! ## Scalar registers (R208, R114, R231) -/

/-- Lanes 32k…32k+31 of a mask: the low half of s60+k. -/
def maskWord (m : Lanes) (k : Nat) : Word := m.extractLsb' (32 * k) 32

def setMaskWord (m : Lanes) (k : Nat) (x : Word) : Lanes :=
  match k with
  | 0 => m.extractLsb' 64 32 ++ m.extractLsb' 32 32 ++ x
  | 1 => m.extractLsb' 64 32 ++ x ++ m.extractLsb' 0 32
  | _ => x ++ m.extractLsb' 32 32 ++ m.extractLsb' 0 32

def Group.sraw (g : Group) (r : Nat) : SReg := AMap.get zeroReg g.s r

/-- A read of scalar register r by a slot: s0 is 0, s58 is ok, the low halves of s60–s62 are the slot's own. -/
def readS (s : State) (k : Nat) (second : Bool) (r : Nat) : SReg :=
  let g := s.grp k
  if r = 0 then zeroReg
  else if r = 58 then ⟨(g.slot second).ok, false⟩
  else if 60 ≤ r ∧ r ≤ 62 then
    let x := g.sraw r
    ⟨x.val.extractLsb' 32 32 ++ maskWord (g.slot second).mask (r - 60), x.poison⟩
  else g.sraw r

/-- A write of scalar register r: discarded at s0; at s60–s62 the low half lands in the slot's mask. -/
def Group.writeS (g : Group) (second : Bool) (r : Nat) (x : SReg) : Group :=
  if r = 0 then g
  else if 60 ≤ r ∧ r ≤ 62 then
    let g := g.modSlot second (fun sl => { sl with mask := setMaskWord sl.mask (r - 60) (x.val.extractLsb' 0 32) })
    { g with s := AMap.set zeroReg g.s r ⟨x.val.extractLsb' 32 32 ++ (0 : Word), x.poison⟩ }
  else { g with s := AMap.set zeroReg g.s r x }

def writeS (s : State) (k : Nat) (second : Bool) (r : Nat) (x : SReg) : State :=
  s.modGrp k (fun g => g.writeS second r x)

/-! ## Lane registers, predicates, windows, cursors -/

def Group.velt (g : Group) (r lane : Nat) : LElt := AMap.get zeroElt g.v (96 * r + lane)
def Group.setVelt (g : Group) (r lane : Nat) (x : LElt) : Group :=
  { g with v := AMap.set zeroElt g.v (96 * r + lane) x }
def Group.pred (g : Group) (p : Nat) : Pred := AMap.get zeroPred g.p p
def Group.setPred (g : Group) (p : Nat) (x : Pred) : Group := { g with p := AMap.set zeroPred g.p p x }
def Group.win (g : Group) (k lane : Nat) : WElt := AMap.get zeroWin g.w (96 * k + lane)
def Group.setWin (g : Group) (k lane : Nat) (x : WElt) : Group := { g with w := AMap.set zeroWin g.w (96 * k + lane) x }
def Group.cursor (g : Group) (k lane : Nat) : Cursor := AMap.get closedCursor g.c (96 * k + lane)
def Group.setCursor (g : Group) (k lane : Nat) (x : Cursor) : Group :=
  { g with c := AMap.set closedCursor g.c (96 * k + lane) x }

/-- Lanes in ascending VID. -/
def allLanes : List Nat := List.range 96

def lanesOf (m : Lanes) : List Nat := allLanes.filter (fun l => m.getLsbD l)

/-- A mask from a list of lanes. -/
def maskOf (ls : List Nat) : Lanes := ls.foldl (fun m l => m ||| (1 : Lanes) <<< l) 0

/-- Replace the bits of p in the lanes of a mask. -/
def Pred.merge (old : Pred) (act bits poison : Lanes) : Pred :=
  ⟨(old.bits &&& ~~~act) ||| (bits &&& act), (old.poison &&& ~~~act) ||| (poison &&& act)⟩

/-! ## Outstanding operations (R173–R175) -/

def Group.count (g : Group) (c : CtrClass) : Nat := (g.ops.filter (fun o => decide (o.cls = c))).length

/-- The counters are all zero. -/
def Group.quiet (g : Group) : Bool := g.ops.isEmpty

/-- An operation that has not reached its falling point. -/
def Group.pending (g : Group) (id : Nat) : Bool := g.ops.any (fun o => decide (o.id = id) && !o.done)

/-- The slot that issued an operation. -/
def Group.opSecond (g : Group) (id : Nat) : Bool := g.ops.any (fun o => decide (o.id = id) && o.second)

/-- The operation has reached its falling point (R175). -/
def Group.finish (g : Group) (id : Nat) : Group :=
  { g with ops := g.ops.map (fun o => if o.id = id then { o with done := true } else o),
           sbusy := g.sbusy.filter (fun b => decide (b.op ≠ id)) }

def Group.setParked (g : Group) (id : Nat) (b : Bool) : Group :=
  { g with ops := g.ops.map (fun o => if o.id = id then { o with parked := b } else o) }

/-- OPCNT (R177). -/
def opcnt (g : Group) : DWord :=
  BitVec.ofNat 64 (g.count .ld + 2 ^ 6 * g.count .st + 2 ^ 12 * g.count .cp + 2 ^ 18 * g.count .tl
    + 2 ^ 24 * g.count .gr + 2 ^ 30 * g.count .en)

/-! ## Signatures (R119) -/

/-- One bit of the reflected CRC-32C. -/
def crcBit (a : Word) : Word := if a.getLsbD 0 then (a >>> 1) ^^^ 0x82F63B78 else a >>> 1

def crcByte (a : Word) (b : Byte) : Word :=
  crcBit (crcBit (crcBit (crcBit (crcBit (crcBit (crcBit (crcBit (a ^^^ b.setWidth 32))))))))

/-- crc32c(acc, the 4 bytes of a word, little-endian). -/
def crcWord (a w : Word) : Word :=
  crcByte (crcByte (crcByte (crcByte a (w.extractLsb' 0 8)) (w.extractLsb' 8 8)) (w.extractLsb' 16 8)) (w.extractLsb' 24 8)

/-! ## Records (R407) -/

/-- CTRL form of a position (R116) with its TYPE. -/
def ctrlForm (type : Nat) (ovlid : BitVec 16) (off : Nat) : Word :=
  BitVec.ofNat 32 (type * 2 ^ 30 + ovlid.toNat * 2 ^ 14 + off % 2 ^ 14)

def blankRec : Rec :=
  { kind := 0, sev := 0, cls := 0, sub := 0, unit := 0, asid := 0, phys := false, dpois := false, time := 0, addr := 0,
    data := 0, teamid := 0, grpid := 0, gflags := 0, widx := 0xFFFF, pc := 0, seq := 0, lanes := 0, count := 0 }

/-- The 64 bytes of a record. -/
def recBytes (r : Rec) : List Byte :=
  leBytes 1 r.kind ++ leBytes 1 r.sev ++ leBytes 1 r.cls ++ leBytes 1 r.sub ++ leBytes 2 r.unit
    ++ leBytes 2 (r.asid + (if r.phys then 2 ^ 12 else 0) + (if r.dpois then 2 ^ 13 else 0)) ++ leBytes 8 r.time.toNat
    ++ leBytes 8 r.addr ++ leBytes 8 r.data.toNat ++ leBytes 4 r.teamid ++ leBytes 1 r.grpid ++ leBytes 1 r.gflags
    ++ leBytes 2 r.widx ++ leBytes 4 r.pc.toNat ++ leBytes 4 r.seq.toNat ++ leBytes 12 r.lanes.toNat ++ leBytes 2 r.count
    ++ leBytes 2 0

/-- Something goes out over the host link; none does while it is Contained (R391). -/
def State.emit (s : State) (o : HostOut) : State :=
  match s.link with
  | .contained => s
  | _ => { s with hostOut := s.hostOut ++ [o] }

/-- A record joins those the interrupt controller has still to write, with the time of its detection; none is reported
while the host link is Contained (R405). -/
def State.report (s : State) (r : Rec) : State :=
  match s.link with
  | .contained => s
  | _ => { s with records := s.records ++ [{ r with time := Config.fclkAt s.steps }] }

/-- A privileged unit reports to the host through AER (R413): ERR_COR 0, ERR_NONFATAL 1, ERR_FATAL 2; the record of the
error that sets a status bit is logged. -/
def State.tellHost (s : State) (sev : Nat) (r : Rec) : State :=
  match s.link with
  | .up =>
    let log := (recBytes { r with time := Config.fclkAt s.steps }).take 16
    let a := if sev = 0 then (if s.aer.cor then s.aer else { s.aer with cor := true, log := log })
      else if s.aer.unc then s.aer else { s.aer with unc := true, log := log }
    { s with hostOut := s.hostOut ++ [.errMsg sev], aer := a }
  | _ => s

/-- Lifetime counts (R416) gathered since the last flush, saturating. -/
def State.tally (s : State) (i : Nat) : State :=
  s.modNv (fun n => { n with ceToday := if 1 ≤ i ∧ i ≤ 9 then n.ceToday + 1 else n.ceToday, unflushed := AMap.put n.unflushed i (min (2 ^ 64 - 1) (AMap.get 0 n.unflushed i + 1)) })

/-- A structure's element is to be tested (R414): one under test is not tested again. -/
def State.askTest (s : State) (structure' unit elt : Nat) (ue : Bool) : State :=
  let same (t : Nat × Nat × Nat × Bool) : Bool := decide (t.1 = structure') && decide (t.2.1 = unit) && decide (t.2.2.1 = elt)
  if s.selftests.any same then
    { s with selftests := s.selftests.map (fun t => if same t then (t.1, t.2.1, t.2.2.1, t.2.2.2 || ue) else t) }
  else { s with selftests := s.selftests ++ [(structure', unit, elt, ue)] }

/-! ## Traps -/

/-- Class codes of R395. -/
def TrapClass.code : TrapClass → Nat
  | .illop => 1 | .poison => 2 | .divg => 3 | .signature => 4 | .overlay => 5 | .rstack => 6 | .launch => 7 | .user => 8
  | .watchdog => 9 | .barrier => 10 | .mem => 11 | .lane => 12 | .tile => 13 | .engine => 14 | .graph => 15 | .page => 16

/-- What a trap's record carries besides class and sub-code: the instruction's position, slot and index, an
address, DATA, and lanes (R407). -/
structure TrapInfo where
  ovlid : BitVec 16
  off : Nat
  second : Bool
  widx : Nat
  addr : Nat
  data : DWord
  dpois : Bool
  lanes : Lanes
deriving DecidableEq, Repr

/-- The position of the word being issued. -/
def issueInfo (s : State) : TrapInfo :=
  { ovlid := s.cur.ovlid, off := s.cur.lxpc, second := s.cur.second, widx := s.cur.widx, addr := 0, data := 0,
    dpois := false, lanes := 0 }

/-- The position of the word of an outstanding operation. -/
def opInfo (g : Group) (op : Nat) : TrapInfo :=
  match g.ops.find? (fun o => decide (o.id = op)) with
  | some o => { ovlid := o.ovlid, off := o.off, second := o.second, widx := o.widx, addr := 0, data := 0, dpois := false,
                lanes := 0 }
  | none => { ovlid := g.lastpos.1, off := g.lastpos.2, second := g.lastslot, widx := 0xFFFF, addr := 0, data := 0,
              dpois := false, lanes := 0 }

def trapRec (s : State) (k : Nat) (sev cls sub : Nat) (x : TrapInfo) (primary : Bool) : Rec :=
  { blankRec with
    sev := sev, cls := cls, sub := sub, unit := s.coreOf k, asid := s.asidOf k, addr := x.addr, data := x.data,
    dpois := x.dpois, teamid := (s.teamOf k).teamid, grpid := (s.grp k).grpid,
    gflags := (if x.second then 1 else 0) + (if primary then 2 else 0), widx := x.widx,
    pc := ctrlForm 1 x.ovlid x.off, lanes := x.lanes }

/-- A group that has not exited is stopped where it stands (R78, R121). -/
def haltGroup (g : Group) : Group :=
  match g.phase with
  | .exited | .absent => g
  | .halted => g
  | _ => { g with phase := .halted, haltpc := some g.lastpos, haltslot := g.lastslot }

/-- Stop a team of a faulting context: its image is to be written (R78, R401, R404). -/
def stopForFault (s : State) (t : Nat) : State :=
  let x := s.team t
  match x.state with
  | .placed | .running | .halting | .handler | .restoring =>
    let s := (teamGroups s t).foldl (fun s k => s.modGrp k haltGroup) s
    s.setTeam t { x with state := .saving, kHandler := decide (x.state = .handler),
                         kHalt := decide (x.state = .halting) || x.kHalt }
  | _ => s

/-- Teams of a context, by handle. -/
def teamsOf (s : State) (asid : Nat) : List Nat :=
  (s.teams.filter (fun p => decide (p.2.asid = asid))).map (·.1)

/-- A context fault (R78, R404, R406): the record, the state Faulted, every team stopped for its image. -/
def contextFault (s : State) (asid sub teamid grpid : Nat) : State :=
  let c := s.ctx asid
  let s := s.report { blankRec with kind := 8, sev := 4, cls := 0x27, sub := sub, asid := asid, teamid := teamid,
                                    grpid := grpid }
  match c.state with
  | .active | .suspending =>
    let s := (s.setCtx asid { c with state := .faulted, sub := sub }).tally 26
    (teamsOf s asid).foldl stopForFault s
  | _ => s

/-- The other groups of a halting team go into their skid (R121); a restart in progress stays to be done. -/
def startSkid (g : Group) : Group :=
  match g.phase with
  | .waiting | .running | .restarting => { g with phase := .stopping, skid := 0 }
  | _ => g

/-- TAKING A TRAP (R121, R395, R401). The group's header takes the class and sub-code of its first trap and the
position of the trapping instruction, and the group halts; the first trap of the team is the primary one and sends
every other group into its skid; a record with SEV TRAP is written. In Handler the trap is a context fault with
SUB 0x03, and the poison signal of a halted group's stopped command one with SUB 0x04 (R405). A group that has halted already keeps
where it halted. -/
def takeTrap (s : State) (k : Nat) (cls : TrapClass) (sub : Nat) (x : TrapInfo) : State :=
  let g := s.grp k
  let t := s.team g.team
  if g.phase = .exited || g.phase = .absent || g.phase = .saved then s
  else if g.phase = .halted then
    let s := (s.report (trapRec s k 3 cls.code sub x false)).setGrp k
      { g with trapcls := if g.trapcls = 0 then cls.code else g.trapcls, trapsub := if g.trapcls = 0 then sub else g.trapsub }
    if t.state = .handler && decide (cls = .poison) then contextFault s t.asid 4 t.teamid g.grpid else s
  else if t.state = .handler then
    contextFault (s.report (trapRec s k 3 cls.code sub x false)) t.asid 3 t.teamid g.grpid
  else
    let first := t.primgrp.isNone
    let s := s.report (trapRec s k 3 cls.code sub x first)
    let s := s.setGrp k
      { g with phase := .halted, haltpc := some (x.ovlid, x.off), haltslot := x.second,
               skid := if first then 0 else g.skid,
               trapcls := if g.trapcls = 0 then cls.code else g.trapcls,
               trapsub := if g.trapcls = 0 then sub else g.trapsub,
               primary := g.primary || first, restart := none }
    if first then
      let s := s.setTeam g.team { t with state := .halting, primgrp := some g.grpid }
      ((teamGroups s g.team).filter (fun j => decide (j ≠ k))).foldl (fun s j => s.modGrp j startSkid) s
    else s

/-- Region fields of IDEMPC (R398). -/
def idemOpen (x : DWord) : Bool := x.getLsbD 63
def idemUsed (x : DWord) : Bool := x.getLsbD 62
def idemEroom (x : DWord) : BitVec 12 := x.extractLsb' 50 12
def idemHen (x : DWord) : Bool := x.getLsbD 44
def idemHoff (x : DWord) : Nat := (x.extractLsb' 30 14).toNat
def idemOvlid (x : DWord) : BitVec 16 := x.extractLsb' 14 16
def idemOff (x : DWord) : Nat := (x.extractLsb' 0 14).toNat

/-- A POISON signal (R396, R399, R400): a restart of an open region that has not used its restart, else a team
trap, bit 7 of the sub-code set when a region had used it or a restart is in progress. A group in its skid restarts too: it issues
no more, and halts with its restart still to be done. -/
def signalPoison (s : State) (k : Nat) (sub : Nat) (x : TrapInfo) : State :=
  let g := s.grp k
  let t := s.team g.team
  let runs := decide (t.state = .running) && decide (g.phase = .running)
  if g.restart.isSome || decide (g.phase = .restarting) then takeTrap s k .poison (sub + 0x80) x
  else if idemOpen g.idempc && !idemUsed g.idempc && (runs || decide (g.phase = .stopping)) then
    s.setGrp k
      { g with phase := if runs then .restarting else .stopping, laneq := [], laneStall := none, laneRej := none,
               slot0 := { g.slot0 with reason := .counter, issued := false },
               slot1 := { g.slot1 with reason := .counter, issued := false },
               restart := some (trapRec s k 2 2 sub x false) }
  else takeTrap s k .poison (if idemOpen g.idempc && idemUsed g.idempc then sub + 0x80 else sub) x

/-! ## Issue -/

/-- The word keeps its slot waiting: it has not issued (R107). -/
def waitFor (s : State) (r : Reason) : State :=
  let s := s.modSlot s.cur.grp s.cur.second (fun sl => { sl with reason := r })
  { s with cur := { s.cur with held := true } }

/-- A wake event while the device is in S1–S3 starts the exit (R457). -/
def wake (s : State) : State := if s.power = 0 then s else { s with powerExit := true }

/-- The scalar word is kept back behind an ACQ, a FENCE or a BIND: it has not issued, and no reason code stands for it (R107). -/
def keepBack (s : State) : State :=
  let s := s.modSlot s.cur.grp s.cur.second (fun sl => { sl with kept := true })
  { s with cur := { s.cur with held := true } }

/-- The lane word is not offered (R107, R257, R314); or the event named is not enabled, and nothing happens (R151). -/
def notOffered (s : State) : State := { s with cur := { s.cur with held := true } }

/-- What needs the cores starts the exit from S1–S3, and comes after it (R455, R457). -/
def whenAwake (s : State) (body : Out) : Out :=
  if s.power = 0 then body else if s.powerExit then .next (notOffered s) else .next (wake s)

/-- A word of the group issues: the skid of a stopping group, the skip count, the last position (R110, R121). -/
def countIssue (s : State) : State :=
  s.modGrp s.cur.grp (fun g =>
    { g with skip := 0, skid := if g.phase = .stopping then g.skid + 1 else g.skid,
             lastpos := (s.cur.ovlid, s.cur.lxpc), lastslot := s.cur.second })

/-- A scalar word issues: its slot is ready; a word that has issued before is not folded or counted again (R119). -/
def foldWord (s : State) : State :=
  let w : Word := s.cur.word.setWidth 32
  let n := s.steps
  if s.cur.replay then s
  else if ((s.grp s.cur.grp).slot s.cur.second).issued then
    s.modSlot s.cur.grp s.cur.second (fun sl => { sl with reason := .none })
  else
    (countIssue s).modSlot s.cur.grp s.cur.second (fun sl =>
      { sl with acc := crcWord sl.acc w, reason := .none, lastIssue := n, kept := false, rej := none })

/-- As `foldWord` for SIGCHK, which is not folded (R119). -/
def issueUnfolded (s : State) : State :=
  let n := s.steps
  (countIssue s).modSlot s.cur.grp s.cur.second (fun sl => { sl with reason := .none, lastIssue := n, kept := false, rej := none })

/-- The slot goes on at an offset of its overlay. -/
def jump (s : State) (off : Nat) : State :=
  s.modSlot s.cur.grp s.cur.second (fun sl => { sl with pc := off, issued := false, waitPhase := none })

/-- The slot goes on at the next word. -/
def advance (s : State) : State :=
  if s.cur.replay then s
  else s.modSlot s.cur.grp s.cur.second (fun sl => { sl with pc := sl.pc + 1, issued := false, waitPhase := none })

/-- The issued word waits in place (R119, R176, R181): its program counter stays, its condition is evaluated again. -/
def waitIssued (s : State) (r : Reason) : State :=
  let was := ((s.grp s.cur.grp).slot s.cur.second).issued
  let s := s.modSlot s.cur.grp s.cur.second (fun sl => { sl with reason := r, issued := true })
  { s with cur := { s.cur with held := was } }

/-- A trap of the scalar word being issued; the word is not repeated (R253). -/
def trapScalar (s : State) (cls : TrapClass) (sub : Nat) (x : TrapInfo) : State :=
  takeTrap (advance s) s.cur.grp cls sub x

/-- A register of the group that a scalar word reads, by the issuing slot. -/
def rs (s : State) (r : SIndex) : SReg := readS s s.cur.grp s.cur.second r.toNat

def ws (s : State) (r : SIndex) (x : SReg) : State := writeS s s.cur.grp s.cur.second r.toNat x

/-! ## The return from a trap handler (R253, R401) -/

/-- RETT RESUME or RESTART: the team is restored from its image (R401, R403); the other groups stay halted until
the restore. -/
def returnFromTrap (s : State) (k : Nat) (restart : Bool) : State :=
  let s := s.modGrp k (fun g => { g with phase := .halted })
  s.modTeam (s.grp k).team (fun t => { t with state := .restoring, restartAll := restart })

/-- RETT ABORT: the team ends and its context takes a context fault, SUB 0x05 (R253, R401). -/
def abortFromTrap (s : State) (k : Nat) : State :=
  contextFault s (s.asidOf k) 5 (s.teamOf k).teamid (s.grp k).grpid

end Sys2Proof.Machine
end

