-- ==== Sys2Proof/Machine/Memory.lean ====
section
/-!
DEFINITION. Memory: bytes of lines and sectors with their poison (R286), HBM (R357, R366, R467), translation
(R356–R360) and page-fault reports (R362), the slices with their lines (R150, R371), the L1 of each core, and
messages with their numbers (R151, R152, R384).
-/
namespace Sys2Proof.Machine

/-! ## Lines of 128 bytes -/

def lineOf (a : Nat) : Nat := a / 128
def lineKey (asid line : Nat) : Nat := asid * 2 ^ 45 + line

def getByte (d : BitVec 1024) (i : Nat) : Byte := d.extractLsb' (8 * i) 8
def setByte (d : BitVec 1024) (i : Nat) (b : Byte) : BitVec 1024 :=
  (d &&& ~~~((0xFF : BitVec 1024) <<< (8 * i))) ||| (b.setWidth 1024 <<< (8 * i))

def sectorPoison (p : BitVec 4) (i : Nat) : Bool := p.getLsbD (i / 32)

/-- The poison bits of a line after a write of bytes at offsets (R286): a poisoned byte poisons its sector; clean
bytes clear it only where all 32 are written. -/
def mergePoison (p : BitVec 4) (bs : List (Nat × PByte)) : BitVec 4 :=
  [0, 1, 2, 3].foldl (fun p k =>
    let w := bs.filter (fun b => decide (b.1 / 32 = k))
    if w.isEmpty then p
    else if w.any (·.2.poison) then p ||| ((1 : BitVec 4) <<< k)
    else if w.length = 32 then p &&& ~~~((1 : BitVec 4) <<< k) else p) p

def mergeData (d : BitVec 1024) (bs : List (Nat × PByte)) : BitVec 1024 :=
  bs.foldl (fun d b => setByte d b.1 b.2.val) d

def byteMask (bs : List (Nat × PByte)) : BitVec 128 :=
  bs.foldl (fun m b => m ||| ((1 : BitVec 128) <<< b.1)) 0

/-- Bytes of a line picked by a mask, with the poison of their sectors. -/
def lineBytes (d : BitVec 1024) (p : BitVec 4) (m : BitVec 128) : List (Nat × PByte) :=
  ((List.range 128).filter (fun i => m.getLsbD i)).map (fun i => (i, ⟨getByte d i, sectorPoison p i⟩))

/-- n bytes at an address, by line: (line, offsets). -/
def byteAddrs (a n : Nat) : List Nat := (List.range n).map (a + ·)

def linesOf (a n : Nat) : List Nat :=
  if n = 0 then [] else (List.range (lineOf (a + n - 1) + 1 - lineOf a)).map (lineOf a + ·)

/-- Little-endian value of bytes. -/
def pvalue (bs : List PByte) : Nat := ofLe (bs.map (·.val))
def ppoison (bs : List PByte) : Bool := bs.any (·.poison)

/-- n clean bytes of a value. -/
def cleanBytes (n v : Nat) : List PByte := (leBytes n v).map (fun b => ⟨b, false⟩)

/-! ## Fatal errors (R391, R413) -/

def stopAllTeams (s : State) : State :=
  { s with groups := s.groups.map (fun p => (p.1, haltGroup p.2)) }

/-- A fatal-class error of a privileged unit: its record carries SEV DEVICE and the host link is contained. -/
def fatalError (s : State) (r : Rec) : State :=
  let s := ((s.report { r with sev := 5 }).tally 27).tellHost 2 { r with sev := 5 }
  match s.link with
  | .up => stopAllTeams { s with link := .contained }
  | _ => s

/-! ## HBM -/

def hbmLimit : Nat := 384000000000

/-- Holding controller of a physical address (R357). -/
def holdCtrl (pa : Nat) : Nat := pa / 256 % 256
def frameOf (pa : Nat) : Nat := pa / 65536

def goodFrame : Frame := ⟨false, false, 0, false⟩
def State.frame (s : State) (pfn : Nat) : Frame := AMap.get goodFrame s.frames pfn
def State.setFrame (s : State) (pfn : Nat) (f : Frame) : State := { s with frames := AMap.set goodFrame s.frames pfn f }

def hbmByte (s : State) (pa : Nat) : Byte := AMap.get 0 s.hbm pa

/-- An access to a Retired frame writes one record (R366). -/
def retiredRec (s : State) (pa : Nat) : State :=
  s.report { blankRec with kind := 4, sev := 1, cls := 0x25, unit := holdCtrl pa, phys := true, addr := pa }

/-- A queued frame's entry has its count and the controller of its last error (R367). -/
def refreshFaq (s : State) (pfn chan : Nat) : State :=
  { s with faq := s.faq.map (fun e => if e.pfn = pfn then { e with chan := chan, cecnt := min 255 (s.frame pfn).ce } else e) }

/-- An entry for the fault-address queue (R366, R367): a full queue drops it, a frame already queued is not queued again. -/
def queueFault (s : State) (pfn chan : Nat) (ue : Bool) : State :=
  let f := s.frame pfn
  if f.queued then refreshFaq s pfn chan
  else if 256 ≤ s.faq.length then s.modRegs (fun r => { r with faqOvf := true })
  else { s.setFrame pfn { f with queued := true } with faq := s.faq ++ [⟨ue, min 255 f.ce, chan, pfn⟩] }

/-- The record of an uncorrectable error in an HBM half (R407). -/
def ueRec (s : State) (pa : Nat) : Rec :=
  { blankRec with kind := 4, sev := 1, cls := 0x24, sub := 7, unit := holdCtrl pa, phys := true,
                  addr := pa / 32 * 32, data := Config.syndrome s.steps (pa / 32 * 32) }

/-- What a new uncorrectable error of an HBM half does besides its record (R467): poison code, self-test, fault queue, count. -/
def ueMarked (s : State) (pa : Nat) : State :=
  let sec := pa / 32
  let s := s.tally 16
  let lasting := AMap.get false s.hbmBad sec
  let f := s.frame (frameOf pa)
  let s := s.setFrame (frameOf pa) { f with suspect := true }
  let s := queueFault s (frameOf pa) (holdCtrl pa) true
  { s with hbmPoison := AMap.put s.hbmPoison sec true,
           hbmBad := if lasting then s.hbmBad else AMap.del s.hbmBad sec }.askTest 7 (holdCtrl pa) (frameOf pa) true

/-- A read meets a new uncorrectable error: record of class UE, ERR_NONFATAL, and the rest (R413, R467). -/
def ueDetected (s : State) (pa : Nat) : State := ueMarked ((s.report (ueRec s pa)).tellHost 1 (ueRec s pa)) pa

/-- The check bits of a half fail and do not hold the poison code. -/
def halfFails (s : State) (sec : Nat) : Bool := s.hbmBad.any (fun p => decide (p.1 = sec))

/-- The state after a read of the 32-byte half at `sec`. -/
def readHalf (s : State) (sec : Nat) : State := if halfFails s sec then ueDetected s (sec * 32) else s

/-- Whether a half reads poisoned. -/
def halfPoison (s : State) (sec : Nat) : Bool :=
  (s.frame (frameOf (sec * 32))).retired || halfFails s sec || AMap.get false s.hbmPoison sec

/-- A write of bytes of one half (R467): a full write replaces upset and poison code; a partial write reads the
half first and keeps its poison. -/
def writeHalf (s : State) (sec : Nat) (bs : List (Nat × PByte)) : State :=
  let pa := sec * 32
  let full := decide (bs.length = 32)
  let bad := bs.any (·.2.poison)
  let s := if full then s else readHalf s sec
  let was := if full then false else AMap.get false s.hbmPoison sec
  let hbm := bs.foldl (fun m b => AMap.set 0 m (pa + b.1 % 32) b.2.val) s.hbm
  let s := { s with hbm := hbm, hbmPoison := AMap.set false s.hbmPoison sec (was || bad) }
  if full then { s with hbmBad := s.hbmBad.filter (fun p => decide (p.1 ≠ sec) || p.2) } else s

/-- Address of a byte within its channel (R357). -/
def chanAddr (pa : Nat) : Nat := pa / 256 / 256 * 256 + pa % 256

def idleRows : RowGroup := ⟨0, 0, 0⟩

/-- Key of a row group: its controller, its number there. -/
def rowKey (ctrl group : Nat) : Nat := ctrl * 2 ^ 40 + group

/-- A 64-byte access activates its row (R369, R370): row 0 of a row group starts its sweep, the next row in order carries it
on. -/
def touchRow (s : State) (pa : Nat) : State :=
  let row := Config.rowOf (holdCtrl pa) (chanAddr pa)
  let k := rowKey (holdCtrl pa) (row / 64)
  let g := AMap.get idleRows s.rows k
  let g := if row % 64 = 0 then { g with stamp := s.steps + 1, sweep := 1 }
    else if row % 64 = g.sweep then { g with sweep := g.sweep + 1 } else g
  { s with rows := AMap.put s.rows k g }

/-- A 64-byte read at its controller (R366, R369, R467): its row is activated, each half's check bits are read. -/
def readEffects (s : State) (pa : Nat) : State :=
  let s := touchRow s pa
  if (s.frame (frameOf pa)).retired then retiredRec s pa else readHalf (readHalf s (pa / 32)) (pa / 32 + 1)

/-- The 64 bytes of one access as they read, with the poison of its halves. -/
def accessData (s : State) (pa : Nat) : BitVec 512 × BitVec 2 :=
  ((List.range 64).foldl (fun d i => d ||| ((hbmByte s (pa + i)).setWidth 512 <<< (8 * i))) 0,
   (if halfPoison s (pa / 32) then 1 else 0) ||| (if halfPoison s (pa / 32 + 1) then 2 else 0))

/-- The two accesses of a line, put together. -/
def joinHalves (lo hi : BitVec 512 × BitVec 2) : BitVec 1024 × BitVec 4 := (hi.1 ++ lo.1, hi.2 ++ lo.2)

/-- A line read by both its accesses. -/
def readLine (s : State) (pa : Nat) : (BitVec 1024 × BitVec 4) × State :=
  (joinHalves (accessData s pa) (accessData s (pa + 64)), readEffects (readEffects s pa) (pa + 64))

/-- A 64-byte write at its controller, of bytes at offsets of the line (R366, R369, R467). -/
def writeAccess (s : State) (pa : Nat) (bs : List (Nat × PByte)) : State :=
  if bs.isEmpty then s
  else
    let s := touchRow s pa
    if (s.frame (frameOf pa)).retired then retiredRec s pa
    else [0, 1, 2, 3].foldl (fun s k =>
      let w := bs.filter (fun b => decide (b.1 / 32 = k))
      if w.isEmpty then s else writeHalf s (pa / 128 * 4 + k) w) s

/-- The bytes of a line that lie in its first 64, or its last. -/
def halfBytes (bs : List (Nat × PByte)) (hi : Bool) : List (Nat × PByte) := bs.filter (fun b => decide (b.1 < 64) != hi)

/-- A write of bytes at offsets of the line at a physical address. -/
def writeHbmLine (s : State) (pa : Nat) (bs : List (Nat × PByte)) : State :=
  writeAccess (writeAccess s pa (halfBytes bs false)) (pa + 64) (halfBytes bs true)

/-! ## Translation (R356–R360) -/

/-- End of linear space (R283). -/
def linearEnd : Nat := 0xFFFFFF0000000

/-- A leaf translation: physical base of the page, page bytes, TGT, WRITE. -/
structure Leaf where
  base : Nat
  size : Nat
  tgt : Nat
  writable : Bool
deriving DecidableEq, Repr

/-- Fault kinds of R360; `walkError` is an uncorrectable error met in a walk (R413). -/
def notMapped : Nat := 1
def noWrite : Nat := 2
def badPte : Nat := 3
def walkError : Nat := 4

def pteAt (s : State) (table idx : Nat) : Except Nat DWord :=
  let pa := table + 8 * idx
  if halfPoison s (pa / 32) then .error walkError
  else .ok (BitVec.ofNat 64 (ofLe ((List.range 8).map (fun i => hbmByte s (pa + i)))))

def pteValid (e : DWord) : Bool := e.getLsbD 0
def pteLeaf (e : DWord) : Bool := e.getLsbD 1
def pteWrite (e : DWord) : Bool := e.getLsbD 2
def pteTgt (e : DWord) : Nat := (e.extractLsb' 3 2).toNat
def pteAddr (e : DWord) : Nat := (e.extractLsb' 12 40).toNat * 4096
def pteReserved (e : DWord) : Bool := decide (e.extractLsb' 52 12 ≠ 0) || decide (e.extractLsb' 5 7 ≠ 0)

/-- Whether a leaf entry obeys R356 for a page of the size given. -/
def leafOk (e : DWord) (size : Nat) : Bool :=
  !pteReserved e && decide (pteTgt e ≠ 3) && decide (pteAddr e % size = 0)
    && (decide (pteTgt e ≠ 0) || decide (pteAddr e + size ≤ hbmLimit))

/-- Whether an entry that points to a table obeys R356. -/
def tableOk (e : DWord) : Bool :=
  !pteReserved e && decide (pteTgt e = 0) && decide (pteAddr e + 4096 ≤ hbmLimit)

/-- The walk from a table: indices of the levels still to go, each with the page size its leaf would map (0: none
allowed) and whether only a leaf is allowed. -/
def walkFrom (s : State) (table : Nat) : List (Nat × Nat × Bool) → Except Nat Leaf
  | [] => .error badPte
  | (idx, size, last) :: more =>
    match pteAt s table idx with
    | .error k => .error k
    | .ok e =>
      if !pteValid e then .error notMapped
      else if pteLeaf e then
        if decide (size ≠ 0) && leafOk e size then .ok ⟨pteAddr e, size, pteTgt e, pteWrite e⟩ else .error badPte
      else if last || !tableOk e then .error badPte
      else walkFrom s (pteAddr e) more

/-- The five levels an address is looked up at: index, page size of a leaf there, last. -/
def levels (va : Nat) : List (Nat × Nat × Bool) :=
  [(va / 2 ^ 48 % 16, 0, false), (va / 2 ^ 39 % 512, 0, false), (va / 2 ^ 30 % 512, 0, false),
   (va / 2 ^ 21 % 512, 2 ^ 21, false), (va / 2 ^ 16 % 32, 2 ^ 16, true)]

def walk (s : State) (asid va : Nat) : Except Nat Leaf :=
  let root := (s.ctx asid).ptroot
  if hbmLimit < root + 4096 then .error badPte else walkFrom s root (levels va)

/-- The table entries a walk reads. -/
def walkReads (s : State) (table : Nat) : List (Nat × Nat × Bool) → List Nat
  | [] => []
  | (idx, _, _) :: more =>
    (table + 8 * idx) :: (match pteAt s table idx with
      | .ok e => if pteValid e && !pteLeaf e && tableOk e then walkReads s (pteAddr e) more else []
      | .error _ => [])

/-- Home controller (R358). -/
def homeCtrl (asid va : Nat) : Nat := (va / 2 ^ 21 + asid) % 256

/-- A leaf kept in a translation cache, as the entry's bits are encoded in the state's list. -/
def leafWord (l : Leaf) : DWord :=
  BitVec.ofNat 64 (l.base + (if l.writable then 4 else 0) + 8 * l.tgt)
def leafOfWord (big : Bool) (w : DWord) : Leaf :=
  ⟨w.toNat / 4096 * 4096, if big then 2 ^ 21 else 2 ^ 16, w.toNat / 8 % 4, w.getLsbD 2⟩

def pageBase (va : Nat) (big : Bool) : Nat := if big then va / 2 ^ 21 * 2 ^ 21 else va / 2 ^ 16 * 2 ^ 16

/-- A cached translation of the address at its home controller. -/
def cached (s : State) (asid va : Nat) : Option Leaf :=
  (s.tlb.find? (fun e => decide (e.1 = homeCtrl asid va) && decide (e.2.1 = asid)
      && decide (e.2.2.1 = pageBase va e.2.2.2.1))).map (fun e => leafOfWord e.2.2.2.1 e.2.2.2.2)

/-- The table entries a translation reads. -/
def walkPath (s : State) (asid va : Nat) : List Nat :=
  let root := (s.ctx asid).ptroot
  if hbmLimit < root + 4096 then [] else walkReads s root (levels va)

/-- A walk's read of a table entry is an access like any other. -/
def readEntry (s : State) (pa : Nat) : State := readEffects s (pa / 64 * 64)

/-- The translation of an address at its home controller (R358), and the state after it: a walk's reads made, a leaf found kept
in the controller's cache. What the entry that an error lies in does is `walkFatal`'s. -/
def lookup (s : State) (asid va : Nat) : State × Except Nat Leaf :=
  match cached s asid va with
  | some l => (s, .ok l)
  | none =>
    let path := walkPath s asid va
    match walk s asid va with
    | .error k =>
      (if k = walkError then path.getLast?.elim s (touchRow (path.dropLast.foldl readEntry s)) else path.foldl readEntry s, .error k)
    | .ok l =>
      let big := decide (l.size = 2 ^ 21)
      let t := path.foldl readEntry s
      ({ t with tlb := t.tlb ++ [(homeCtrl asid va, asid, pageBase va big, big, leafWord l)] }, .ok l)

/-! ## Page-fault reports (R362) -/

/-- Who a PAGE record names. -/
structure PageWho where
  teamid : Nat
  grpid : Nat
deriving DecidableEq, Repr

def nobody : PageWho := ⟨0, 0⟩

/-- The first fault on a page enters a pending entry and writes a record; a later one joins; `none` while the
controller's 16 entries are in use. -/
def reportPage (s : State) (asid va kind : Nat) (w : PageWho) : Option State :=
  let page := va / 2 ^ 16 * 2 ^ 16
  let c := homeCtrl asid va
  if s.faults.any (fun f => decide (f.asid = asid) && decide (f.page = page) && decide (f.kind = kind)) then some s
  else if 16 ≤ (s.faults.filter (fun f => decide (f.ctrl = c))).length then none
  else
    let s := s.report { blankRec with kind := 4, sev := 1, cls := 0x10, sub := kind, unit := c, asid := asid, addr := page,
                                      data := BitVec.ofNat 64 kind, teamid := w.teamid, grpid := w.grpid }
    some { s with faults := s.faults ++ [⟨c, asid, page, kind⟩] }

/-- A fault of the page is pending. -/
def pagePending (s : State) (asid va : Nat) : Bool :=
  s.faults.any (fun f => decide (f.asid = asid) && decide (f.page = va / 2 ^ 16 * 2 ^ 16))

/-- An uncorrectable error in a page-table walk is fatal (R413): one record, of the entry's half; a new error is marked and counted
as any other (R467), a half of a Retired frame has its own record first (R366). -/
def walkFatal (s : State) (asid va : Nat) : State :=
  let pa := (walkPath s asid va).getLast?.getD 0
  let r := ueRec s pa
  let s := if (s.frame (frameOf pa)).retired then retiredRec s pa else if halfFails s (pa / 32) then ueMarked s pa else s
  fatalError s r

/-! ## Replacement (R371) -/

/-- What the choice of a way looks at: key, spall, USED, insertion and last-use order. -/
structure WayInfo where
  key : Nat
  spall : Bool
  used : Bool
  stamp : Nat
  last : Nat
deriving DecidableEq, Repr

def minBy (f : WayInfo → Nat) : List WayInfo → Option WayInfo
  | [] => none
  | w :: ws =>
    match minBy f ws with
    | none => some w
    | some x => if f x < f w then some x else some w

/-- The line a new line replaces: none when the set has a free way that the rules let it take. -/
def victim (set : List WayInfo) (ways cap : Nat) (spall : Bool) : Option Nat :=
  let sp := set.filter (·.spall)
  if spall && decide (cap ≤ sp.length) then (minBy (·.stamp) sp).map (·.key)
  else if set.length < ways then none
  else
    match minBy (·.stamp) (sp.filter (·.used)) with
    | some w => some w.key
    | none => (minBy (·.last) set).map (·.key)

/-! ## Slices (R150, R384) -/

def bucketOf (asid line : Nat) : Nat :=
  ((line ^^^ line / 2 ^ 10 ^^^ line / 2 ^ 20 ^^^ line / 2 ^ 30 ^^^ asid) % 2 ^ 10)

/-- MAP(b) as a sender holds it (R384, R386): a sender that has not adopted a move in progress holds the old entry. -/
def mapOf (s : State) (sender b : Nat) : Nat :=
  match s.moves.find? (fun m => decide (m.bucket = b)) with
  | some m => if m.adopted.contains sender then m.new else m.old
  | none => AMap.get (b % 96) s.smap b

/-- Who holds the slice map that a requester uses: an engine and a copy unit use their core's (R384). -/
def mapHolder (r : Nat) : Nat := if r < 4000 then r else r % 1000

def sliceFor (s : State) (sender asid line : Nat) : Nat := mapOf s (mapHolder sender) (bucketOf asid line)

/-- The slice that performs requests of a bucket now. -/
def owner (s : State) (b : Nat) : Nat :=
  match s.moves.find? (fun m => decide (m.bucket = b)) with
  | some m => if m.handed then m.new else m.old
  | none => AMap.get (b % 96) s.smap b

def l2Line (s : State) (asid line : Nat) : Option L2Line :=
  (s.l2.find? (fun p => decide (p.1 = lineKey asid line))).map (·.2)

/-! ### Peers (R392–R394) -/

def downHinge : Hinge := ⟨.down, false, 0, 0, 0, 0, 0⟩
def State.hinge (s : State) (k : Nat) : Hinge := AMap.get downHinge s.hinges k

/-- Peer number of a physical address with TGT = 2. -/
def peerOf (pa : Nat) : Nat := pa / 2 ^ 42 % 2 ^ 10

/-- The set of an L2 line in its slice: 3 MiB of 16 ways (R1), the line number modulo the number of sets. -/
def l2Sets : Nat := 1536

def l2SetOf (s : State) (asid line : Nat) : List WayInfo :=
  let b := owner s (bucketOf asid line)
  (s.l2.filter (fun p =>
      let a := p.1 / 2 ^ 45
      let l := p.1 % 2 ^ 45
      decide (l % l2Sets = line % l2Sets) && decide (owner s (bucketOf a l) = b))).map
    (fun p => ⟨p.1, p.2.spall, p.2.used, p.2.stamp, p.2.last⟩)

/-! ### Packets (R16, R25, R375) -/

/-- Router whose memory port a channel controller attaches to (R15, R16). -/
def ctrlRouter (c : Nat) : Nat :=
  let stack := c / 32
  12 * (2 * (stack / 2) + c % 32 / 16) + (if stack % 2 = 0 then 0 else 11)

/-- Ports of the mesh: slice n, core 1000 + c, memory port 2000 + router, host port 3000, hinge link 4000 + l. -/
def memoryPort (router : Nat) : Nat := 2000 + router

/-- The port of a requester; a graph unit has its slice's, an engine and a copy unit their core's. -/
def requesterPort (r : Nat) : Nat :=
  if r < 1000 then 1000 + r
  else if r < 2000 then 4000 + (r - 1000)
  else if r < 3000 then 3000
  else if r < 4000 then r - 3000
  else 1000 + r % 1000

/-- Router of a requester. The host port and the hinge ports have no place on the mesh that the manual gives: their packets
enter and leave it at the slice's router (log 10). -/
def requesterRouter (r slice : Nat) : Nat :=
  if r < 1000 then r / 2 % 96
  else if r < 3000 then slice
  else if r < 4000 then (r - 3000) % 96
  else r % 1000 / 2 % 96

/-- Router and port that a message goes to (R15, R16, R384). -/
def destOf (m : Msg) : Nat × Nat :=
  match m.body with
  | .req _ | .walked _ _ | .half _ _ _ _ => (m.slice, m.slice)
  | .rep _ => (requesterRouter m.requester m.slice, requesterPort m.requester)
  | .line _ | .dirty _ => (ctrlRouter (homeCtrl m.asid (m.line * 128)), memoryPort (ctrlRouter (homeCtrl m.asid (m.line * 128))))
  | .access _ pa _ | .store pa _ => (ctrlRouter (holdCtrl pa), memoryPort (ctrlRouter (holdCtrl pa)))
  | .array _ c | .arrayAns _ c _ | .graphAns _ c | .offer _ c | .refusal _ c => (c / 2 % 96, 1000 + c)
  | .graph _ u => (u % 96, u)

def destRouter (m : Msg) : Nat := (destOf m).1

/-- Flits of a packet with bytes: one for a sector's, three for more of a line (R375). -/
def byteFlits (bs : List (Nat × PByte)) : Nat := if ((bs.map (fun b => b.1 / 32)).eraseDups).length ≤ 1 then 1 else 3

/-- Flits of a packet (R375). One of 64 bytes of data is in no row of the table: the header and the data fill two. -/
def flits (m : Msg) : Nat :=
  match m.body with
  | .req (.write bs) | .dirty bs | .walked _ bs | .arrayAns _ _ (.bytes bs) => byteFlits bs
  | .rep (.bytes bs) => if bs.length ≤ 32 then 1 else 3
  | .half _ _ _ _ => 2
  | .store _ bs => min 2 (byteFlits bs)
  | _ => 1

/-- The plane a source's next packet enters: the one whose injection queue at its port holds fewer flits, plane 0 when equal
(R25). -/
def planeFor (s : State) (port : Nat) : Bool :=
  let waiting (p : Bool) : Nat := ((s.fabric.filter (fun m => decide (m.inj = some port) && decide (m.plane = p))).map flits).sum
  decide (waiting true < waiting false)

/-- A message enters the injection queue of a port at a router. -/
def inject (s : State) (port router : Nat) (m : Msg) : State :=
  { s with fabric := s.fabric ++ [{ m with inj := some port, router := router, plane := planeFor s port, weep := false, suspect := false }] }

/-- A message that answers no numbered request. -/
def packet (s : State) (port router asid line : Nat) (b : MsgBody) : State :=
  { inject s port router { id := s.nextId, requester := 0, grp := 0, op := 0, asid := asid, line := line, num := 0,
                           slice := owner s (bucketOf asid line), body := b, inj := none, router := router, plane := false,
                           weep := false, suspect := false, late := false } with nextId := s.nextId + 1 }

/-- A slice's packet about a line. -/
def slicePacket (s : State) (asid line : Nat) (b : MsgBody) : State :=
  let n := owner s (bucketOf asid line)
  packet s n n asid line b

/-- Messages in the mesh or at the unit they reached. -/
def messages (s : State) : List Msg := s.fabric ++ s.arrived

/-- Dirty bytes of a line are on their way behind its slice, or on their way back to it (R151: a slice's value is L2 and HBM taken
as one). -/
def bytesAway (s : State) (asid line : Nat) : Bool :=
  (messages s).any (fun m => decide (m.asid = asid) && decide (m.line = line) && (match m.body with
    | .dirty _ | .store _ _ => true
    | .walked _ bs => !bs.isEmpty
    | _ => false))

/-- Dirty bytes of an L2 line go to the memory behind it (R150, R154), by way of the home controller (R358). -/
def backWrite (s : State) (asid line : Nat) (x : L2Line) : State :=
  let bs := lineBytes x.data x.poison x.dirty
  if bs.isEmpty then s else slicePacket s asid line (.dirty bs)

/-- Two packets are for one endpoint port. -/
def sameEnd (x m : Msg) : Bool := decide (destOf x = destOf m)

/-- The packet is at its endpoint, which takes it: what stands in the weep ejection buffer goes first (R378). -/
def ejects (s : State) (m : Msg) : Bool :=
  decide (m.router = destRouter m)
    && (m.weep || !s.fabric.any (fun x => x.weep && decide (x.router = m.router) && decide (destRouter x = m.router) && sameEnd x m))

def takeMsg (s : State) (id : Nat) : State := { s with fabric := s.fabric.filter (fun m => decide (m.id ≠ id)) }

def findMsg (l : List Msg) (id : Nat) : Option Msg := l.find? (fun m => decide (m.id = id))

/-! ### Held writes (R360) -/

def heldAt (s : State) (asid line : Nat) : List HeldWrite := s.heldWrites.filter (fun w => decide (w.asid = asid) && decide (w.line = line))

/-- A set's lines that are held, on the slice of a line: those with bytes of a faulted write. -/
def heldLines (s : State) (asid line : Nat) : List Nat :=
  let b := owner s (bucketOf asid line)
  ((s.heldWrites.filter (fun w => w.add.isNone && decide (w.line % l2Sets = line % l2Sets)
    && decide (owner s (bucketOf w.asid w.line) = b))).map (fun w => lineKey w.asid w.line)).eraseDups

/-- Every way of the line's set is held, and the line is not one of them: a miss waits in the slice's ingress queue. -/
def l2Full (s : State) (asid line : Nat) : Bool :=
  let held := heldLines s asid line
  decide (16 ≤ held.length) && !held.contains (lineKey asid line)

/-- Room for a new line at its slice: a victim's dirty bytes go to the memory behind it; a held line stays. -/
def makeL2Room (s : State) (asid line : Nat) (spall : Bool) : State :=
  let held := heldLines s asid line
  let others := held.filter (fun k => decide (k ≠ lineKey asid line))
  match victim ((l2SetOf s asid line).filter (fun w => !held.contains w.key)) (16 - others.length) 8 spall with
  | none => s
  | some k =>
    match s.l2.find? (fun p => decide (p.1 = k)) with
    | none => s
    | some p =>
      let s := backWrite s (k / 2 ^ 45) (k % 2 ^ 45) p.2
      { s with l2 := AMap.del s.l2 k }

/-- Held bytes of a line whose page allows writes are part of it. -/
def mergeHeld (s : State) (asid line : Nat) : State :=
  match l2Line s asid line with
  | none => s
  | some x =>
    let ws := (heldAt s asid line).filter (·.add.isNone)
    if ws.isEmpty || !x.writable then s
    else
      let y := ws.foldl (fun (y : L2Line) w =>
        { y with data := mergeData y.data w.bytes, poison := mergePoison y.poison w.bytes, dirty := y.dirty ||| byteMask w.bytes }) x
      { s with l2 := AMap.put s.l2 (lineKey asid line) y, heldWrites := s.heldWrites.filter (fun w => !ws.contains w) }

/-- A line comes to its slice; one that is there already stays as it is. -/
def installL2 (s : State) (asid line : Nat) (data : BitVec 1024) (poison : BitVec 4) (l : Leaf) (spall : Bool) : State :=
  if (l2Line s asid line).isSome then s else
  let s := makeL2Room s asid line spall
  let x : L2Line := { data := data, dirty := 0, poison := poison, writable := l.writable, tgt := l.tgt,
                      pa := l.base + line * 128 % l.size, spall := spall, used := false, fresh := true, stamp := s.steps,
                      last := s.steps }
  mergeHeld { s with l2 := AMap.put s.l2 (lineKey asid line) x } asid line

/-- What the home controller has found about a line that is at its slice. -/
def refreshL2 (s : State) (asid line : Nat) (l : Leaf) : State :=
  match l2Line s asid line with
  | some x =>
    let y := { x with writable := l.writable, tgt := l.tgt, pa := l.base + line * 128 % l.size }
    mergeHeld { s with l2 := AMap.put s.l2 (lineKey asid line) y } asid line
  | none => s

/-- A performed access to a line (R371): the one that brought it is no hit; any other makes it USED, and normal unless it asks
for spall. -/
def touchL2 (s : State) (asid line : Nat) (spall : Bool) : State :=
  match l2Line s asid line with
  | some x =>
    let y := if x.fresh then { x with fresh := false, last := s.steps } else { x with used := true, spall := x.spall && spall, last := s.steps }
    { s with l2 := AMap.put s.l2 (lineKey asid line) y }
  | none => s

/-! ### Peers (R393, R394) -/

/-- Up links of a peer, in ascending order. -/
def upLinks (s : State) (peer : Nat) : List Nat :=
  (List.range 18).filter (fun k => decide ((s.hinge k).state = .up) && decide ((s.hinge k).peer.toNat = peer))

/-- The links a slice uses for a peer: those it began to use while a request of its for that peer is in flight, else those that are Up. -/
def peerLinks (s : State) (slice peer : Nat) : List Nat :=
  if s.peerReqs.any (fun r => decide (r.slice = slice) && decide (peerOf r.pa = peer)) then AMap.get [] s.peerSets (slice * 1024 + peer)
  else upLinks s peer

/-- The record of a request that ended poisoned or lost (R394). -/
def hingeLoss (s : State) (link asid line : Nat) : State :=
  s.report { blankRec with kind := 7, sev := 1, cls := 0x22, sub := 1, unit := link, asid := asid, addr := line * 128 }

/-- What becomes of a slice's request for a peer: it goes out on its line's link; there is no link; its link is not Up, and it waits. -/
inductive PeerSend where
  | sent (s : State)
  | lost
  | wait

def sendPeer (s : State) (r : PeerReq) : PeerSend :=
  let n := owner s (bucketOf r.asid r.line)
  let ls := peerLinks s n (peerOf r.pa)
  match ls[r.line % ls.length]? with
  | none => .lost
  | some k =>
    if (s.hinge k).state ≠ .up then .wait
    else .sent { s with
      hostOut := s.hostOut ++ [.peerReq k r.pa r.body],
      peerReqs := s.peerReqs ++ [{ r with id := s.nextId, slice := n, link := k }],
      peerSets := AMap.put s.peerSets (n * 1024 + peerOf r.pa) ls,
      nextId := s.nextId + 1 }

/-- Outcome of bringing a line to its slice. -/
inductive Ensured where
  | here (s : State)
  | fault (kind : Nat) (s : State)
  | away (s : State)

/-- A unit waits for a line to be at its slice. -/
def demand (s : State) (asid line : Nat) : State :=
  { s with demands := if s.demands.contains (asid, line) then s.demands else s.demands ++ [(asid, line)] }

/-- A line at its slice, for a unit that has no requests of its own there: already there and, for a write, in a page that allows
it; or asked for (`away`), unless its page faults. -/
def ensureLine (s : State) (asid line : Nat) (write : Bool) : Ensured :=
  let ask (s : State) : Ensured :=
    match lookup s asid (line * 128) with
    | (s, .error k) => .fault k s
    | (s, .ok l) =>
      if write && !l.writable then .fault noWrite s
      else if (l2Line s asid line).isSome then .here (refreshL2 s asid line l) else .away (demand s asid line)
  match l2Line s asid line with
  | some x => if write && !x.writable then ask s else .here s
  | none => ask s

/-- Outcome of an access a unit of the device makes at the slices. -/
inductive Access (α : Type) where
  | ok (x : α) (s : State)
  | fault (kind va : Nat) (s : State)
  | away (s : State)

/-- All the lines at their slices; those away are all asked for. -/
def ensureLines (s : State) (asid : Nat) (write : Bool) : List Nat → Access Unit
  | [] => .ok () s
  | l :: ls =>
    match ensureLine s asid l write with
    | .here s => ensureLines s asid write ls
    | .fault k s => .fault k (l * 128) s
    | .away s =>
      match ensureLines s asid write ls with
      | .ok _ s => .away s
      | r => r

/-- Byte o of a line at its slice; a byte of a held write is the newer one. -/
def byteOf (held : List HeldWrite) (x : Option L2Line) (o : Nat) : PByte :=
  match held.reverse.findSome? (fun w => (w.bytes.find? (fun b => decide (b.1 = o))).map (·.2)) with
  | some b => b
  | none =>
    match x with
    | some x => ⟨getByte x.data o, sectorPoison x.poison o⟩
    | none => ⟨0, false⟩

/-- One byte of a line that is at its slice. -/
def l2Byte (s : State) (asid a : Nat) : PByte := byteOf (heldAt s asid (lineOf a)) (l2Line s asid (lineOf a)) (a % 128)

/-- Bytes of a range that lie in a line: the offset of the first, and how many. -/
def inLine (a n line : Nat) : Nat × Nat :=
  let lo := max a (line * 128)
  (lo % 128, min (a + n) (line * 128 + 128) - lo)

/-- Bytes of a range, each of a line that is at its slice. -/
def l2Bytes (s : State) (asid a n : Nat) : List PByte :=
  (linesOf a n).flatMap (fun l =>
    let held := heldAt s asid l
    let x := l2Line s asid l
    (byteAddrs (inLine a n l).1 (inLine a n l).2).map (byteOf held x))

/-- A read of n bytes, each at its slice. -/
def peekSp (s : State) (asid a n : Nat) (spall : Bool) : Access (List PByte) :=
  let ls := linesOf a n
  match ensureLines s asid false ls with
  | .ok _ s => .ok (l2Bytes s asid a n) (ls.foldl (fun s l => touchL2 s asid l spall) s)
  | .fault k va s => .fault k va s
  | .away s => .away s

def peek (s : State) (asid a n : Nat) : Access (List PByte) := peekSp s asid a n false

/-- Bytes written into a line that is at its slice. -/
def l2Write (s : State) (asid line : Nat) (bs : List (Nat × PByte)) : State :=
  let s := mergeHeld s asid line
  match l2Line s asid line with
  | none => s
  | some x =>
    let y := { x with data := mergeData x.data bs, poison := mergePoison x.poison bs, dirty := x.dirty ||| byteMask bs,
                      last := s.steps }
    { s with l2 := AMap.put s.l2 (lineKey asid line) y }

/-- A sector of a line at its slice is clean. -/
def l2Clean (s : State) (asid line sector : Nat) : State :=
  match l2Line s asid line with
  | none => s
  | some x => { s with l2 := AMap.put s.l2 (lineKey asid line) { x with poison := x.poison &&& ~~~((1 : BitVec 4) <<< sector) } }

/-- Addressed bytes grouped by line, as offsets in it. -/
def bytesIn (line : Nat) (bs : List (Nat × PByte)) : List (Nat × PByte) :=
  (bs.filter (fun b => decide (lineOf b.1 = line))).map (fun b => (b.1 % 128, b.2))

def linesTouched (bs : List (Nat × PByte)) : List Nat := (bs.map (fun b => lineOf b.1)).eraseDups

/-- A write of addressed bytes, each at its slice. -/
def pokeBytes (s : State) (asid : Nat) (bs : List (Nat × PByte)) : Access Unit :=
  let ls := linesTouched bs
  match ensureLines s asid true ls with
  | .fault k va s => .fault k va s
  | .away s => .away s
  | .ok _ s => .ok () (ls.foldl (fun s l => l2Write (touchL2 s asid l false) asid l (bytesIn l bs)) s)

def poke (s : State) (asid a : Nat) (bs : List PByte) : Access Unit :=
  pokeBytes s asid ((List.range bs.length).zip bs |>.map (fun p => (a + p.1, p.2)))

/-! ## Messages (R150–R152) -/

def numKey (requester asid line : Nat) : Nat := requester * 2 ^ 60 + lineKey asid line

/-- Send a numbered request into the fabric; its identifier is the state's next one before the call. -/
def sendReq (s : State) (requester grp op asid line : Nat) (b : ReqBody) : State :=
  let k := numKey requester asid line
  let n := AMap.get 0 s.sendNum k
  let slice := sliceFor s requester asid line
  let router := requesterRouter requester slice
  let m : Msg := { id := s.nextId, requester := requester, grp := grp, op := op, asid := asid, line := line, num := n,
                   slice := slice, body := .req b, inj := none, router := router, plane := false,
                   weep := false, suspect := false, late := false }
  { inject s (requesterPort requester) router m with sendNum := AMap.put s.sendNum k (n + 1), nextId := s.nextId + 1 }

/-- The reply to a request goes back into the fabric (R151). -/
def sendReply (s : State) (m : Msg) (r : RepBody) : State :=
  inject s m.slice m.slice { m with body := .rep r, late := m.weep }

/-- Groups resident on a core. -/
def groupsOn (s : State) (c : Nat) : List Nat :=
  (s.groups.filter (fun p => decide ((s.team p.2.team).core = c) && decide (p.2.phase ≠ .absent)
    && decide (p.2.phase ≠ .saved))).map (·.1)

/-! ### Miss-status and store FIFO entries (R287, R288) -/

/-- The group may issue: it runs or is in its skid (R121), its team is not being pre-empted (R123), and in Handler it
is the primary group (R402). -/
def mayIssue (s : State) (k : Nat) : Bool :=
  let g := s.grp k
  let t := s.team g.team
  let phase := decide (g.phase = .running) || (decide (g.phase = .stopping) && decide (g.skid < 24) && g.restart.isNone)
  match t.state with
  | .running | .halting => phase && !t.preempt
  | .handler => phase && decide (t.primgrp = some g.grpid)
  | _ => false

/-- Requests of a group that use a miss-status entry: a release uses none. -/
def usesEntry (b : ReqBody) : Bool := match b with | .rel _ _ _ => false | _ => true

/-- Miss-status entries in use on a core: sectors and requests of its groups, and what its copy unit has under way (R287). -/
def mshrUsed (s : State) (c : Nat) : Nat :=
  ((groupsOn s c).map (fun k => ((s.grp k).fetches.filter (fun f => usesEntry f.body)).length)).sum
    + (s.remotes.filter (fun r => decide (r.requester = c) && (match r.body with | .rel _ _ => false | _ => true))).length
    + (s.unitReqs.filter (fun r => decide (r.who = 5000 + c) && r.answer.isNone)).length

/-- Line entries of a group's store FIFO in use: stores not drained, and records that a CSAVE has still to store (R287, R353). -/
def fifoUsed (s : State) (k : Nat) : Nat :=
  (s.grp k).fifo.length
    + ((s.greqs.filterMap (fun r =>
        match r.kind with
        | .saveCur a => if r.grp = k && decide (a < linearEnd) then some (r.op, lineOf a) else none
        | _ => none)).eraseDups).length

/-- Aged words of a group that may issue: those rejected 16 times (R288). -/
def agedWords (s : State) (k : Nat) : List Rejected :=
  let g := s.grp k
  if mayIssue s k then ([g.slot0.rej, g.slot1.rej, g.laneRej].filterMap id).filter (fun r => decide (16 ≤ r.count)) else []

/-- The rejections of the word being offered. -/
def rejections (s : State) : Option Rejected :=
  let g := s.grp s.cur.grp
  if s.cur.widx = 0xFFFF then (g.slot s.cur.second).rej else g.laneRej

/-- An aged word that one with these rejections leaves what is free to: any, or, for an aged word, one that became so earlier. -/
def Rejected.before (r : Rejected) (mine : Option Rejected) : Bool :=
  match mine with
  | some m => decide (m.count < 16) || decide (r.stamp < m.stamp)
  | none => true

/-- What aged words of some groups wait for ahead of one with these rejections. -/
def agedNeed (s : State) (ks : List Nat) (mine : Option Rejected) (n : Rejected → Nat) : Nat :=
  (((ks.flatMap (agedWords s)).filter (·.before mine)).map n).sum

/-- Miss-status entries of a core that aged words leave to one with these rejections. -/
def entriesLeft (s : State) (c : Nat) (mine : Option Rejected) : Nat := 1024 - mshrUsed s c - agedNeed s (groupsOn s c) mine (·.need)

/-- Miss-status entries of a core that the word being offered may take. -/
def mshrFree (s : State) (c : Nat) : Nat := entriesLeft s c (rejections s)

/-- Entries of a group's store FIFO that the word being offered may take. -/
def fifoFree (s : State) (k : Nat) : Nat := 192 - fifoUsed s k - agedNeed s [k] (rejections s) (·.fifo)

/-- A rejected word (R287): its rejection is counted, and the sixteenth makes it aged; a scalar slot waits with RETRY, a lane word is
not offered. -/
def reject (s : State) (need fifo : Nat) : State :=
  let old := (rejections s).getD ⟨0, 0, 0, 0⟩
  let r : Rejected := ⟨old.count + 1, need, fifo, if old.count = 15 then s.nextId else old.stamp⟩
  let s := if old.count = 15 then s.bump else s
  if s.cur.widx = 0xFFFF then waitFor (s.modSlot s.cur.grp s.cur.second (fun sl => { sl with rej := some r })) .retry
  else notOffered (s.modGrp s.cur.grp (fun g => { g with laneRej := some r }))

/-! ### Accesses of units (R151, R152, R164) -/

/-- A unit that takes a step: its number as a requester, what the step is of, a part of it, the group it works for. -/
structure Asker where
  who : Nat
  key : Nat
  part : Nat
  grp : Nat

def Asker.made (u : Asker) (asid line : Nat) (b : ReqBody) (r : UnitReq) : Bool :=
  decide (r.who = u.who) && decide (r.key = u.key) && decide (r.part = u.part) && decide (r.asid = asid) && decide (r.line = line)
    && decide (r.body = b)

/-- The answer to an access of a unit's step, which is sent when it has not been. One that a page's fault has answered waits for the
page, or is sent again when the page is pending no more (R362). The copy unit takes a miss-status entry for each, and waits for one
(R287). -/
def unitAsk (s : State) (u : Asker) (asid line : Nat) (b : ReqBody) : Access RepBody :=
  match s.unitReqs.find? (u.made asid line b) with
  | none =>
    if u.who / 1000 = 5 && decide (entriesLeft s (u.who - 5000) none = 0) then .away s
    else
      let r : UnitReq := { who := u.who, key := u.key, part := u.part, grp := u.grp, msg := s.nextId, asid := asid, line := line, body := b,
                           answer := none }
      .away { sendReq s u.who u.grp u.key asid line b with unitReqs := s.unitReqs ++ [r] }
  | some r =>
    match r.answer with
    | none => .away s
    | some (.faulted kind _ _) =>
      let t := { s with unitReqs := s.unitReqs.filter (fun x => decide (x.msg ≠ r.msg)) }
      if u.who < 3000 || pagePending s asid (line * 128) then .fault kind (line * 128) t else .away t
    | some a => .ok a s

/-- Several accesses, all of them sent at once. -/
def unitAsks (s : State) (u : Asker) (asid : Nat) : List (Nat × ReqBody) → Access (List RepBody)
  | [] => .ok [] s
  | (line, b) :: rest =>
    match unitAsk s u asid line b with
    | .fault k va s => .fault k va s
    | .ok a s =>
      (match unitAsks s u asid rest with
       | .ok as s => .ok (a :: as) s
       | r => r)
    | .away s =>
      match unitAsks s u asid rest with
      | .ok _ s => .away s
      | r => r

def RepBody.data : RepBody → List PByte
  | .bytes bs => bs
  | _ => []

/-- A unit's read of n bytes, each at its slice. -/
def unitPeek (s : State) (u : Asker) (asid a n : Nat) (spall : Bool) : Access (List PByte) :=
  match unitAsks s u asid ((linesOf a n).map (fun l => (l, .read (inLine a n l).1 (inLine a n l).2 spall))) with
  | .ok as s => .ok (as.flatMap (·.data)) s
  | .fault k va s => .fault k va s
  | .away s => .away s

/-- A unit's write of addressed bytes, each at its slice. -/
def unitPokeBytes (s : State) (u : Asker) (asid : Nat) (bs : List (Nat × PByte)) : Access Unit :=
  match unitAsks s u asid ((linesTouched bs).map (fun l => (l, .write (bytesIn l bs)))) with
  | .ok _ s => .ok () s
  | .fault k va s => .fault k va s
  | .away s => .away s

def unitPoke (s : State) (u : Asker) (asid a : Nat) (bs : List PByte) : Access Unit :=
  unitPokeBytes s u asid ((List.range bs.length).zip bs |>.map (fun p => (a + p.1, p.2)))

/-- A unit's write of one granule, at its slice (R172). -/
def unitGranule (s : State) (u : Asker) (asid line : Nat) (bs : List (Nat × PByte)) (clears : Bool) : Access Unit :=
  match unitAsk s u asid line (.granule bs clears) with
  | .ok _ s => .ok () s
  | .fault k va s => .fault k va s
  | .away s => .away s

/-- Whether the pages of lines let a unit write them: a write of no byte. -/
def unitWritable (s : State) (u : Asker) (asid : Nat) (lines : List Nat) : Access Unit :=
  match unitAsks s u asid (lines.map (fun l => (l, .write []))) with
  | .ok _ s => .ok () s
  | .fault k va s => .fault k va s
  | .away s => .away s

/-- A unit's read-modify-write of a word at its slice: the old value, poisoned or not. -/
def unitWord (s : State) (u : Asker) (asid a : Nat) (b : ReqBody) : Access SReg :=
  match unitAsk s u asid (lineOf a) b with
  | .ok (.value v p _) s => .ok ⟨v, p⟩ s
  | .ok _ s => .ok ⟨0, false⟩ s
  | .fault k va s => .fault k va s
  | .away s => .away s

/-- What the step of a key has asked for is used up, or given up. -/
def unitDone (s : State) (key : Nat) : State := { s with unitReqs := s.unitReqs.filter (fun r => decide (r.key ≠ key)) }

def unitPartDone (s : State) (key part : Nat) : State :=
  { s with unitReqs := s.unitReqs.filter (fun r => !(decide (r.key = key) && decide (r.part = part))) }

/-- A step that has been taken has used its answers; one that has not keeps them. -/
def unitStep (key : Nat) (o : Out) : Out :=
  match o with
  | .next t => .next (if t.cur.held then t else unitDone t key)
  | o => o

/-- Write-backs of a line from a core that no slice has performed (R151, R158). -/
def writesInFlight (s : State) (c asid line : Nat) : Bool :=
  (messages s).any (fun m =>
    decide (m.requester = c) && decide (m.asid = asid) && decide (m.line = line)
      && (match m.body with | .req (.write _) => true | _ => false))

/-! ## L1 (R150, R151) -/

def l1Line (s : State) (c asid line : Nat) : Option L1Line :=
  ((s.core c).l1.find? (fun p => decide (p.1 = lineKey asid line))).map (·.2)

def setL1 (s : State) (c asid line : Nat) (x : L1Line) : State :=
  s.modCore c (fun k => { k with l1 := AMap.put k.l1 (lineKey asid line) x })

def dropL1 (s : State) (c asid line : Nat) : State :=
  s.modCore c (fun k => { k with l1 := AMap.del k.l1 (lineKey asid line) })

/-- Bytes of a line the core writes back now are newer than the replies its fetches of the line await (R153). -/
def newerThan (s : State) (c asid line : Nat) (bs : List (Nat × PByte)) : State :=
  let bs := bs.map (fun b => (line * 128 + b.1, b.2))
  (groupsOn s c).foldl (fun s k =>
    if s.asidOf k ≠ asid then s
    else s.modGrp k (fun g =>
      { g with fetches := g.fetches.map (fun f => if f.line = line && f.sent.isSome then { f with newer := f.newer ++ bs } else f) })) s

/-- WriteBack (R151): a numbered message with the dirty bytes; they become valid-clean. -/
def sendWriteBack (s : State) (c asid line : Nat) : State :=
  match l1Line s c asid line with
  | none => s
  | some x =>
    if x.dirty = 0 || x.wb then s
    else
      let bs := lineBytes x.data x.poison x.dirty
      setL1 (sendReq (newerThan s c asid line bs) c 0 0 asid line (.write bs)) c asid line { x with dirty := 0, wb := true }

/-- Lines of a set of the core's L1: 128 sets of 20 − W ways (R24, R372). -/
def l1SetOf (s : State) (c line : Nat) : List WayInfo :=
  ((s.core c).l1.filter (fun p => decide (p.1 % 2 ^ 45 % 128 = line % 128))).map
    (fun p => ⟨p.1, p.2.spall, p.2.used, p.2.stamp, p.2.last⟩)

/-- The line that a new line of the core's L1 replaces (R371). -/
def l1Victim (s : State) (c line : Nat) (spall : Bool) : Option Nat :=
  let ways := 20 - (s.core c).split
  victim (l1SetOf s c line) ways (ways / 2) spall

/-- A line is there, or can be allocated: a victim with dirty bytes first waits for its write-back in flight (R150). -/
def l1Room (s : State) (c asid line : Nat) (spall : Bool) : Bool :=
  (l1Line s c asid line).isSome
    || (match l1Victim s c line spall with
      | none => true
      | some k =>
        match l1Line s c (k / 2 ^ 45) (k % 2 ^ 45) with
        | some x => decide (x.dirty = 0) || !x.wb
        | none => true)

/-- Room for a new line in the core's L1: the victim of R371 is written back if dirty, and dropped. -/
def makeL1Room (s : State) (c line : Nat) (spall : Bool) : State :=
  match l1Victim s c line spall with
  | none => s
  | some k => dropL1 (sendWriteBack s c (k / 2 ^ 45) (k % 2 ^ 45)) c (k / 2 ^ 45) (k % 2 ^ 45)

/-- The lowest way of a line's set that holds no line. -/
def freeWay (s : State) (c line : Nat) : Nat :=
  let held := ((s.core c).l1.filter (fun p => decide (p.1 % 2 ^ 45 % 128 = line % 128))).map (fun p => p.2.way)
  ((List.range 20).find? (fun w => !held.contains w)).getD 0

/-- The L1 line for a write or a fill: present, a store's hit (R371) or a fill's line; or newly allocated with no byte valid. -/
def allocL1 (s : State) (c asid line : Nat) (spall hit : Bool) : State × L1Line :=
  match l1Line s c asid line with
  | some x => (s, if hit then { x with spall := x.spall && spall, used := true, last := s.steps } else x)
  | none =>
    let s := makeL1Room s c line spall
    (s, { emptyLine with spall := spall, stamp := s.steps, last := s.steps, wb := writesInFlight s c asid line, way := freeWay s c line })

/-- A drained entry is written into L1: its bytes become valid-dirty (R151 Drain). -/
def l1Store (s : State) (c asid line : Nat) (bs : List (Nat × PByte)) (spall : Bool) : State :=
  let (s, x) := allocL1 s c asid line spall true
  let m := byteMask bs
  setL1 s c asid line { x with data := mergeData x.data bs, poison := mergePoison x.poison bs, valid := x.valid ||| m,
                               dirty := x.dirty ||| m }

/-- A fill installs the bytes of a sector that are not dirty in L1 as valid-clean (R151 Fill), but for those the core has written
back since the request was sent (R153). -/
def l1Fill (s : State) (c asid line sector : Nat) (bs : List PByte) (spall : Bool) (newer : List (Nat × PByte)) : State :=
  let (s, x) := allocL1 s c asid line spall false
  let put := ((List.range 32).zip bs).filterMap (fun p =>
    let i := 32 * sector + p.1
    if x.dirty.getLsbD i || newer.any (fun b => decide (b.1 = line * 128 + i)) then none else some (i, p.2))
  let p := if bs.any (·.poison) then x.poison ||| ((1 : BitVec 4) <<< sector)
    else if put.length = 32 then x.poison &&& ~~~((1 : BitVec 4) <<< sector) else x.poison
  setL1 s c asid line { x with data := mergeData x.data put, poison := p, valid := x.valid ||| byteMask put }

/-- A byte valid in L1. -/
def l1Byte (s : State) (c asid a : Nat) : Option PByte :=
  match l1Line s c asid (lineOf a) with
  | some x => if x.valid.getLsbD (a % 128) then some ⟨getByte x.data (a % 128), sectorPoison x.poison (a % 128)⟩ else none
  | none => none

def l1Dirty (s : State) (c asid a : Nat) : Bool :=
  match l1Line s c asid (lineOf a) with
  | some x => x.dirty.getLsbD (a % 128)
  | none => false

/-- Bytes of a mask that are valid and clean leave the line; a line with no valid byte leaves L1. -/
def dropClean (s : State) (c asid line : Nat) : State :=
  match l1Line s c asid line with
  | none => s
  | some x =>
    if x.dirty = 0 then dropL1 s c asid line else setL1 s c asid line { x with valid := x.valid &&& x.dirty }

/-- Fills in flight to the core for sectors of a line are marked stale (R151, R159, R168). -/
def staleFills (s : State) (c asid line : Nat) (sector : Option Nat) : State :=
  (groupsOn s c).foldl (fun s k =>
    if s.asidOf k ≠ asid then s
    else s.modGrp k (fun g =>
      { g with fetches := g.fetches.map (fun f =>
          match f.body with
          | .fetch sec _ =>
            if f.line = line && (sector.isNone || sector = some sec) && f.sent.isSome then { f with stale := true } else f
          | _ => f) })) s

/-- A memory in its canonical form (log 2): addresses strictly rising, no byte listed that reads as an unlisted one does. -/
def Memory.wf (m : AMap Byte) : Bool := AMap.wf 0 m

/-- A core's own memories in that form: scratch and accumulator tiles, each with its poison bits. -/
def Core.memWf (c : Core) : Bool :=
  Memory.wf c.scratch && AMap.wf false c.scratchPoison && AMap.wf 0 c.tiles && AMap.wf false c.tilePoison

/-- Every memory of the module is in its canonical form: HBM with its poison codes, and each core's memories. -/
def State.memWf (s : State) : Bool :=
  Memory.wf s.hbm && AMap.wf false s.hbmPoison && s.cores.all (fun p => p.2.memWf)

end Sys2Proof.Machine
end

