-- ==== Sys2Proof/Machine/Hazard.lean ====
section
/-!
DEFINITION. Fetching the words of an overlay from the instruction store (R34, R206), what queued lane words read
and write, and the holds of R31, R159, R163, R232, R257 and R301 that keep a word from issuing.
-/
namespace Sys2Proof.Machine

/-! ## Fetch -/

/-- A byte of a store slot's frames: the image's, and beyond it a free value (log 9). -/
def storeByte (x : StoreSlot) (slot off : Nat) : Byte :=
  match x.image[off]? with
  | some b => b
  | none => Config.frameByte slot off

def storeBytes (s : State) (c slot off n : Nat) : List Byte :=
  let x := (s.core c).storeSlot slot
  (List.range n).map (fun i => storeByte x slot (off + i))

/-- The scalar word at an offset of the overlay in a store slot. -/
def scalarAt (s : State) (c slot pc : Nat) : Word := BitVec.ofNat 32 (ofLe (storeBytes s c slot (4 * pc) 4))

/-- The lane word of an index of the lane section. -/
def laneAt (s : State) (c slot idx : Nat) : Lanes :=
  BitVec.ofNat 96 (ofLe (storeBytes s c slot (((s.core c).storeSlot slot).laneoff + 12 * idx) 12))

/-- The one or two operations of a lane instruction. -/
def laneParts (i : Instr) : List (LaneOp × LaneFields) :=
  match i with
  | .pairedLaneWord u l => [(u.op, halfFields u), (l.op, halfFields l)]
  | _ => (laneOf i).toList

/-- The operations of the words of a block that have not issued. -/
def blockParts (s : State) (c : Nat) (b : LaneBlock) : List (LaneOp × LaneFields) :=
  (List.range (b.count - b.next)).flatMap (fun i =>
    match decodeLane (laneAt s c b.islot (b.off + b.next + i)) with
    | .ok w => laneParts w
    | .error _ => [])

/-- The operations of every lane word in the group's queue. -/
def queuedParts (s : State) (k : Nat) : List (LaneOp × LaneFields) :=
  (s.grp k).laneq.flatMap (blockParts s (s.coreOf k))

/-- Those that come before a slot's next word in its program order (R147). -/
def queuedBefore (s : State) (k : Nat) (second : Bool) : List (LaneOp × LaneFields) :=
  ((s.grp k).laneq.filter (fun b => ((s.grp k).slot second).prior.contains b.id)).flatMap (blockParts s (s.coreOf k))

/-! ## What lane words touch besides registers -/

/-- The counter a lane operation raises (R173). -/
def laneClass (op : LaneOp) : Option CtrClass :=
  match op with
  | .vld | .vlds | .vatom | .vrld | .xshfl | .qpop | .wld | .wadv | .vptld | .actLd | .actSwap => some .ld
  | .vst | .vsts | .vrst | .qpush => some .st
  | .vcp | .vcpc | .cpy => some .cp
  | .tld | .tst => some .tl
  | .gdeg | .gdegIn | .gnbr | .gnbrIn | .gattr | .gattrIn | .gadd | .gdel | .gdelIn | .copen | .copenLive | .cnext
  | .cclose | .csave | .crest => some .gr
  | .tmmaE4m3 | .tmmaE5m2 | .tmmaI8 | .tmmaBf16 | .tmmaF16 | .tmmaE2m1 | .tmmaT16 | .tmmaT32 | .tmmaT64 | .tzero | .tres
  | .encTc | .embG | .embR | .gbulk => some .en
  | _ => none

/-- The operation sets bits of FPST (R47). -/
def laneSetsFp (op : LaneOp) : Bool :=
  match op with
  | .vfma | .vfms | .vfadd | .vfsub | .vfmul | .vfdiv | .vfsqrt | .vfmin | .vfmax | .vfrcp | .vfrsq | .vfexp2 | .vflog2
  | .vfsin | .vfcos | .vcvt | .actEval | .vredf | .vfcmpEq | .vfcmpLt | .vfcmpLe | .vfcmpUn => true
  | _ => false

/-- The operation sets bits of SATF (R48, R56). -/
def laneSetsSat (op : LaneOp) (f : LaneFields) : Bool :=
  f.sat || (decide (op = .vshrr) && f.xmod.getLsbD 0)

/-! ## Scalar holds (R31, R232) -/

/-- What a scalar word shares with lane words: registers read and written, predicates read, FPST, SATF, counters. -/
structure Needs where
  rd : List Nat := []
  wr : List Nat := []
  preds : List Nat := []
  fp : Bool := false
  sat : Bool := false
  ctr : List CtrClass := []

def meets (a b : List Nat) : Bool := a.any (fun x => decide (x ≠ 0) && b.contains x)

def partHolds (n : Needs) (p : LaneOp × LaneFields) : Bool :=
  meets (laneSWrites p.1 p.2) (n.rd ++ n.wr) || meets (laneSReads p.1 p.2) n.wr
    || (lanePWrites p.1 p.2).any (fun q => n.preds.contains q)
    || (n.fp && laneSetsFp p.1) || (n.sat && laneSetsSat p.1 p.2)
    || (match laneClass p.1 with | some c => n.ctr.contains c | none => false)

/-- The scalar word waits with HAZARD: a register whose result is not written (R232), a lane word still queued or
whose result is not written (R31). -/
def scalarHazard (s : State) (k : Nat) (n : Needs) : Bool :=
  let g := s.grp k
  g.sbusy.any (fun b => decide (b.reg ≠ 0) && (n.rd ++ n.wr).contains b.reg.toNat)
    || g.lbusy.any (fun b => meets b.sregs (n.rd ++ n.wr) || b.preds.any (fun q => n.preds.contains q))
    || (queuedParts s k).any (partHolds n)

/-- HAZARD, or PAGEFAULT where a parked word holds the register or class (R361). -/
def hazardReason (g : Group) (n : Needs) : Reason :=
  let held (o : OutOp) : Bool := o.parked
    && (g.sbusy.any (fun b => decide (b.op = o.id) && (n.rd ++ n.wr).contains b.reg.toNat) || n.ctr.contains o.cls)
  if g.ops.any held then .pagefault else .hazard

/-- Every class. -/
def allClasses : List CtrClass := [.ld, .st, .cp, .tl, .gr, .en]

/-! ## Holds of memory words -/

/-- Operations named in a slot's hold lists that have not reached their end. -/
def Group.anyPending (g : Group) (ids : List Nat) : Bool := ids.any g.pending

/-- A scalar load, store, atomic, copy or maintenance word of a slot is held behind an ACQ (R159) or, but for copies,
behind a FENCE (R163). -/
def memoryHeld (g : Group) (second : Bool) (fenced : Bool) : Bool :=
  let sl := g.slot second
  g.anyPending sl.acqHold || (fenced && g.anyPending sl.fenceHold)

/-- A lane word of a block is held behind the ACQ and, but for copies and engine commands, the FENCE that came before
its LX (R147, R159, R163). -/
def laneHeld (g : Group) (blk : Nat) (fenced : Bool) : Bool :=
  match g.laneq.find? (fun b => decide (b.id = blk)) with
  | some b => g.anyPending b.acqHold || (fenced && g.anyPending b.fenceHold)
  | none => false

/-- An ACQ or REL of a slot is held behind its BIND and UNBIND (R301). -/
def bindHeld (g : Group) (second : Bool) : Bool := g.anyPending (g.slot second).bindHold

/-! ## Lane holds (R257, R315) -/

/-- Registers a queued or running engine command or a TST of the group has still to read (R315). -/
def engineReads (g : Group) : List Nat :=
  (g.engq.filter (fun c => !c.finished)).flatMap (fun c =>
      match decodeLane c.word with
      | .ok i => (laneParts i).flatMap (fun p => laneVReads p.1 p.2)
      | .error _ => [])
    ++ (g.moves.filter (fun m => !m.load)).flatMap (fun m => (List.range 32).map (m.reg + ·))

/-- Registers that VRDI reads through its index, in each lane: the index register itself is among those it waits for (R257, R269). -/
def indexedReads (g : Group) (p : LaneOp × LaneFields) : List Nat :=
  if p.1 = .vrdi then ((List.range 96).map (fun l => p.2.va.toNat + (g.velt p.2.vb.toNat l).val.toNat)).eraseDups else []

/-- Predicates, registers and windows of an operation have received earlier results (R257); scalar registers it
names have been written (R31). VWRI counts as writing every register. -/
def partBusy (g : Group) (p : LaneOp × LaneFields) : Bool :=
  let v := laneVReads p.1 p.2 ++ laneVWrites p.1 p.2 ++ indexedReads g p
  let q := lanePReads p.1 p.2 ++ lanePWrites p.1 p.2
  let w := laneWindows p.1 p.2
  let r := laneSReads p.1 p.2 ++ laneSWrites p.1 p.2
  let all := decide (p.1 = .vwri)
  g.lbusy.any (fun b =>
      v.any (fun x => b.vregs.contains x || b.vregs.contains 512) || (all && !b.vregs.isEmpty)
        || q.any (fun x => b.preds.contains x) || w.any (fun x => b.windows.contains x) || meets r b.sregs)
    || g.sbusy.any (fun b => r.contains b.reg.toNat && decide (b.reg ≠ 0))
    || (if all then !(engineReads g).isEmpty else (laneVWrites p.1 p.2).any (fun x => (engineReads g).contains x))

def laneBusy (g : Group) (ps : List (LaneOp × LaneFields)) : Bool := ps.any (partBusy g)

/-! ## The issue of a scalar word -/

/-- The checks and holds every scalar word meets when it is offered: ILLOP first, unfolded and without effect (R222,
R255); then HAZARD; then the word's own body. -/
def issueScalar (i : Instr) (n : Needs) (s : State) (body : State → Out) : Out :=
  match scalarCheck i with
  | some e =>
    .next (trapScalar (countIssue s) .illop (illopCode e) { issueInfo s with data := s.cur.word.setWidth 64 &&& 0xFFFFFFFF })
  | none =>
    if !s.cur.replay && scalarHazard s s.cur.grp n then .next (waitFor s (hazardReason (s.grp s.cur.grp) n)) else body s

/-- A poisoned control or argument operand of a scalar word (R231): folded, signalled, without other effect. A
restarting group resumes at its region; a trapped word is not repeated. -/
def poisonScalar (s : State) (sub : Nat) : Out :=
  let s := foldWord s
  .next (signalPoison (advance s) s.cur.grp sub (issueInfo s))

/-- A trap of a scalar word that has issued: folded, then trapped (R119). -/
def trapIssued (s : State) (cls : TrapClass) (sub : Nat) (x : TrapInfo) : Out :=
  .next (trapScalar (foldWord s) cls sub x)

/-- The result of a scalar word is written, and the slot goes on (R231). `busy` keeps the register until its
latency has passed (R232). -/
def writeResult (s : State) (d : SIndex) (x : SReg) (busy : Option Bool) : State :=
  let s := ws (foldWord s) d x
  let s := match busy with
    | none => s
    | some dv => if d = 0 && !dv then s
                 else s.modGrp s.cur.grp (fun g => { g with sbusy := g.sbusy ++ [⟨d, 0, dv⟩] })
  advance s

end Sys2Proof.Machine
end

