-- ==== Sys2Proof/Machine/Alu.lean ====
section
/-!
DEFINITION. The scalar integer words (R233–R236): register–register, immediate, constants, compare and select.
-/
namespace Sys2Proof.Machine

/-! ## Results (R233) -/

def shamt (x : DWord) : Nat := (x.extractLsb' 0 6).toNat

def mulHigh (x y : DWord) : DWord := BitVec.ofInt 64 (x.toInt * y.toInt / 2 ^ 64)
def mulHighU (x y : DWord) : DWord := BitVec.ofNat 64 (x.toNat * y.toNat / 2 ^ 64)

/-- DIV: by 0 gives −1; the quotient is rounded toward zero; −2^63 ÷ −1 wraps to −2^63. -/
def divS (x y : DWord) : DWord := if y = 0 then BitVec.ofInt 64 (-1) else BitVec.ofInt 64 (x.toInt.tdiv y.toInt)
def divU (x y : DWord) : DWord := if y = 0 then BitVec.ofInt 64 (-1) else BitVec.ofNat 64 (x.toNat / y.toNat)

/-- REM: by 0 gives sa; the sign follows sa; −2^63 rem −1 is 0. -/
def remS (x y : DWord) : DWord := if y = 0 then x else BitVec.ofInt 64 (x.toInt.tmod y.toInt)
def remU (x y : DWord) : DWord := if y = 0 then x else BitVec.ofNat 64 (x.toNat % y.toNat)

def minS (x y : DWord) : DWord := if x.toInt ≤ y.toInt then x else y
def maxS (x y : DWord) : DWord := if x.toInt ≤ y.toInt then y else x
def minU (x y : DWord) : DWord := if x.toNat ≤ y.toNat then x else y
def maxU (x y : DWord) : DWord := if x.toNat ≤ y.toNat then y else x

/-- Leading zero bits of a value of n bits. -/
def clzFrom (x : DWord) : Nat → Nat
  | 0 => 0
  | n + 1 => if x.getLsbD n then 0 else 1 + clzFrom x n

def popcTo (x : DWord) : Nat → Nat
  | 0 => 0
  | n + 1 => (if x.getLsbD n then 1 else 0) + popcTo x n

def addW (x y : DWord) : DWord := (x.setWidth 32 + y.setWidth 32).signExtend 64
def subW (x y : DWord) : DWord := (x.setWidth 32 - y.setWidth 32).signExtend 64

def flag64 (b : Bool) : DWord := if b then 1 else 0

/-! ## Shapes -/

/-- A register–register word: result f(sa, sb), poisoned with either. -/
def aluRR (i : Instr) (d a b : SIndex) (busy : Option Bool) (f : DWord → DWord → DWord) (s : State) : Out :=
  issueScalar i { rd := [a.toNat, b.toNat], wr := [d.toNat] } s fun s =>
    let x := rs s a
    let y := rs s b
    .next (writeResult s d ⟨f x.val y.val, x.poison || y.poison⟩ busy)

/-- A word of one register and an immediate. -/
def aluRI (i : Instr) (d a : SIndex) (busy : Option Bool) (f : DWord → DWord) (s : State) : Out :=
  issueScalar i { rd := [a.toNat], wr := [d.toNat] } s fun s =>
    let x := rs s a
    .next (writeResult s d ⟨f x.val, x.poison⟩ busy)

/-- A division is in progress in the scalar unit of the group's partition (R232). -/
def dividerBusy (s : State) (k : Nat) : Bool :=
  let c := s.coreOf k
  let p := (s.grp k).partition
  s.groups.any (fun x => decide ((s.team x.2.team).core = c) && decide (x.2.partition = p) && x.2.sbusy.any (·.div))

/-- DIV, DIVU, REM, REMU: one division at a time, the others wait with HAZARD (R232). -/
def divide (i : Instr) (d a b : SIndex) (f : DWord → DWord → DWord) (s : State) : Out :=
  issueScalar i { rd := [a.toNat, b.toNat], wr := [d.toNat] } s fun s =>
    if dividerBusy s s.cur.grp then .next (waitFor s .hazard)
    else
      let x := rs s a
      let y := rs s b
      .next (writeResult s d ⟨f x.val y.val, x.poison || y.poison⟩ (some true))

/-- CMOV (R236): a false condition writes sd with its own value and poison; a poisoned condition poisons. -/
def select (i : Instr) (d a b : SIndex) (take : DWord → Bool) (s : State) : Out :=
  issueScalar i { rd := [a.toNat, b.toNat, d.toNat], wr := [d.toNat] } s fun s =>
    let y := rs s b
    let x := if take y.val then rs s a else rs s d
    .next (writeResult s d ⟨x.val, x.poison || y.poison⟩ none)

/-! ## The words -/

def execAdd (d a b : SIndex) (s : State) : Out := aluRR (.add d a b) d a b none (· + ·) s
def execSub (d a b : SIndex) (s : State) : Out := aluRR (.sub d a b) d a b none (· - ·) s
def execAnd (d a b : SIndex) (s : State) : Out := aluRR (.and d a b) d a b none (· &&& ·) s
def execOr (d a b : SIndex) (s : State) : Out := aluRR (.or d a b) d a b none (· ||| ·) s
def execXor (d a b : SIndex) (s : State) : Out := aluRR (.xor d a b) d a b none (· ^^^ ·) s
def execAndn (d a b : SIndex) (s : State) : Out := aluRR (.andn d a b) d a b none (fun x y => x &&& ~~~y) s
def execSll (d a b : SIndex) (s : State) : Out := aluRR (.sll d a b) d a b none (fun x y => x <<< shamt y) s
def execSrl (d a b : SIndex) (s : State) : Out := aluRR (.srl d a b) d a b none (fun x y => x >>> shamt y) s
def execSra (d a b : SIndex) (s : State) : Out := aluRR (.sra d a b) d a b none (fun x y => x.sshiftRight (shamt y)) s
def execMul (d a b : SIndex) (s : State) : Out := aluRR (.mul d a b) d a b (some false) (· * ·) s
def execMulh (d a b : SIndex) (s : State) : Out := aluRR (.mulh d a b) d a b (some false) mulHigh s
def execMulhu (d a b : SIndex) (s : State) : Out := aluRR (.mulhu d a b) d a b (some false) mulHighU s
def execDiv (d a b : SIndex) (s : State) : Out := divide (.div d a b) d a b divS s
def execDivu (d a b : SIndex) (s : State) : Out := divide (.divu d a b) d a b divU s
def execRem (d a b : SIndex) (s : State) : Out := divide (.rem d a b) d a b remS s
def execRemu (d a b : SIndex) (s : State) : Out := divide (.remu d a b) d a b remU s
def execMin (d a b : SIndex) (s : State) : Out := aluRR (.min d a b) d a b none minS s
def execMax (d a b : SIndex) (s : State) : Out := aluRR (.max d a b) d a b none maxS s
def execMinu (d a b : SIndex) (s : State) : Out := aluRR (.minu d a b) d a b none minU s
def execMaxu (d a b : SIndex) (s : State) : Out := aluRR (.maxu d a b) d a b none maxU s
def execClz (d a : SIndex) (s : State) : Out := aluRI (.clz d a) d a none (fun x => BitVec.ofNat 64 (clzFrom x 64)) s
def execPopc (d a : SIndex) (s : State) : Out := aluRI (.popc d a) d a none (fun x => BitVec.ofNat 64 (popcTo x 64)) s
def execAddw (d a b : SIndex) (s : State) : Out := aluRR (.addw d a b) d a b none addW s
def execSubw (d a b : SIndex) (s : State) : Out := aluRR (.subw d a b) d a b none subW s

/-! R236 -/

def execSeq (d a b : SIndex) (s : State) : Out := aluRR (.seq d a b) d a b none (fun x y => flag64 (decide (x = y))) s
def execSne (d a b : SIndex) (s : State) : Out := aluRR (.sne d a b) d a b none (fun x y => flag64 (decide (x ≠ y))) s
def execSlt (d a b : SIndex) (s : State) : Out := aluRR (.slt d a b) d a b none (fun x y => flag64 (decide (x.toInt < y.toInt))) s
def execSltu (d a b : SIndex) (s : State) : Out := aluRR (.sltu d a b) d a b none (fun x y => flag64 (decide (x.toNat < y.toNat))) s
def execSle (d a b : SIndex) (s : State) : Out := aluRR (.sle d a b) d a b none (fun x y => flag64 (decide (x.toInt ≤ y.toInt))) s
def execSleu (d a b : SIndex) (s : State) : Out := aluRR (.sleu d a b) d a b none (fun x y => flag64 (decide (x.toNat ≤ y.toNat))) s
def execCmovNz (d a b : SIndex) (s : State) : Out := select (.cmovNz d a b) d a b (fun y => decide (y ≠ 0)) s
def execCmovZ (d a b : SIndex) (s : State) : Out := select (.cmovZ d a b) d a b (fun y => decide (y = 0)) s

/-! R234 -/

def execAddi (d a : SIndex) (i : BitVec 14) (s : State) : Out := aluRI (.addi d a i) d a none (fun x => x + i.signExtend 64) s
def execAndi (d a : SIndex) (i : BitVec 14) (s : State) : Out := aluRI (.andi d a i) d a none (fun x => x &&& i.setWidth 64) s
def execOri (d a : SIndex) (i : BitVec 14) (s : State) : Out := aluRI (.ori d a i) d a none (fun x => x ||| i.setWidth 64) s
def execXori (d a : SIndex) (i : BitVec 14) (s : State) : Out := aluRI (.xori d a i) d a none (fun x => x ^^^ i.setWidth 64) s
def execSlli (d a : SIndex) (i : BitVec 14) (s : State) : Out := aluRI (.slli d a i) d a none (fun x => x <<< i.toNat) s
def execSrli (d a : SIndex) (i : BitVec 14) (s : State) : Out := aluRI (.srli d a i) d a none (fun x => x >>> i.toNat) s
def execSrai (d a : SIndex) (i : BitVec 14) (s : State) : Out := aluRI (.srai d a i) d a none (fun x => x.sshiftRight i.toNat) s
def execSlti (d a : SIndex) (i : BitVec 14) (s : State) : Out := aluRI (.slti d a i) d a none (fun x => flag64 (decide (x.toInt < i.toInt))) s
def execSltiu (d a : SIndex) (i : BitVec 14) (s : State) : Out := aluRI (.sltiu d a i) d a none (fun x => flag64 (decide (x.toNat < (i.signExtend 64).toNat))) s
def execMuli (d a : SIndex) (i : BitVec 14) (s : State) : Out := aluRI (.muli d a i) d a (some false) (fun x => x * i.signExtend 64) s

/-! R235 -/

def execLi (d : SIndex) (i : BitVec 20) (s : State) : Out :=
  issueScalar (.li d i) { wr := [d.toNat] } s fun s => .next (writeResult s d ⟨i.signExtend 64, false⟩ none)

/-- LUI reads its own destination: sd × 2^20 or the immediate. -/
def execLui (d : SIndex) (i : BitVec 20) (s : State) : Out :=
  aluRI (.lui d i) d d none (fun x => (x <<< 20) ||| i.setWidth 64) s

end Sys2Proof.Machine
end

