-- ==== Sys2Proof/Machine/Flags.lean ====
section
/-!
DEFINITION. FPST (R47) and SATF (R48): the flags an operation raises, and how they are gathered.
-/
namespace Sys2Proof.Machine

/-- Flags as bits of FPST (R47): IV 4, DZ 3, OF 2, UF 1, NX 0. -/
abbrev FpFlags := BitVec 5

def flagIV : FpFlags := 16
def flagDZ : FpFlags := 8
def flagOF : FpFlags := 4
def flagUF : FpFlags := 2
def flagNX : FpFlags := 1

def flagIf (b : Bool) (f : FpFlags) : FpFlags := if b then f else 0

/-- Sticky bits of FPST. -/
def Group.raiseFp (g : Group) (f : FpFlags) : Group := { g with fpst := g.fpst ||| f }

/-- Sticky bits of SATF in lanes (R48). -/
def Group.raiseSat (g : Group) (lanes : Lanes) : Group := { g with satf := g.satf ||| lanes }

end Sys2Proof.Machine
end

