-- ==== Sys2Proof/Machine/Fp.lean ====
section
/-!
DEFINITION. Floating-point formats (R38–R41), rounding (R44, R45), NaN (R49–R51), arithmetic (R46, R266),
conversions (R52–R55) and special functions (R267). Codes are natural numbers; every result is the exact value rounded
once.
-/
namespace Sys2Proof.Machine

/-! ## Formats (R38) -/

/-- How a format treats overflow and special codes: infinities and NaNs at the top exponent (IEEE), or those of E4M3,
E2M1, E3M5. -/
inductive Top where
  | ieee | e4m3 | e2m1 | e3m5
deriving DecidableEq, Repr

structure Fmt where
  eb : Nat
  fb : Nat
  bias : Nat
  top : Top
deriving DecidableEq, Repr

def fp32 : Fmt := ⟨8, 23, 127, .ieee⟩
def fp16 : Fmt := ⟨5, 10, 15, .ieee⟩
def bf16 : Fmt := ⟨8, 7, 127, .ieee⟩
def e5m2 : Fmt := ⟨5, 2, 15, .ieee⟩
def e4m3 : Fmt := ⟨4, 3, 7, .e4m3⟩
def e2m1 : Fmt := ⟨2, 1, 1, .e2m1⟩
def e3m5 : Fmt := ⟨3, 5, 3, .e3m5⟩

def Fmt.width (f : Fmt) : Nat := if f.top = .e3m5 then 8 else 1 + f.eb + f.fb
def Fmt.frac (f : Fmt) (x : Nat) : Nat := x % 2 ^ f.fb
def Fmt.exp (f : Fmt) (x : Nat) : Nat := x / 2 ^ f.fb % 2 ^ f.eb
def Fmt.sign (f : Fmt) (x : Nat) : Bool := if f.top = .e3m5 then false else decide (x / 2 ^ (f.eb + f.fb) % 2 = 1)
def Fmt.allOnes (f : Fmt) : Nat := 2 ^ f.eb - 1
def Fmt.signBit (f : Fmt) (s : Bool) : Nat := if s && decide (f.top ≠ .e3m5) then 2 ^ (f.eb + f.fb) else 0
def Fmt.quietBit (f : Fmt) : Nat := 2 ^ (f.fb - 1)

def isNan (f : Fmt) (x : Nat) : Bool :=
  match f.top with
  | .ieee => decide (f.exp x = f.allOnes) && decide (f.frac x ≠ 0)
  | .e4m3 => decide (f.exp x = 15) && decide (f.frac x = 7)
  | _ => false

/-- E4M3 has no signalling NaN (R39). -/
def isSnan (f : Fmt) (x : Nat) : Bool :=
  decide (f.top = .ieee) && isNan f x && decide (f.frac x < f.quietBit)

def isInf (f : Fmt) (x : Nat) : Bool := decide (f.top = .ieee) && decide (f.exp x = f.allOnes) && decide (f.frac x = 0)
def isZero (f : Fmt) (x : Nat) : Bool := decide (f.exp x = 0) && decide (f.frac x = 0)

def inf (f : Fmt) (s : Bool) : Nat := f.signBit s + f.allOnes * 2 ^ f.fb

/-- R49. -/
def canonNan (f : Fmt) : Nat :=
  match f.top with
  | .ieee => f.allOnes * 2 ^ f.fb + f.quietBit
  | _ => 0x7F

/-- The largest finite code of a sign. -/
def maxFinite (f : Fmt) (s : Bool) : Nat :=
  f.signBit s + (match f.top with
    | .ieee => f.allOnes * 2 ^ f.fb - 1
    | .e4m3 => 0x7E
    | .e2m1 => 7
    | .e3m5 => 0xFE)

/-- NaN x with its quiet bit set. -/
def quiet (f : Fmt) (x : Nat) : Nat :=
  if f.top = .ieee && decide (f.frac x < f.quietBit) then x + f.quietBit else x

/-- A finite value: (−1)^neg × m × 2^e. -/
structure Dy where
  neg : Bool
  m : Nat
  e : Int
deriving DecidableEq, Repr

/-- The value of a finite code; the reserved scale code 0xFF reads as 31.0 (R41). -/
def finite (f : Fmt) (x : Nat) : Dy :=
  let x := if f.top = .e3m5 && decide (x = 0xFF) then 0xFE else x
  let b := f.exp x
  let e0 : Int := 1 - (f.bias : Int) - f.fb
  if b = 0 then ⟨f.sign x, f.frac x, e0⟩ else ⟨f.sign x, 2 ^ f.fb + f.frac x, e0 + (b : Int) - 1⟩

/-! ## Rounding (R44, R45) -/

/-- Rounding-mode codes. -/
def rne : Nat := 0
def rz : Nat := 1
def ru : Nat := 2
def rd : Nat := 3

/-- m × 2^e, and a positive part below 2^e when `sticky`, in units of 2^q: the units taken and whether it is inexact. -/
def roundUnits (rm : Nat) (neg : Bool) (m : Nat) (e : Int) (sticky : Bool) (q : Int) : Nat × Bool :=
  if q ≤ e then (m * 2 ^ (e - q).toNat, sticky)
  else
    let sh := (q - e).toNat
    let u := m / 2 ^ sh
    let r := m % 2 ^ sh
    let half := 2 ^ (sh - 1)
    let inexact := sticky || decide (r ≠ 0)
    let above := decide (half < r) || (decide (r = half) && sticky)
    let tie := decide (r = half) && !sticky
    let up := match rm with
      | 0 => above || (tie && decide (u % 2 = 1))
      | 1 => false
      | 2 => inexact && !neg
      | _ => inexact && neg
    (if up then u + 1 else u, inexact)

/-- R52 and IEEE overflow by RM; E4M3, E2M1 and E3M5 saturate under every RM. -/
def overflowCode (f : Fmt) (rm : Nat) (neg : Bool) : Nat :=
  match f.top with
  | .ieee =>
    (match rm with
     | 0 => inf f neg
     | 1 => maxFinite f neg
     | 2 => if neg then maxFinite f neg else inf f neg
     | _ => if neg then inf f neg else maxFinite f neg)
  | _ => maxFinite f neg

/-- The magnitude of a code above the largest finite one. -/
def overLimit (f : Fmt) (code : Nat) : Bool :=
  match f.top with
  | .ieee => decide (f.allOnes * 2 ^ f.fb ≤ code)
  | .e4m3 => decide (0x7E < code)
  | .e2m1 => decide (7 < code)
  | .e3m5 => decide (0xFE < code)

/-- round(x, fmt, rm) (R68): the exact value (−1)^neg × (m + sticky) × 2^e rounded once, and its flags. -/
def roundTo (f : Fmt) (rm : Nat) (neg : Bool) (m : Nat) (e : Int) (sticky : Bool) : Nat × FpFlags :=
  if m = 0 && !sticky then (f.signBit neg, 0)
  else
    let top := (m.log2 : Int) + e
    let emin : Int := 1 - (f.bias : Int)
    let qu := top - f.fb
    let q := max qu (emin - f.fb)
    let (u, inexact) := roundUnits rm neg m e sticky q
    let (uu, _) := roundUnits rm neg m e sticky qu
    let tiny := decide ((uu.log2 : Int) + qu < emin)
    let lg := u.log2
    let mag : Nat :=
      if u < 2 ^ f.fb then u
      else
        let b := (lg : Int) + q + f.bias
        b.toNat * 2 ^ f.fb + (u / 2 ^ (lg - f.fb) - 2 ^ f.fb)
    let big := overLimit f mag || (decide (f.top = .e3m5) && decide ((31 : Int) * 2 ^ (-e).toNat < m * 2 ^ e.toNat))
    if big then (overflowCode f rm neg, flagOF ||| flagNX)
    else (f.signBit neg + mag, flagIf inexact flagNX ||| flagIf (tiny && inexact) flagUF)

/-- A signed exact integer multiple of 2^e rounded once; an exact zero takes the sign of R46. -/
def roundInt (f : Fmt) (rm : Nat) (v : Int) (e : Int) : Nat × FpFlags :=
  if v = 0 then (f.signBit (decide (rm = 3)), 0) else roundTo f rm (decide (v < 0)) v.natAbs e false

/-! ## Arithmetic (R46, R49–R51, R266) -/

def Dy.int (d : Dy) (e : Int) : Int := (if d.neg then -1 else 1) * ((d.m * 2 ^ (d.e - e).toNat : Nat) : Int)

/-- R50: the first NaN operand, quieted; IV for a signalling one. -/
def nan2 (f : Fmt) (a b : Nat) : Option (Nat × FpFlags) :=
  if isNan f a then some (quiet f a, flagIf (isSnan f a || isSnan f b) flagIV)
  else if isNan f b then some (quiet f b, flagIf (isSnan f b) flagIV)
  else none

def nan1 (f : Fmt) (a : Nat) : Option (Nat × FpFlags) :=
  if isNan f a then some (quiet f a, flagIf (isSnan f a) flagIV) else none

def invalid (f : Fmt) : Nat × FpFlags := (canonNan f, flagIV)

def negate (f : Fmt) (x : Nat) : Nat := if f.sign x then x - f.signBit true else x + f.signBit true

def fpAdd (f : Fmt) (rm a b : Nat) : Nat × FpFlags :=
  match nan2 f a b with
  | some r => r
  | none =>
    if isInf f a then (if isInf f b && f.sign a != f.sign b then invalid f else (a, 0))
    else if isInf f b then (b, 0)
    else if isZero f a && isZero f b && f.sign a == f.sign b then (a, 0)
    else
      let x := finite f a
      let y := finite f b
      let e := min x.e y.e
      roundInt f rm (x.int e + y.int e) e

/-- a − b; a NaN b is returned as it is (R50). -/
def fpSub (f : Fmt) (rm a b : Nat) : Nat × FpFlags := if isNan f b then fpAdd f rm a b else fpAdd f rm a (negate f b)

def fpMul (f : Fmt) (rm a b : Nat) : Nat × FpFlags :=
  match nan2 f a b with
  | some r => r
  | none =>
    let s := f.sign a != f.sign b
    if isInf f a || isInf f b then (if isZero f a || isZero f b then invalid f else (inf f s, 0))
    else
      let x := finite f a
      let y := finite f b
      roundTo f rm s (x.m * y.m) (x.e + y.e) false

/-- R51. -/
def fpFma (f : Fmt) (rm a b c : Nat) : Nat × FpFlags :=
  let iv := flagIf (isSnan f a || isSnan f b || isSnan f c) flagIV
  if isNan f a then (quiet f a, iv)
  else if isNan f b then (quiet f b, iv)
  else if (isZero f a && isInf f b) || (isInf f a && isZero f b) then
    (if isNan f c then (quiet f c, iv) else invalid f)
  else if isNan f c then (quiet f c, iv)
  else
    let s := f.sign a != f.sign b
    if isInf f a || isInf f b then (if isInf f c && f.sign c != s then invalid f else (inf f s, 0))
    else if isInf f c then (c, 0)
    else
      let x := finite f a
      let y := finite f b
      let z := finite f c
      let p : Dy := ⟨s, x.m * y.m, x.e + y.e⟩
      let e := min p.e z.e
      if p.m = 0 && z.m = 0 && p.neg == z.neg then (f.signBit s, 0) else roundInt f rm (p.int e + z.int e) e

/-- A quotient with 200 bits below the leading one, and whether it is inexact. -/
def quotient (f : Fmt) (rm : Nat) (neg : Bool) (x y : Dy) : Nat × FpFlags :=
  let sh := 300 + y.m.log2
  let n := x.m * 2 ^ sh
  roundTo f rm neg (n / y.m) (x.e - y.e - sh) (decide (n % y.m ≠ 0))

def fpDiv (f : Fmt) (rm a b : Nat) : Nat × FpFlags :=
  match nan2 f a b with
  | some r => r
  | none =>
    let s := f.sign a != f.sign b
    if isInf f a then (if isInf f b then invalid f else (inf f s, 0))
    else if isInf f b then (f.signBit s, 0)
    else if isZero f b then (if isZero f a then invalid f else (inf f s, flagDZ))
    else quotient f rm s (finite f a) (finite f b)

/-- The integer square root, one result bit at a time from bit n − 1 down. -/
def isqrtFrom (x : Nat) : Nat → Nat → Nat
  | 0, r => r
  | n + 1, r => let t := r + 2 ^ n; isqrtFrom x n (if t * t ≤ x then t else r)

def isqrt (x : Nat) : Nat := isqrtFrom x (x.log2 / 2 + 1) 0

def fpSqrt (f : Fmt) (rm a : Nat) : Nat × FpFlags :=
  match nan1 f a with
  | some r => r
  | none =>
    if isZero f a then (a, 0)
    else if f.sign a then invalid f
    else if isInf f a then (a, 0)
    else
      let x := finite f a
      let odd := decide (x.e % 2 ≠ 0)
      let m := (if odd then 2 * x.m else x.m) * 2 ^ 200
      let e := (if odd then x.e - 1 else x.e) / 2 - 100
      let r := isqrt m
      roundTo f rm false r e (decide (r * r ≠ m))

/-- Whether a value is below another, both finite or infinite, −0 below +0. -/
def fpBelow (f : Fmt) (a b : Nat) : Bool :=
  let key (x : Nat) : Int :=
    let v : Int := ((x % 2 ^ (f.eb + f.fb) : Nat) : Int)
    if f.sign x then -v - 1 else v
  decide (key a < key b)

/-- IEEE 754-2019 minimumNumber and maximumNumber (R266). -/
def fpMinMax (f : Fmt) (mx : Bool) (a b : Nat) : Nat × FpFlags :=
  let iv := flagIf (isSnan f a || isSnan f b) flagIV
  if isNan f a then (if isNan f b then (canonNan f, iv) else (b, iv))
  else if isNan f b then (a, iv)
  else (if fpBelow f a b != mx then a else b, iv)

/-- Comparisons of R263: less, equal, unordered. −0 equals +0. -/
def fpLt (f : Fmt) (a b : Nat) : Bool :=
  !(isZero f a && isZero f b) && fpBelow f a b
def fpEq (f : Fmt) (a b : Nat) : Bool := decide (a = b) || (isZero f a && isZero f b)

/-! ## Conversions (R52–R55) -/

/-- Widening to FP32: exact, without a flag. -/
def widen (f : Fmt) (x : Nat) : Nat :=
  if f = fp32 then x
  else if isNan f x then
    fp32.signBit (f.sign x) + 0xFF * 2 ^ 23 + ((2 ^ 22) ||| (f.frac x * 2 ^ (22 - f.fb)))
  else if isInf f x then inf fp32 (f.sign x)
  else
    let d := finite f x
    (roundTo fp32 0 d.neg d.m d.e false).1

/-- Narrowing from FP32 (R52, R54). -/
def narrow (f : Fmt) (rm x : Nat) : Nat × FpFlags :=
  let s := fp32.sign x
  if isNan fp32 x then
    match f.top with
    | .ieee =>
      let n := x / 2 ^ (22 - f.fb) % 2 ^ f.fb
      (f.signBit s + f.allOnes * 2 ^ f.fb + (if n = 0 then f.quietBit else n), flagIf (isSnan fp32 x) flagIV)
    | .e4m3 => (f.signBit s + 0x7F, flagIf (isSnan fp32 x) flagIV)
    | _ => (0, flagIV)
  else if f.top = .e3m5 && s && !isZero fp32 x then (0, flagIV)
  else if isInf fp32 x then
    match f.top with
    | .ieee => (inf f s, 0)
    | .e4m3 => (f.signBit s + 0x7F, flagIV)
    | .e2m1 => (maxFinite f s, flagIV)
    | .e3m5 => (0xFE, flagOF ||| flagNX)
  else
    let d := finite fp32 x
    roundTo f rm d.neg d.m d.e false

/-- Float to float (R52, R268): narrow(widen(x)); equal formats move the code. -/
def fpConvert (src dst : Fmt) (rm x : Nat) : Nat × FpFlags :=
  if src = dst then (x, 0) else if dst = fp32 then (widen src x, 0) else narrow dst rm (widen src x)

/-- Float to an integer of n bits (R55). -/
def fpToInt (f : Fmt) (n rm x : Nat) : Int × FpFlags :=
  let hi : Int := 2 ^ (n - 1) - 1
  let lo : Int := -(2 ^ (n - 1))
  if isNan f x then (0, flagIV)
  else if isInf f x then (if f.sign x then lo else hi, flagIV)
  else
    let d := finite f x
    let (u, inexact) := roundUnits rm d.neg d.m d.e false 0
    let v : Int := if d.neg then -(u : Int) else u
    if hi < v then (hi, flagIV) else if v < lo then (lo, flagIV) else (v, flagIf inexact flagNX)

/-- An integer to float (R55); zero is +0, and E3M5 takes a negative value as R54. -/
def intToFp (f : Fmt) (rm : Nat) (v : Int) : Nat × FpFlags :=
  if f.top = .e3m5 && decide (v < 0) then (0, flagIV) else roundTo f rm (decide (v < 0)) v.natAbs 0 false

/-! ## Special functions (R267): interval bounds in units of 2^−640 -/

def workBits : Nat := 640
def workOne : Nat := 2 ^ workBits

/-- More than the error of any sum below, in units of 2^−640 (log 21). -/
def workErr : Nat := 2 ^ 40

/-- Σ over n terms of ± t / (2i + 1), t multiplied by num / den from term to term. -/
def oddSeries (num den : Nat) (alt : Bool) : Nat → Nat → Int → Nat → Int
  | 0, _, acc, _ => acc
  | n + 1, t, acc, i =>
    let v : Int := ((t / (2 * i + 1) : Nat) : Int)
    oddSeries num den alt n (t * num / den) (if alt && decide (i % 2 = 1) then acc - v else acc + v) (i + 1)

/-- arctan(1/k) and artanh(p/q). -/
def arctanInv (k : Nat) : Int := oddSeries 1 (k * k) true 700 (workOne / k) 0 0
def artanhFrac (p q : Nat) : Int := oddSeries (p * p) (q * q) false 420 (workOne * p / q) 0 0

/-- π = 16 arctan(1/5) − 4 arctan(1/239). -/
def workPi : Nat := (16 * arctanInv 5 - 4 * arctanInv 239).toNat

/-- ln 2 = 2 artanh(1/3). -/
def workLn2 : Nat := (2 * artanhFrac 1 3).toNat

/-- sin y for 0 ≤ y ≤ π/2 by its series: n more terms, the current term t, y² in units. -/
def sinSeries (y2 : Nat) : Nat → Nat → Int → Nat → Int
  | 0, _, acc, _ => acc
  | n + 1, t, acc, i =>
    let acc := if i % 2 = 0 then acc + t else acc - t
    sinSeries y2 n (t * y2 / workOne / ((2 * i + 2) * (2 * i + 3))) acc (i + 1)

/-- sin(π t) for a dyadic t = m × 2^−k in [0, 1/2]. -/
def workSinPi (m k : Nat) : Nat :=
  let y := workPi * m / 2 ^ k
  (sinSeries (y * y / workOne) 120 y 0 0).toNat

/-- e^y for 0 ≤ y < 1. -/
def expSeries (y : Nat) : Nat → Nat → Nat → Nat → Nat
  | 0, _, acc, _ => acc
  | n + 1, t, acc, i => expSeries y n (t * y / workOne / (i + 1)) (acc + t) (i + 1)

/-- 2^f for a dyadic f = m × 2^−k in [0, 1). -/
def workExp2 (m k : Nat) : Nat := expSeries (workLn2 * m / 2 ^ k) 180 workOne 0 0

/-- log2 of m × 2^−(log2 m), in [1, 2): 2 artanh((x − 1)/(x + 1)) ÷ ln 2. -/
def workLog2 (m : Nat) : Nat :=
  let one := 2 ^ m.log2
  (2 * artanhFrac (m - one) (m + one)).toNat * workOne / workLn2

/-- A value known within `workErr`, scaled by 2^e, rounded: the two bounds agree, or the case is left open (log 21). -/
def roundBounds (f : Fmt) (rm fn x : Nat) (neg : Bool) (v : Nat) (e : Int) : Nat × FpFlags :=
  let a := roundTo f rm neg (v - workErr) (e - workBits) true
  let b := roundTo f rm neg (v + workErr) (e - workBits) true
  if a = b then a else (Config.hardCase fn x rm, flagNX)

def fpRcp (f : Fmt) (rm a : Nat) : Nat × FpFlags :=
  match nan1 f a with
  | some r => r
  | none =>
    if isZero f a then (inf f (f.sign a), flagDZ)
    else if isInf f a then (f.signBit (f.sign a), 0)
    else quotient f rm (f.sign a) ⟨false, 1, 0⟩ (finite f a)

/-- 1 ÷ √x. -/
def fpRsq (f : Fmt) (rm a : Nat) : Nat × FpFlags :=
  match nan1 f a with
  | some r => r
  | none =>
    if isZero f a then (inf f (f.sign a), flagDZ)
    else if f.sign a then invalid f
    else if isInf f a then (0, 0)
    else
      let x := finite f a
      let odd := decide (x.e % 2 ≠ 0)
      let m := if odd then 2 * x.m else x.m
      let e := (if odd then x.e - 1 else x.e) / 2
      let n := 2 ^ 600
      let r := isqrt (n / m)
      roundTo f rm false r (-300 - e) (decide (r * r * m ≠ n))

/-- 2^x. -/
def fpExp2 (f : Fmt) (rm a : Nat) : Nat × FpFlags :=
  match nan1 f a with
  | some r => r
  | none =>
    if isInf f a then (if f.sign a then (0, 0) else (a, 0))
    else
      let x := finite f a
      if x.m = 0 then roundTo f rm false 1 0 false
      else if 0 ≤ x.e || decide ((12 : Int) ≤ (x.m.log2 : Int) + x.e) then
        let n : Int := if decide ((12 : Int) ≤ (x.m.log2 : Int) + x.e) then 4096 else (x.m * 2 ^ x.e.toNat : Nat)
        let exact := decide ((x.m.log2 : Int) + x.e < 12)
        roundTo f rm false (2 ^ 400) ((if x.neg then -n else n) - 400) (!exact)
      else
        let k := (-x.e).toNat
        let v : Int := if x.neg then -(x.m : Int) else x.m
        let n : Int := v / 2 ^ k
        let m := (v % 2 ^ k).toNat
        if m = 0 then roundTo f rm false 1 n false else roundBounds f rm 2 a false (workExp2 m k) n

/-- log2 x. -/
def fpLog2 (f : Fmt) (rm a : Nat) : Nat × FpFlags :=
  match nan1 f a with
  | some r => r
  | none =>
    if isZero f a then (inf f true, flagDZ)
    else if f.sign a then invalid f
    else if isInf f a then (a, 0)
    else
      let x := finite f a
      let n : Int := (x.m.log2 : Int) + x.e
      if x.m = 2 ^ x.m.log2 then (if n = 0 then (0, 0) else roundTo f rm (decide (n < 0)) n.natAbs 0 false)
      else
        let v : Int := n * (workOne : Int) + (workLog2 x.m : Int)
        roundBounds f rm 3 a (decide (v < 0)) v.natAbs 0

/-- ± sin(π t), t = m × 2^−k in [0, 1/2]; exact at 0 and 1/2. -/
def sinPiPart (f : Fmt) (rm fn a : Nat) (neg : Bool) (m k : Nat) : Nat × FpFlags :=
  if 2 * m = 2 ^ k then roundTo f rm neg 1 0 false else roundBounds f rm fn a neg (workSinPi m k) 0

/-- sin(π x). -/
def fpSin (f : Fmt) (rm a : Nat) : Nat × FpFlags :=
  match nan1 f a with
  | some r => r
  | none =>
    if isInf f a then invalid f
    else
      let x := finite f a
      let k := (-x.e).toNat
      let m := x.m * 2 ^ x.e.toNat
      if m % 2 ^ k = 0 then (f.signBit (x.neg && decide (x.m ≠ 0)), 0)
      else
        let t := m % 2 ^ (k + 1)
        let half := decide (2 ^ k ≤ t)
        let u := t % 2 ^ k
        sinPiPart f rm 4 a (x.neg != half) (if 2 ^ k < 2 * u then 2 ^ k - u else u) k

/-- cos(π x) = sin(π (1/2 − t)). -/
def fpCos (f : Fmt) (rm a : Nat) : Nat × FpFlags :=
  match nan1 f a with
  | some r => r
  | none =>
    if isInf f a then invalid f
    else
      let x := finite f a
      let k := (-x.e).toNat + 1
      let m := 2 * x.m * 2 ^ x.e.toNat
      let one := 2 ^ k
      let t := m % (2 * one)
      let t := if one < t then 2 * one - t else t
      if 2 * t = one then (0, 0)
      else
        let neg := decide (one < 2 * t)
        let t := if neg then one - t else t
        sinPiPart f rm 5 a neg (one / 2 - t) k

end Sys2Proof.Machine
end

