-- ==== Sys2Proof/Machine/Sha3.lean ====
section
/-!
DEFINITION. SHA3-512 as FIPS 202 defines it: the digest of overlay images (R130), of firmware and of reports (R462, R464). Its state
is held as five rows of five words; its rotations and its constants are derived by the standard's own recurrences, so no table
stands here.
-/
namespace Sys2Proof.Machine

/-- The rows of the sponge's state. -/
abbrev Rows := List (List DWord)

/-- A list begun at its n-th place. -/
def turned {α : Type} (n : Nat) (l : List α) : List α := l.drop n ++ l.take n

/-- Two rows, word by word. -/
def xorRow (p q : List DWord) : List DWord := p.zipWith (· ^^^ ·) q

/-- Every row takes the parities of the columns beside its own: the one before, and the one after turned by a bit. -/
def mixColumns (a : Rows) : Rows :=
  let parity := a.foldl xorRow (List.replicate 5 0)
  let effect := (turned 4 parity).zipWith (fun before after => before ^^^ after.rotateLeft 1) (turned 1 parity)
  a.map (xorRow effect)

/-- The walk over the 24 places other than the first, (x, y) to (y, 2x + 3y): n moves from place p, the t-th of which turns the word it
carries by (t + 1)(t + 2) / 2. Each entry: the place reached, the place left, the turn. -/
def wordWalk : Nat → Nat → Nat → List (Nat × Nat × Nat)
  | 0, _, _ => []
  | n + 1, t, p =>
    let q := p / 5 + 5 * ((2 * (p % 5) + 3 * (p / 5)) % 5)
    (q, p, (t + 1) * (t + 2) / 2 % 64) :: wordWalk n (t + 1) q

/-- Words move along the walk. -/
def moveWords (a : Rows) : Rows :=
  let flat := a.flatten
  let come (i : Nat) : DWord := match (wordWalk 24 0 1).find? (fun m => m.1 == i) with
    | some (_, src, r) => (flat.getD src 0).rotateLeft r
    | none => flat.getD i 0
  (List.range 5).map (fun y => (List.range 5).map (fun x => come (5 * y + x)))

/-- In each row a word changes by the two after it. -/
def mixRow (r : List DWord) : List DWord := xorRow r ((turned 1 r).zipWith (fun n nn => ~~~n &&& nn) (turned 2 r))

/-- The register that gives the round constants their bits, one move on. -/
def roundBits (r : Byte) : Byte := (r <<< 1) ^^^ (if r.msb then 0x71 else 0)

/-- Seven bits of that register from r, at places 2^j − 1 of a round's constant; and the register after them. -/
def roundConst (r : Byte) : DWord × Byte :=
  (List.range 7).foldl (fun c j =>
    (if c.2.getLsbD 0 then c.1 ||| ((1 : DWord) <<< (2 ^ j - 1)) else c.1, roundBits c.2)) (0, r)

/-- The constant enters the first word. -/
def addConst (c : DWord) : Rows → Rows
  | (w :: ws) :: rows => ((w ^^^ c) :: ws) :: rows
  | a => a

/-- n rounds, the register of the constants at r. -/
def sponge : Nat → Byte → Rows → Rows
  | 0, _, a => a
  | n + 1, r, a => sponge n (roundConst r).2 (addConst (roundConst r).1 ((moveWords (mixColumns a)).map mixRow))

/-- The value of bytes, the first the least significant. -/
def leValue (bs : List Byte) : Nat := bs.foldr (fun b n => n * 256 + b.toNat) 0

/-- A block of 72 bytes enters the first nine words, and the state is permuted. -/
def absorb (a : Rows) (block : List Byte) : Rows :=
  let part (y : Nat) : List DWord := (List.range 5).map (fun x => BitVec.ofNat 64 (leValue ((block.drop (40 * y + 8 * x)).take 8)))
  sponge 24 1 ((List.range 5).zipWith (fun y r => xorRow r (part y)) a)

/-- The last block: the message's rest, the suffix 01, then 1, zeros, 1. -/
def sha3Pad (rest : List Byte) : List Byte :=
  (List.range 72).map (fun i => rest.getD i (if i = rest.length then 0x06 else 0) ||| (if i = 71 then 0x80 else 0))

/-- Absorb n whole blocks, then the padded rest. -/
def sha3Blocks (a : Rows) : Nat → List Byte → Rows
  | 0, bs => absorb a (sha3Pad bs)
  | n + 1, bs => sha3Blocks (absorb a (bs.take 72)) n (bs.drop 72)

/-- The 64-byte digest: the first eight words. -/
def sha3_512 (bs : List Byte) : List Byte :=
  (((sha3Blocks (List.replicate 5 (List.replicate 5 0)) (bs.length / 72) bs).flatten).take 8).flatMap (fun w =>
    (List.range 8).map (fun i => w.extractLsb' (8 * i) 8))

end Sys2Proof.Machine
end

