-- ==== Sys2Proof/Machine/Overlay.lean ====
section
/-!
DEFINITION. Overlays and the instruction store (R128–R146): descriptors and their checks, keys, holders, pins,
room, loads, and the resolution of a transfer to (OVLID, offset) with parking (R140); then the words OVL.LD, OVL.EV,
OVL.PIN and OVL.UNPIN (R244, R245) and the store's own steps.
-/
namespace Sys2Proof.Machine

/-! ## Descriptors (R130–R132) -/

structure OvlDesc where
  code : Nat
  dirbase : Nat
  dirlen : Nat
  ovlid : Nat
  frames : Nat
  flags : Byte
  bytes : Nat
  laneoff : Nat
  tag : List Byte
  reservedZero : Bool

/-- Status codes of R139. -/
def stBaddesc : Nat := 1
def stStale : Nat := 2
def stNoroom : Nat := 3
def stTagfail : Nat := 4
def stPagefault : Nat := 5
def ovOffset : Nat := 6
def ovLanerange : Nat := 7

def fieldNat (bs : List PByte) (off n : Nat) : Nat := pvalue ((bs.drop off).take n)

def parseDesc (bs : List PByte) : OvlDesc where
  code := fieldNat bs 0 8
  dirbase := fieldNat bs 8 8
  dirlen := fieldNat bs 0x10 4
  ovlid := fieldNat bs 0x14 2
  frames := fieldNat bs 0x16 1
  flags := BitVec.ofNat 8 (fieldNat bs 0x17 1)
  bytes := fieldNat bs 0x18 4
  laneoff := fieldNat bs 0x1C 4
  tag := ((bs.drop 0x40).take 64).map (·.val)
  reservedZero := ((bs.drop 0x20).take 32).all (fun b => decide (b.val = 0))

def flagAuto (d : OvlDesc) : Bool := d.flags.getLsbD 0
def flagShare (d : OvlDesc) : Bool := d.flags.getLsbD 1

/-- Every field in its range (R130). -/
def descInRange (d : OvlDesc) : Bool :=
  decide (d.code % 128 = 0) && decide (d.code < linearEnd) && decide (d.dirbase % 8 = 0) && decide (d.dirbase < linearEnd)
    && decide (1 ≤ d.dirlen) && decide (d.dirlen ≤ 65536) && decide (d.ovlid < d.dirlen)
    && decide (1 ≤ d.frames) && decide (d.frames ≤ 32) && decide (d.frames = (d.bytes + 2047) / 2048)
    && decide (d.flags &&& 0xFC = 0) && decide (4 ≤ d.bytes) && decide (d.bytes ≤ 65536)
    && decide (d.laneoff % 4 = 0) && decide (4 ≤ d.laneoff) && decide (d.laneoff ≤ d.bytes)
    && decide ((d.bytes - d.laneoff) % 12 = 0) && d.reservedZero

/-- A descriptor read and checked, or its failing status. -/
inductive DescRes where
  | ok (d : OvlDesc) (s : State)
  | bad (status : Nat) (s : State)
  | away (s : State)

/-- The descriptor at an address against the kernel directory and the context's FRAMEQ (R132). -/
def readDesc (s : State) (asid dirbase dirlen addr : Nat) : DescRes :=
  if decide (addr % 128 ≠ 0) || decide (linearEnd ≤ addr) then .bad stBaddesc s
  else match peek s asid addr 128 with
    | .fault _ _ s => .bad stPagefault s
    | .away s => .away s
    | .ok bs s =>
      let d := parseDesc bs
      if !descInRange d || decide (dirlen ≤ d.ovlid) then .bad stBaddesc s
      else match peek s asid (dirbase + 8 * d.ovlid) 8 with
        | .fault _ _ s => .bad stPagefault s
        | .away s => .away s
        | .ok e s =>
          if pvalue e ≠ addr then .bad stBaddesc s
          else if (s.ctx asid).frameq < d.frames then .bad stNoroom s
          else .ok d s

/-- The descriptor a directory entry names; an entry of 0 is BADDESC (R139). -/
def readDirDesc (s : State) (asid dirbase dirlen ovlid : Nat) : DescRes :=
  if dirlen ≤ ovlid then .bad stBaddesc s
  else match peek s asid (dirbase + 8 * ovlid) 8 with
    | .fault _ _ s => .bad stPagefault s
    | .away s => .away s
    | .ok e s => if pvalue e = 0 then .bad stBaddesc s else readDesc s asid dirbase dirlen (pvalue e)

/-! ## Slots, holders, keys -/

def slotNums : List Nat := List.range 32

def isHolder (x : StoreSlot) (asid : Nat) : Bool := x.holders.any (fun h => decide (h.1 = asid))
def holdsOvl (x : StoreSlot) (asid : Nat) (ovlid : BitVec 16) : Bool := x.holders.contains (asid, ovlid)

/-- R134. -/
def keyValid (s : State) (c asid : Nat) (key : DWord) : Bool :=
  let x := (s.core c).storeSlot (keySlot key)
  decide (keyStatus key = 0) && decide (x.state ≠ .empty) && decide (x.gen = keyGen key) && isHolder x asid

/-- The slot in a state that a context holds under an OVLID. -/
def heldSlot (s : State) (c asid : Nat) (ovlid : BitVec 16) (st : SState) : Option Nat :=
  slotNums.find? (fun n =>
    let x := (s.core c).storeSlot n
    decide (x.state = st) && holdsOvl x asid ovlid)

/-- Frames a context's overlays hold on a core (R73). -/
def framesHeld (s : State) (c asid : Nat) : Nat :=
  ((slotNums.map (fun n => (s.core c).storeSlot n)).filter (fun x => decide (x.state ≠ .empty) && isHolder x asid)).foldl
    (fun t x => t + x.frames) 0

def framesUsed (s : State) (c : Nat) : Nat :=
  ((slotNums.map (fun n => (s.core c).storeSlot n)).filter (fun x => decide (x.state ≠ .empty))).foldl
    (fun t x => t + x.frames) 0

/-- Pinned (R143): by a live slot's program counter, a queued block (one restored names its overlay by identifier), a
return-stack entry, a team pin. -/
def pinned (s : State) (c slot : Nat) : Bool :=
  let x := (s.core c).storeSlot slot
  (groupsOn s c).any (fun k =>
      let g := s.grp k
      let pc (sl : PcSlot) : Bool := sl.live && sl.entered && decide (sl.islot = slot)
      decide (g.phase ≠ .exited) && (pc g.slot0 || pc g.slot1 || g.laneq.any (fun b => decide (b.islot = slot) || (decide (32 ≤ b.islot) && holdsOvl x (s.asidOf k) b.ovlid))
        || g.rstack.any (fun e => holdsOvl x (s.asidOf k) e.ovlid)))
    || s.teams.any (fun t => decide (t.2.core = c) && t.2.pins.getLsbD slot
        && decide (t.2.state ≠ .absent) && decide (t.2.state ≠ .saved) && decide (t.2.state ≠ .retired))

/-- A slot becomes Empty; its generation stays (R129). -/
def emptySlot (x : StoreSlot) : StoreSlot := { emptyStore with gen := x.gen }

/-- The overlay of a slot leaves the store, and with it the team pins on it (R138). R144 does not say what becomes of a pin set while the
slot is Loading whose load then fails: it goes too (DESIGN CHOICE, log 47). -/
def leaveStore (s : State) (c slot : Nat) : State :=
  let s := s.modCore c (fun k => k.setStore slot (emptySlot (k.storeSlot slot)))
  { s with teams := s.teams.map (fun t =>
      if t.2.core = c then (t.1, { t.2 with pins := t.2.pins &&& ~~~((1 : BitVec 32) <<< slot) }) else t) }

/-- A context's holding of a slot is dropped; with no holder left the slot is Empty (R138). -/
def dropHolder (s : State) (c slot asid : Nat) : State :=
  let x := (s.core c).storeSlot slot
  let hs := x.holders.filter (fun h => decide (h.1 ≠ asid))
  if !hs.isEmpty then s.modCore c (fun k => k.setStore slot { x with holders := hs })
  else if x.state = .loading then s.modCore c (fun k => k.setStore slot { x with doomed := true, holders := [] })
  else leaveStore s c slot

/-! ## Room (R141) -/

/-- Least-recently-entered unpinned Resident slot among those allowed; a lower number wins a tie. -/
def evictable (s : State) (c : Nat) (ok : StoreSlot → Bool) : Option Nat :=
  (minBy (fun w => w.stamp) ((slotNums.filter (fun n =>
      let x := (s.core c).storeSlot n
      decide (x.state = .resident) && ok x && !pinned s c n)).map
        (fun n => ⟨n, false, false, ((s.core c).storeSlot n).entry * 64 + n, 0⟩))).map (·.key)

/-- Step 1: the context's own overlays, while its frames plus F exceed FRAMEQ; false when it runs out of victims, with those it
had evicted gone. -/
def roomOwn (s : State) (c asid f : Nat) : Nat → Bool × State
  | 0 => (false, s)
  | n + 1 =>
    if framesHeld s c asid + f ≤ (s.ctx asid).frameq then (true, s)
    else match evictable s c (fun x => isHolder x asid) with
      | none => (false, s)
      | some v => roomOwn (leaveStore s c v) c asid f n

/-- Step 2: any context's, while fewer than F frames or no slot are free. -/
def roomAny (s : State) (c f : Nat) : Nat → Bool × State
  | 0 => (false, s)
  | n + 1 =>
    if framesUsed s c + f ≤ 96 && slotNums.any (fun m => decide (((s.core c).storeSlot m).state = .empty)) then (true, s)
    else match evictable s c (fun _ => true) with
      | none => (false, s)
      | some v => roomAny (leaveStore s c v) c f n

inductive Room where
  | made (s : State)
  | ownFull (s : State)
  | storeFull (s : State)

def makeRoom (s : State) (c asid f : Nat) : Room :=
  match roomOwn s c asid f 33 with
  | (false, s) => .ownFull s
  | (true, s) =>
    match roomAny s c f 33 with
    | (false, s) => .storeFull s
    | (true, s) => .made s

/-! ## Loads (R136, R138, R146) -/

def nextGen (g : BitVec 27) : BitVec 27 := if g = 0x7FFFFFF then 1 else g + 1

/-- A shared match: both contexts and both descriptors share, equal content, room for a holder (R146). -/
def sharedMatch (s : State) (c asid : Nat) (d : OvlDesc) : Option Nat :=
  if flagShare d && (s.ctx asid).share then
    slotNums.find? (fun n =>
      let x := (s.core c).storeSlot n
      decide (x.state ≠ .empty) && x.shared && decide (x.tag = d.tag) && decide (x.bytes = d.bytes)
        && decide (x.frames = d.frames) && decide (x.laneoff = d.laneoff) && decide (x.flags = d.flags)
        && decide (x.holders.length < 16) && !x.doomed)
  else none

/-- The lowest Empty slot takes the overlay and enters Loading; its image read joins the reads in order (R137). -/
def startLoad (s : State) (c asid : Nat) (d : OvlDesc) : State × Nat :=
  match slotNums.find? (fun n => decide (((s.core c).storeSlot n).state = .empty)) with
  | none => (s, 0)
  | some n =>
    let sh := flagShare d && (s.ctx asid).share
    (s.modCore c (fun k =>
      let x := k.storeSlot n
      let k := k.setStore n
        { state := .loading, gen := nextGen x.gen, holders := [(asid, BitVec.ofNat 16 d.ovlid)], frames := d.frames,
          bytes := d.bytes, laneoff := d.laneoff, flags := d.flags, tag := d.tag, code := d.code, asid := asid,
          shared := sh, image := [], entry := 0, waiters := [], doomed := false }
      { k with imgReads := k.imgReads ++ [n] }), n)

def addHolder (s : State) (c slot asid : Nat) (ovlid : BitVec 16) : State :=
  s.modCore c (fun k => k.setStore slot { k.storeSlot slot with holders := (k.storeSlot slot).holders ++ [(asid, ovlid)] })

/-- How a request for a checked descriptor is decided (R136). A shared match by a context that does not hold the slot yet takes
frames of its quota, and first makes room in them by step 1 of R141 (R73, R146; log 30). -/
inductive LoadRes where
  | held (slot : Nat) (s : State)
  | started (slot : Nat) (s : State)
  | noroom (own : Bool) (s : State)

def decideLoad (s : State) (c asid : Nat) (d : OvlDesc) : LoadRes :=
  let o := BitVec.ofNat 16 d.ovlid
  match heldSlot s c asid o .resident, heldSlot s c asid o .loading with
  | some n, _ => .held n s
  | none, some n => .held n s
  | none, none =>
    match sharedMatch s c asid d with
    | some n =>
      match (if isHolder ((s.core c).storeSlot n) asid then (true, s) else roomOwn s c asid d.frames 33) with
      | (true, s) => .held n (addHolder s c n asid o)
      | (false, s) => .noroom true s
    | none =>
      match makeRoom s c asid d.frames with
      | .ownFull s => .noroom true s
      | .storeFull s => .noroom false s
      | .made s =>
        let (s, n) := startLoad s c asid d
        .started n s

/-! ## Transfers (R140) -/

/-- Where a transfer goes: to a Resident slot, to wait for the load of a slot, to try again later, or a trap of class OVERLAY. -/
inductive Target where
  | here (slot : Nat) (s : State)
  | wait (slot : Nat) (s : State)
  | room (s : State)
  | trap (sub : Nat) (s : State)

/-- Resolve (OVLID) for a group, through a key when the transfer names one. -/
def resolve (s : State) (k : Nat) (key : Option DWord) (ovlid : BitVec 16) : Target :=
  let c := s.coreOf k
  let asid := s.asidOf k
  let byKey : Option Nat := match key with
    | some w => if keyValid s c asid w then some (keySlot w) else none
    | none => none
  match byKey with
  | some n => if ((s.core c).storeSlot n).state = .resident then .here n s else .wait n s
  | none =>
    match heldSlot s c asid ovlid .resident, heldSlot s c asid ovlid .loading with
    | some n, _ => .here n s
    | none, some n => .wait n s
    | none, none =>
      let kn := s.kernelOf k
      match readDirDesc s asid kn.dirbase kn.dirlen ovlid.toNat with
      | .away s => .room s
      | .bad st s => .trap st s
      | .ok d s =>
        if !flagAuto d then .trap stStale s
        else match decideLoad s c asid d with
          | .held n s => if ((s.core c).storeSlot n).state = .resident then .here n s else .wait n s
          | .started n s => .wait n s
          | .noroom true s => .trap stNoroom s
          | .noroom false s => .room s

/-- What parks a slot on an overlay, for a transfer, a queued block or a replay record (R107, R140): it waits for the load of a
store slot, or, without room or while its descriptor is not at its slice yet, tries again (R141). -/
def parkFor (s : State) (k : Nat) (second : Bool) (r : Reason) (ovlid : BitVec 16) (slot : Option Nat) (part : Nat) : State :=
  let s := s.modGrp k (fun g =>
    { (g.modSlot second (fun sl => { sl with reason := r })) with reloads := g.reloads ++ [⟨ovlid, second, slot, part⟩] })
  if slot.isNone then s.modCore (s.coreOf k) (fun c => { c with roomWait := c.roomWait ++ [(k, ovlid, second)] }) else s

/-- The slot parks in its own word, which has issued (R140, R242). -/
def parkSlot (s : State) (k : Nat) (second : Bool) (r : Reason) (ovlid : BitVec 16) (slot : Option Nat) : State :=
  (parkFor s k second r ovlid slot 0).modSlot k second (fun sl => { sl with issued := true })

/-- Entry of control into an overlay (R142). -/
def touchEntry (s : State) (c slot : Nat) : State :=
  s.modCore c (fun k => k.setStore slot { k.storeSlot slot with entry := s.steps + 1 })

/-- Offsets of the scalar section (R139 OFFSET). -/
def scalarWords (s : State) (c slot : Nat) : Nat := ((s.core c).storeSlot slot).laneoff / 4

/-- Wake the slots of every group on the core that wait for an overlay of a context: their transfer is resolved
again. -/
def wakeReloads (s : State) (c : Nat) (which : Nat → Reload → Bool) : State :=
  (groupsOn s c).foldl (fun s k =>
    let g := s.grp k
    let hit := g.reloads.filter (which k)
    if hit.isEmpty then s
    else
      let g := hit.foldl (fun g r => g.modSlot r.second (fun sl => { sl with reason := .none })) g
      s.setGrp k { g with reloads := g.reloads.filter (fun r => !which k r) }) s

/-- A slot set to a recorded position resolves its overlay before it can offer a word (R140): it enters, parks, or
traps. -/
def enterSlot (s : State) (k : Nat) (second : Bool) : State :=
  let sl := (s.grp k).slot second
  let x : TrapInfo := { issueInfo s with ovlid := sl.ovlid, off := sl.pc, second := second, widx := 0xFFFF }
  match resolve s k none sl.ovlid with
  | .here n s =>
    let c := s.coreOf k
    if scalarWords s c n ≤ sl.pc then takeTrap s k .overlay ovOffset x
    else
      let ok := okWord s k n sl.ovlid
      touchEntry (s.modSlot k second (fun sl => { sl with islot := n, ok := ok, entered := true, reason := .none })) c n
  | .wait n s => parkFor s k second sl.resumeAs sl.ovlid (some n) 0
  | .room s => parkFor s k second sl.resumeAs sl.ovlid none 0
  | .trap sub s => takeTrap s k .overlay sub x

/-! ## The words (R244, R245) -/

/-- OVL.EV, OVL.PIN, OVL.UNPIN: the request goes to the store; sd is held until it answers. -/
def storeRequest (i : Instr) (d a : SIndex) (req : Nat → Bool → DWord → Nat → OvlReq) (s : State) : Out :=
  issueScalar i { rd := [a.toNat], wr := [d.toNat] } s fun s =>
    let x := rs s a
    if x.poison then poisonScalar s 4
    else
      let k := s.cur.grp
      let id := s.nextId
      let s := (foldWord s).bump
      let s := s.modCore (s.coreOf k) (fun c => { c with ovlreqs := c.ovlreqs ++ [req k s.cur.second x.val id] })
      let s := if d = 0 then s else s.modGrp k (fun g => { g with sbusy := g.sbusy ++ [⟨d, id, false⟩] })
      .next (advance s)

/-- OVL.LD (R136): CP rises at issue; the store decides the request when it arrives. A full counter holds the
word (R174). -/
def execOvlLd (d a : SIndex) (s : State) : Out :=
  issueScalar (.ovlLd d a) { rd := [a.toNat], wr := [d.toNat], ctr := [.cp] } s fun s =>
    let x := rs s a
    let k := s.cur.grp
    if x.poison then poisonScalar s 4
    else if 63 ≤ (s.grp k).count .cp then .next (waitFor s .counter)
    else
      let (s, id) := startOp (foldWord s) .cp false
      let s := s.modCore (s.coreOf k) (fun c => { c with ovlreqs := c.ovlreqs ++ [.load k id d x.val.toNat] })
      .next (advance s)

def execOvlEv (d a : SIndex) (s : State) : Out :=
  storeRequest (.ovlEv d a) d a (fun k z key id => .evict k id z d key) s
def execOvlPin (d a : SIndex) (s : State) : Out :=
  storeRequest (.ovlPin d a) d a (fun k z key id => .pin k id z d key true) s
def execOvlUnpin (d a : SIndex) (s : State) : Out :=
  storeRequest (.ovlUnpin d a) d a (fun k z key id => .pin k id z d key false) s

/-! ## The store's steps -/

/-- The result of an OVL.LD is written and its CP falls (R136). -/
def answerLoad (s : State) (k op : Nat) (d : SIndex) (w : DWord) : State :=
  s.modGrp k (fun g => (g.writeS (g.opSecond op) d.toNat ⟨w, false⟩).finish op)

/-- sd := a small result; its register is free again. -/
def answerStore (s : State) (k op : Nat) (second : Bool) (d : SIndex) (w : DWord) : State :=
  s.modGrp k (fun g =>
    { (g.writeS second d.toNat ⟨w, false⟩) with sbusy := g.sbusy.filter (fun b => decide (b.op ≠ op)) })

def popReq (s : State) (c : Nat) : State := s.modCore c (fun k => { k with ovlreqs := k.ovlreqs.drop 1 })

/-- The key word of a slot under the overlay identifier a load named (R136). -/
def slotKey (s : State) (c n : Nat) (ovlid : BitVec 16) : DWord := keyWord ovlid ((s.core c).storeSlot n).gen n

/-- OVL_LOAD_DECIDE: the store decides the request at the head of core a's queue (R136). -/
def execOvlLoadDecide (s : State) : Out :=
  let c := s.cur.a
  match (s.core c).ovlreqs with
  | .load k op d addr :: _ =>
    let asid := s.asidOf k
    let kn := s.kernelOf k
    match readDesc s asid kn.dirbase kn.dirlen addr with
    | .away s => .next (notOffered s)
    | .bad st s => .next (answerLoad (popReq s c) k op d (statusKey st))
    | .ok x s =>
      match decideLoad s c asid x with
      | .noroom _ s => .next (answerLoad (popReq s c) k op d (statusKey stNoroom))
      | .held n s =>
        .next (answerLoad (popReq s c) k op d (slotKey s c n (BitVec.ofNat 16 x.ovlid)))
      | .started n s =>
        let s := popReq s c
        .next (s.modCore c (fun q => q.setStore n { q.storeSlot n with waiters := [(k, op, d, BitVec.ofNat 16 x.ovlid)] }))
  | _ => .next (notOffered s)

/-- OVL_EV_REQUEST (R145). -/
def execOvlEvRequest (s : State) : Out :=
  let c := s.cur.a
  match (s.core c).ovlreqs with
  | .evict k op z d key :: _ =>
    let asid := s.asidOf k
    let n := keySlot key
    if !keyValid s c asid key then .next (answerStore (popReq s c) k op z d 2)
    else if decide (((s.core c).storeSlot n).state = .loading) || pinned s c n then .next (answerStore (popReq s c) k op z d 1)
    else .next (answerStore (dropHolder (popReq s c) c n asid) k op z d 0)
  | _ => .next (notOffered s)

/-- TEAM_PIN_UPDATE (R144). -/
def execTeamPinUpdate (s : State) : Out :=
  let c := s.cur.a
  match (s.core c).ovlreqs with
  | .pin k op z d key set :: _ =>
    let n := keySlot key
    if !keyValid s c (s.asidOf k) key then .next (answerStore (popReq s c) k op z d 1)
    else
      let s := s.modTeam (s.grp k).team (fun t =>
        { t with pins := if set then t.pins ||| ((1 : BitVec 32) <<< n) else t.pins &&& ~~~((1 : BitVec 32) <<< n) })
      .next (answerStore (popReq s c) k op z d 0)
  | _ => .next (notOffered s)

/-- The kernels whose entry overlay this load brings to the core, before their first team there (R95, R141). -/
def entryKernels (s : State) (c : Nat) (x : StoreSlot) : List Nat :=
  (s.kernels.filter (fun p => p.2.loads.contains c && holdsOvl x p.2.asid p.2.entovl)).map (·.1)

/-- The position of what is parked on an overlay. -/
def reloadInfo (s : State) (k : Nat) (r : Reload) : TrapInfo :=
  let g := s.grp k
  let sl := g.slot r.second
  let here : TrapInfo := { issueInfo s with ovlid := sl.ovlid, off := sl.pc, second := r.second, widx := 0xFFFF }
  match r.part, g.replay, g.laneq.find? (fun b => decide (b.ovlid = r.ovlid)) with
  | 1, _, some b => { here with ovlid := b.ovlid, off := b.lxpc }
  | 2, some (_, pos, w, _), _ => { here with ovlid := pos.1, off := pos.2, widx := w }
  | _, _, _ => here

/-- A load fails (R136, R138): the slot is Empty, every waiting OVL.LD is answered, groups parked on it trap, and a kernel whose entry load it is takes a context fault,
SUB 0x09 (R141). -/
def failLoad (s : State) (c n st : Nat) : State :=
  let x := (s.core c).storeSlot n
  let ks := entryKernels s c x
  let s := leaveStore s c n
  let s := x.waiters.foldl (fun s w => answerLoad s w.1 w.2.1 w.2.2.1 (statusKey st)) s
  let s := ks.foldl (fun s n => contextFault (s.modKernel n (fun q => { q with loads := [] })) (s.kernel n).asid 9 0 0) s
  (groupsOn s c).foldl (fun s k =>
    match (s.grp k).reloads.filter (fun r => decide (r.slot = some n)) with
    | [] => s
    | r :: _ =>
      let x := reloadInfo s k r
      let s := s.modGrp k (fun g =>
        { (g.modSlot r.second (fun y =>
              if y.entered && decide (r.part = 0) then { y with reason := .none, pc := y.pc + 1, issued := false }
              else { y with reason := .none })) with
          reloads := g.reloads.filter (fun q => decide (q.slot ≠ some n)),
          replay := if r.part = 2 then none else g.replay })
      takeTrap s k .overlay st x) s

/-- IMAGE_READ_COMPLETE: the first image read of core a ends (R133, R137, R138). -/
def execImageReadComplete (s : State) : Out :=
  let c := s.cur.a
  match (s.core c).imgReads with
  | [] => .next (notOffered s)
  | n :: rest =>
    let x := (s.core c).storeSlot n
    match peek s x.asid x.code x.bytes with
    | .away s => .next (notOffered s)
    | .fault _ _ s => .next (failLoad (s.modCore c (fun k => { k with imgReads := rest })) c n stPagefault)
    | .ok bs s =>
      let s := s.modCore c (fun k => { k with imgReads := rest })
      let img := bs.map (·.val)
      if sha3_512 img ≠ x.tag then .next (failLoad s c n stTagfail)
      else if x.doomed then .next (leaveStore s c n)
      else
        let s := s.modCore c (fun k => k.setStore n { x with state := .resident, image := img, entry := s.steps + 1,
                                                             waiters := [] })
        let s := x.waiters.foldl (fun s w => answerLoad s w.1 w.2.1 w.2.2.1 (slotKey s c n w.2.2.2)) s
        .next (wakeReloads s c (fun _ r => decide (r.slot = some n)))

/-- RELOAD_RETRY: the reloads of core a that wait for room try again (R141). -/
def execReloadRetry (s : State) : Out :=
  let c := s.cur.a
  let w := (s.core c).roomWait
  if w.isEmpty then .next (notOffered s)
  else
  let s := s.modCore c (fun k => { k with roomWait := [] })
  .next (wakeReloads s c (fun k r => r.slot.isNone && w.contains (k, r.ovlid, r.second)))

end Sys2Proof.Machine
end

