-- ==== Sys2Proof/Machine/Control.lean ====
section
/-!
DEFINITION. Scalar control (R237–R243, R246–R248, R251, R252, R254): branches, divergence with its memory-backed
stack (R115–R117), calls and returns, LX, signatures, idempotent regions, EXIT, TRAP and LAUNCH; and the step that
moves divergence records between chip and memory (R115, R364).
-/
namespace Sys2Proof.Machine

/-! ## Branches -/

def condTest (c : Nat) (x : DWord) : Bool :=
  match c with
  | 0 => decide (x = 0)
  | 1 => decide (x ≠ 0)
  | 2 => x.msb
  | 3 => !x.msb
  | 4 => x.msb || decide (x = 0)
  | _ => !x.msb && decide (x ≠ 0)

/-- R210. -/
def brTaken (c : BitVec 4) (x : DWord) : Bool :=
  let n := c.toNat
  if n < 6 then condTest n x
  else if n = 6 then x.getLsbD 0
  else if n = 7 then !x.getLsbD 0
  else if n < 14 then condTest (n - 8) ((x.setWidth 32 : Word).signExtend 64)
  else true

/-- The issuing slot. -/
def curSlot (s : State) : PcSlot := (s.grp s.cur.grp).slot s.cur.second

/-- A target in the current overlay, or none where it lies outside its scalar section (R209). -/
def targetIn (s : State) (off : Int) : Option Nat :=
  let sl := curSlot s
  let t := (sl.pc : Int) + off
  if t < 0 then none
  else if scalarWords s (s.coreOf s.cur.grp) sl.islot ≤ t.toNat then none else some t.toNat

def badOffset (s : State) : Out := trapIssued s .overlay ovOffset (issueInfo s)

/-- BR (R237). -/
def execBrCond (c : BitVec 4) (a : SIndex) (o : BitVec 16) (s : State) : Out :=
  issueScalar (.brCond c a o) { rd := if c = 0xE then [] else [a.toNat] } s fun s =>
    let x := rs s a
    if x.poison && decide (c ≠ 0xE) then poisonScalar s 3
    else if brTaken c x.val then
      match targetIn s o.toInt with
      | none => badOffset s
      | some t => .next (jump (foldWord s) t)
    else .next (advance (foldWord s))

/-! ## The divergence stack (R115, R116, R364) -/

def ptrAddr (p : BitVec 48) : Nat := p.toNat * 16

/-- Beside a record with nothing before it. -/
def noMeta : DMeta := ⟨[], [], [], [], false⟩

/-- What is kept beside the record of a slot that leaves it, or that has arrived at its join. -/
def PcSlot.meta (sl : PcSlot) (issued : Bool) : DMeta := ⟨sl.prior, sl.acqHold, sl.fenceHold, sl.bindHold, issued⟩

/-- What comes before the next word of a slot, and its holds, are those kept beside a record. -/
def PcSlot.after (sl : PcSlot) (m : DMeta) : PcSlot :=
  { sl with prior := m.prior, acqHold := m.acqHold, fenceHold := m.fenceHold, bindHold := m.bindHold }

/-- What came before either side comes before their join (R147). -/
def DMeta.join (a b : DMeta) : DMeta :=
  ⟨(a.prior ++ b.prior).eraseDups, (a.acqHold ++ b.acqHold).eraseDups, (a.fenceHold ++ b.fenceHold).eraseDups,
   (a.bindHold ++ b.bindHold).eraseDups, false⟩

/-- What is kept beside the n-th record from the top. -/
def Group.metaAt (g : Group) (n : Nat) : DMeta := g.dmeta[n]?.getD noMeta

/-- Push records, top first, each with what is kept beside it. -/
def Group.push (g : Group) (rs : List (DRec × DMeta)) : Group :=
  { g with drecs := rs.map (·.1) ++ g.drecs, dmeta := rs.map (·.2) ++ g.dmeta, ptr := g.ptr + BitVec.ofNat 48 rs.length, room := g.room - BitVec.ofNat 12 rs.length }

/-- Pop the top n records, which are on chip. -/
def Group.pop (g : Group) (n : Nat) : Group :=
  { g with drecs := g.drecs.drop n, dmeta := g.dmeta.drop n, ptr := g.ptr - BitVec.ofNat 48 n, room := g.room + BitVec.ofNat 12 n }

def laneBytes (m : Lanes) : List Byte := leBytes 12 m.toNat

def wordBytes (w : Word) : List Byte := leBytes 4 w.toNat

/-- R116: MASK and CTRL. -/
def recordBytes : DRec → List Byte
  | .side m o f => laneBytes m ++ wordBytes (ctrlForm 0 o f)
  | .joinM m o f => laneBytes m ++ wordBytes (ctrlForm 1 o f)
  | .joinA m a => laneBytes m ++ wordBytes (BitVec.ofNat 32 (2 ^ 31 + (if a then 1 else 0)))
  | .waitB t b => leBytes 2 t.toNat ++ [b.setWidth 8] ++ List.replicate 9 0 ++ wordBytes 0xC0000000

/-- A record read back holds whatever the region holds (R115). -/
def recordOf (bs : List Byte) : DRec :=
  let m : Lanes := BitVec.ofNat 96 (ofLe (bs.take 12))
  let c := ofLe (bs.drop 12)
  let o := BitVec.ofNat 16 (c / 2 ^ 14)
  let f := c % 2 ^ 14
  match c / 2 ^ 30 with
  | 0 => .side m o f
  | 1 => .joinM m o f
  | 2 => .joinA m (decide (c % 2 = 1))
  | _ => .waitB (m.extractLsb' 0 16) (m.extractLsb' 16 4)

inductive StackRes where
  | ok (s : State)
  | later (s : State)
  | full (s : State)
  | page (page : Nat) (s : State)
  | lost (s : State)

/-- The fate of a stack access that meets a fault (R364). -/
def stackFault (s : State) (k kind va : Nat) : StackRes :=
  if kind = notMapped then
    match reportPage s (s.asidOf k) va kind ⟨(s.teamOf k).teamid, (s.grp k).grpid⟩ with
    | some s => .page (va / 2 ^ 16 * 2 ^ 16) s
    | none => .full s
  else if kind = walkError then .later (walkFatal s (s.asidOf k) va)
  else .lost s

/-- Records below the top four go to memory, the deepest first (R115). -/
def spillRecs (s : State) (k : Nat) : Nat → StackRes
  | 0 => .ok s
  | n + 1 =>
    let g := s.grp k
    if g.drecs.length ≤ 4 then .ok s
    else
      let a := ptrAddr (g.ptr - BitVec.ofNat 48 g.drecs.length)
      let r := recordBytes (g.drecs.getLast?.getD (.joinA 0 false))
      match poke s (s.asidOf k) a (r.map (fun b => ⟨b, false⟩)) with
      | .ok _ s => spillRecs (s.modGrp k (fun g => { g with drecs := g.drecs.dropLast, dbelow := g.dbelow + 1 })) k n
      | .away s => .later s
      | .fault kind va s =>
        match stackFault s k kind va with
        | .lost s => .lost (s.modGrp k (fun g => { g with drecs := g.drecs.dropLast, dbelow := g.dbelow + 1 }))
        | r => r

/-- A record that lies below those on chip is read back (R115). -/
def fillRec (s : State) (k : Nat) : StackRes :=
  let g := s.grp k
  if 4 ≤ g.drecs.length || g.dbelow = 0 then .ok s
  else
    match peek s (s.asidOf k) (ptrAddr (g.ptr - BitVec.ofNat 48 (g.drecs.length + 1))) 16 with
    | .ok bs s =>
      .ok (s.modGrp k (fun g => { g with drecs := g.drecs ++ [recordOf (bs.map (·.val))], dbelow := g.dbelow - 1 }))
    | .away s => .later s
    | .fault kind va s => stackFault s k kind va

/-- The slot that waits for a stack access parks on its page; a lost record traps (R364). -/
def settleStack (r : StackRes) (k : Nat) (second : Bool) (x : TrapInfo) : State :=
  match r with
  | .ok s => s
  | .later s => s
  | .full s => stackParked s none
  | .page p s => stackParked s (some p)
  | .lost s => takeTrap s k .divg 8 x
where
  stackParked (s : State) (p : Option Nat) : State :=
    s.modGrp k (fun g => { (g.modSlot second (fun sl => { sl with reason := .pagefault })) with stackWait := p, stackBy := second, stackHeld := true })

/-- DSFILL_READBACK: group a stores records that exceed four on chip, or reads one back; a slot that waited for it is
ready again (R115, R364). -/
def execDsfillReadback (s : State) : Out :=
  let k := s.cur.a
  let g := s.grp k
  let z := g.stackBy
  let x : TrapInfo := { issueInfo s with ovlid := (g.slot z).ovlid, off := (g.slot z).pc, second := z, widx := 0xFFFF }
  let dsfill (sl : PcSlot) : Bool := sl.live && decide (sl.reason = .dsfill)
  let ready (y : Bool) (sl : PcSlot) : PcSlot :=
    if dsfill sl || (g.stackHeld && decide (y = z) && decide (sl.reason = .pagefault)) then { sl with reason := .none } else sl
  let finish (s : State) : State := s.modGrp k (fun g => { g with slot0 := ready false g.slot0, slot1 := ready true g.slot1, stackHeld := false })
  let due := decide (4 < g.drecs.length) || (decide (g.drecs.length < 4) && decide (0 < g.dbelow))
  if decide (g.phase = .halted) || decide (g.phase = .saved) || g.stackWait.isSome || !(due || g.stackHeld || dsfill g.slot0 || dsfill g.slot1) then
    .next (notOffered s)
  else
    match (if 4 < g.drecs.length then spillRecs s k 8 else fillRec s k) with
    | .later s => .next (notOffered s)
    | .full s => .next (notOffered (settleStack (.full s) k z x))
    | .ok s => .next (finish s)
    | r => .next (settleStack r k z x)

/-- A phase numbered t is complete (R181). -/
def phaseDone (b : Barrier) (t : BitVec 16) : Bool :=
  let d := (b.phase - t).toNat
  decide (1 ≤ d) && decide (d ≤ 32767)

/-- A slot whose phase is complete waits no more: it is ready at the word after its BAR.SYNC (R181). -/
def releaseWaiter (s : State) (k : Nat) (second : Bool) : State :=
  let sl := (s.grp k).slot second
  match sl.waitPhase with
  | some (b, t) =>
    if sl.live && phaseDone ((s.teamOf k).bar b) t then
      s.modSlot k second (fun x =>
        { x with pc := if x.issued then x.pc + 1 else x.pc, issued := false, waitPhase := none, reason := if x.reason = .barrier then .none else x.reason })
    else s
  | none => s

/-- The slot's bit 2g + s leaves WAITERS and WAITN of a barrier (R116, R181). -/
def unwait (s : State) (k : Nat) (second : Bool) (b : Nat) : State :=
  let g := s.grp k
  let m : Word := (1 : Word) <<< (2 * g.grpid + (if second then 1 else 0))
  s.modTeam g.team (fun t =>
    let x := t.bar b
    t.setBar b { x with waiters := x.waiters &&& ~~~m, waitn := x.waitn &&& ~~~m })

/-- The records a spilled slot leaves, top first, and the state with its wait taken off the barrier (R116). -/
def spilledSlot (s : State) (k : Nat) (second : Bool) : List (DRec × DMeta) × State :=
  let o := (s.grp k).slot second
  if !o.live then ([], s)
  else match o.waitPhase with
    | some (b, t) =>
      ([(.waitB t (BitVec.ofNat 4 b), noMeta), (.side o.mask o.ovlid (if o.issued then o.pc + 1 else o.pc), o.meta false)],
       unwait s k second b)
    | none => ([(.side o.mask o.ovlid o.pc, o.meta o.issued)], s)

/-- The split of BRD (R116): the issuing slot keeps the lanes of F, the other slot starts at the target with T; what came before
the BRD comes before both sides (R147). -/
def split (s : State) (t f : Lanes) (target : Nat) : State :=
  let k := s.cur.grp
  let z := s.cur.second
  let (side, s) := spilledSlot s k (!z)
  let g := s.grp k
  let sl := g.slot z
  let o := g.slot (!z)
  let g := { g.push ([(DRec.joinA 0 false, noMeta), (DRec.joinM (t ||| f) 0 0, noMeta)] ++ side) with stackBy := z }
  let g := g.setSlot z { sl with mask := f, pc := sl.pc + 1, issued := false, waitPhase := none }
  let g := g.setSlot (!z)
    { sl with mask := t, pc := target, resumeAs := .ovlret, reason := .none, issued := false, waitPhase := none, kept := false,
              rej := none, lastIssue := o.lastIssue }
  let s := s.setGrp k g
  settleStack (spillRecs s k 8) k z (issueInfo s)

/-- BRD (R116, R238): POISON on its predicate, OVERLAY for its target, then SPILLWAIT and DIVG. -/
def execBrd (p : BitVec 3) (o : BitVec 16) (s : State) : Out :=
  issueScalar (.brd p o) { rd := [60, 61, 62], wr := [60, 61, 62], preds := [p.toNat] } s fun s =>
    let k := s.cur.grp
    let g := s.grp k
    let m := (curSlot s).mask
    let pr := g.pred p.toNat
    if m &&& pr.poison ≠ 0 then .next (signalPoison (advance (foldWord s)) k 3 { issueInfo s with lanes := m &&& pr.poison })
    else
      let t := m &&& pr.bits
      let f := m &&& ~~~pr.bits
      if t = 0 then .next (advance (foldWord s))
      else match targetIn s o.toInt with
        | none => badOffset s
        | some target =>
          if f = 0 then .next (jump (foldWord s) target)
          else
            let s := releaseWaiter s k (!s.cur.second)
            let other := (s.grp k).slot (!s.cur.second)
            if other.live && other.reason.isParked then .next (waitFor s .spillwait)
            else
              let need := 2 + (if other.live then 1 else 0) + (if other.live && other.waitPhase.isSome then 1 else 0)
              if g.room.toNat < need then trapIssued s .divg 1 (issueInfo s)
              else .next (split (foldWord s) t f target)

/-- What JOIN finds on the stack (R117). -/
inductive JoinView where
  | first (side : Option (Lanes × BitVec 16 × Nat)) (wait : Option (BitVec 16 × BitVec 4)) (joinm : Lanes)
  | second (arrived joinm : Lanes) (ovlid : BitVec 16) (off : Nat)
  | misnested
  | unread

def joinView (below : Nat) : List DRec → JoinView
  | .joinA a arr :: .joinM m o f :: _ => if arr then .second a m o f else .first none none m
  | [.joinA _ _] => if 0 < below then .unread else .misnested
  | .side m o f :: .joinA _ arr :: .joinM jm _ _ :: _ => if arr then .misnested else .first (some (m, o, f)) none jm
  | [.side _ _ _, .joinA _ _] | [.side _ _ _] => if 0 < below then .unread else .misnested
  | .waitB t b :: .side m o f :: .joinA _ arr :: .joinM jm _ _ :: _ =>
    if arr then .misnested else .first (some (m, o, f)) (some (t, b)) jm
  | [.waitB _ _, .side _ _ _, .joinA _ _] | [.waitB _ _, .side _ _ _] | [.waitB _ _] =>
    if 0 < below then .unread else .misnested
  | [] => if 0 < below then .unread else .misnested
  | _ => .misnested

/-- A JOIN that leaves ROOM above EROOM ends the region (R398). -/
def endRegionAbove (g : Group) : Group :=
  if idemOpen g.idempc && decide ((idemEroom g.idempc).toNat < g.room.toNat) then
    { g with idempc := g.idempc &&& ~~~((1 : DWord) <<< 63) }
  else g

/-- First arrival: the join record keeps the target and the arrived mask; a deferred side resumes in the slot (R140:
its record names an overlay), else the slot ends. A side resumed with a WAITB waits for its phase and sets no bit in WAITERS or
WAITN (DESIGN CHOICE, log 47). -/
def joinFirst (s : State) (target : Nat) (side : Option (Lanes × BitVec 16 × Nat))
    (wait : Option (BitVec 16 × BitVec 4)) (jm : Lanes) : State :=
  let k := s.cur.grp
  let z := s.cur.second
  let g := s.grp k
  let sl := g.slot z
  let n := (if side.isSome then 1 else 0) + (if wait.isSome then 1 else 0)
  let was := g.metaAt (n - 1)
  let g := g.pop n
  let g := { g with drecs := DRec.joinA sl.mask true :: DRec.joinM jm sl.ovlid target :: g.drecs.drop 2,
                    dmeta := sl.meta false :: g.dmeta.drop 1, stackBy := z }
  match side with
  | none => s.setGrp k (endRegionAbove (g.setSlot z { sl with live := false, issued := false }))
  | some (m, o, f) =>
    let sl := { sl.after was with mask := m, ovlid := o, pc := f, entered := false, resumeAs := .ovlret, acc := 0, sigskip := true,
                                  issued := was.issued, waitPhase := wait.map (fun (w : BitVec 16 × BitVec 4) => (w.2.toNat, w.1)),
                                  reason := if wait.isSome then .barrier else .none }
    s.setGrp k (endRegionAbove (g.setSlot z sl))

/-- JOIN (R117, R239). -/
def execJoin (o : BitVec 26) (s : State) : Out :=
  issueScalar (.join o) { rd := [60, 61, 62], wr := [60, 61, 62] } s fun s =>
    let k := s.cur.grp
    let z := s.cur.second
    let g := s.grp k
    let x := (curSlot s).mask
    match targetIn s o.toInt with
    | none => badOffset s
    | some target =>
      match joinView g.dbelow g.drecs with
      | .unread => .next (waitFor s (if g.stackHeld then .pagefault else .dsfill))
      | .misnested => trapIssued s .divg 3 (issueInfo s)
      | .first side wait jm =>
        if x &&& ~~~jm ≠ 0 then trapIssued s .signature 2 (issueInfo s)
        else .next (joinFirst (foldWord s) target side wait jm)
      | .second a jm ovl off =>
        if decide (ovl ≠ (curSlot s).ovlid) || decide (off ≠ target) then trapIssued s .divg 4 (issueInfo s)
        else if decide (x &&& a ≠ 0) || decide (x ||| a ≠ jm) then trapIssued s .signature 2 (issueInfo s)
        else
          let s := (foldWord s).modGrp k (fun g =>
            endRegionAbove ({ g.pop 2 with stackBy := z }.modSlot z (fun sl =>
              { sl.after ((sl.meta false).join (g.metaAt 0)) with
                mask := jm, pc := target, issued := false, waitPhase := none, acc := crcWord 0 (BitVec.ofNat 32 target) })))
          .next (touchEntry s (s.coreOf k) (curSlot s).islot)

/-! ## Calls and returns (R240–R243) -/

/-- A return word (R240). -/
def returnWord (e : RetEnt) : DWord := BitVec.ofNat 64 (e.ovlid.toNat * 2 ^ 32 + e.off)

/-- The call takes effect: the return word is pushed and written to ln, and the slot enters its target. -/
def enterCall (s : State) (slot : Nat) (ovlid : BitVec 16) (off : Nat) : State :=
  let k := s.cur.grp
  let z := s.cur.second
  let sl := curSlot s
  let e : RetEnt := ⟨sl.ovlid, sl.pc + 1⟩
  let s := s.modGrp k (fun g => { (g.writeS z 57 ⟨returnWord e, false⟩) with rstack := e :: g.rstack })
  let s := s.modSlot k z (fun sl => { sl with pc := off, ovlid := ovlid, islot := slot, ok := okWord s k slot ovlid, issued := false, waitPhase := none })
  touchEntry s (s.coreOf k) slot

/-- The conditions CALL and CALLO share (R118, R240). -/
def callTrap (g : Group) : Option (TrapClass × Nat) :=
  if g.diverged then some (.divg, 6) else if 8 ≤ g.rstack.length then some (.rstack, 1) else none

def execCall (o : BitVec 26) (s : State) : Out :=
  issueScalar (.call o) { wr := [57] } s fun s =>
    match callTrap (s.grp s.cur.grp) with
    | some (c, sub) => trapIssued s c sub (issueInfo s)
    | none =>
      match targetIn s o.toInt with
      | none => badOffset s
      | some t => .next (enterCall (foldWord s) (curSlot s).islot (curSlot s).ovlid t)

/-- The OVLID under which a context holds a slot, the one named if it is a holder's (R146). -/
def heldAs (s : State) (c slot asid : Nat) (want : BitVec 16) : BitVec 16 :=
  let x := (s.core c).storeSlot slot
  if holdsOvl x asid want then want
  else match x.holders.find? (fun h => decide (h.1 = asid)) with
    | some h => h.2
    | none => want

/-- CALLO (R242): resolved through its key, parking with OVLCALL; a parked call is resolved again. -/
def execCallo (a b : SIndex) (s : State) : Out :=
  issueScalar (.callo a b) { rd := [a.toNat, b.toNat], wr := [57] } s fun s =>
    let k := s.cur.grp
    let key := rs s a
    let so := rs s b
    match callTrap (s.grp k) with
    | some (c, sub) => trapIssued s c sub (issueInfo s)
    | none =>
      if key.poison || so.poison then poisonScalar s 4
      else match resolve s k (some key.val) (keyOvlid key.val) with
        | .here n s =>
          let c := s.coreOf k
          if scalarWords s c n ≤ so.val.toNat then badOffset s
          else .next (enterCall (foldWord s) n (heldAs s c n (s.asidOf k) (keyOvlid key.val)) so.val.toNat)
        | .wait n s => .next (parkSlot (foldWord s) k s.cur.second .ovlcall (keyOvlid key.val) (some n))
        | .room s => .next (parkSlot (foldWord s) k s.cur.second .ovlcall (keyOvlid key.val) none)
        | .trap sub s => trapIssued s .overlay sub (issueInfo s)

/-- RET (R243): to the top entry, parking with OVLRET; the entry is popped on entry. -/
def execRet (s : State) : Out :=
  issueScalar .ret {} s fun s =>
    let k := s.cur.grp
    let z := s.cur.second
    let g := s.grp k
    if g.diverged then trapIssued s .divg 6 (issueInfo s)
    else match g.rstack with
      | [] => trapIssued s .rstack 2 (issueInfo s)
      | e :: rest =>
        match resolve s k none e.ovlid with
        | .here n s =>
          let c := s.coreOf k
          if scalarWords s c n ≤ e.off then badOffset s
          else
            let s := foldWord s
            let s := s.modGrp k (fun g => { g with rstack := rest })
            let s := s.modSlot k z (fun sl =>
              { sl with pc := e.off, ovlid := e.ovlid, islot := n, ok := okWord s k n e.ovlid, issued := false, waitPhase := none })
            .next (touchEntry s c n)
        | .wait n s => .next (parkSlot (foldWord s) k z .ovlret e.ovlid (some n))
        | .room s => .next (parkSlot (foldWord s) k z .ovlret e.ovlid none)
        | .trap sub s => trapIssued s .overlay sub (issueInfo s)

/-! ## LX (R246), SIGCHK (R247), regions (R248) -/

/-- Words of the lane section. -/
def laneWords (s : State) (c slot : Nat) : Nat :=
  let x := (s.core c).storeSlot slot
  (x.bytes - x.laneoff) / 12

/-- Blocks that hold a place of the lane queue: one whose last word has issued holds none, though that word stays at the
head until it is answered (R32, R309, R313). -/
def Group.blocksHeld (g : Group) : Nat :=
  match g.laneq with
  | b :: bs => if g.laneStall.isSome && decide (b.count ≤ b.next + 1) then bs.length else bs.length + 1
  | [] => 0

def execLx (c : BitVec 6) (o : BitVec 20) (s : State) : Out :=
  issueScalar (.lx c o) { rd := [60, 61, 62] } s fun s =>
    let k := s.cur.grp
    let sl := curSlot s
    if laneWords s (s.coreOf k) sl.islot < o.toNat + (c.toNat + 1) then trapIssued s .overlay ovLanerange (issueInfo s)
    else if 4 ≤ (s.grp k).blocksHeld then .next (waitFor s .lxfull)
    else
      let b : LaneBlock := { id := s.nextId, acqHold := sl.acqHold, fenceHold := sl.fenceHold, ovlid := sl.ovlid, islot := sl.islot,
                             off := o.toNat, count := c.toNat + 1, next := 0, mask := sl.mask, second := s.cur.second, lxpc := sl.pc }
      .next (advance ((foldWord s).bump.modGrp k (fun g => { (g.place s.cur.second b.id) with laneq := g.laneq ++ [b] })))

/-- SIGCHK (R120): compared unless SIGSKIP; the accumulator starts again in every case. -/
def execSigchk (n : BitVec 20) (s : State) : Out :=
  issueScalar (.sigchk n) {} s fun s =>
    let sl := curSlot s
    let s := (issueUnfolded s).modSlot s.cur.grp s.cur.second (fun sl => { sl with acc := 0, sigskip := false })
    if !sl.sigskip && decide (sl.acc.extractLsb' 0 20 ≠ n) then
      .next (trapScalar s .signature 1
        { issueInfo s with data := BitVec.ofNat 64 (sl.acc.toNat + n.toNat * 2 ^ 32) })
    else .next (advance s)

/-- IDEMPC with a region open at (ovl, off) and no restart used (R398). -/
def openRegion (x : DWord) (room : BitVec 12) (ovlid : BitVec 16) (off : Nat) : DWord :=
  BitVec.ofNat 64 (2 ^ 63 + room.toNat * 2 ^ 50 + (x.extractLsb' 30 15).toNat * 2 ^ 30 + ovlid.toNat * 2 ^ 14 + off % 2 ^ 14)

def execIdemBegin (s : State) : Out :=
  issueScalar .idemBegin { ctr := [.ld, .cp, .tl, .gr, .en] } s fun s =>
    let k := s.cur.grp
    let g := s.grp k
    if g.diverged then trapIssued s .divg 7 (issueInfo s)
    else if g.ops.any (fun o => decide (o.cls ≠ .st)) then .next (waitFor s .counter)
    else
      let sl := curSlot s
      .next (advance ((foldWord s).modGrp k (fun g => { g with idempc := openRegion g.idempc g.room sl.ovlid (sl.pc + 1) })))

def execIdemEnd (s : State) : Out :=
  issueScalar .idemEnd {} s fun s =>
    let k := s.cur.grp
    if (s.grp k).diverged then trapIssued s .divg 7 (issueInfo s)
    else .next (advance ((foldWord s).modGrp k (fun g => { g with idempc := g.idempc &&& ~~~((1 : DWord) <<< 63) })))

/-! ## EXIT (R105, R251), TRAP (R252), LAUNCH (R254) -/

/-- EXIT issues and its slot waits with EXITDRAIN; EXIT_COMPLETE ends the group. -/
def execExit (s : State) : Out :=
  issueScalar .exit {} s fun s =>
    let g := s.grp s.cur.grp
    if g.diverged || !g.drecs.isEmpty || decide (0 < g.dbelow) then trapIssued s .divg 2 (issueInfo s)
    else .next (waitIssued (foldWord s) .exitdrain)

def execTrap (a : SIndex) (s : State) : Out :=
  issueScalar (.trap a) { rd := [a.toNat] } s fun s =>
    let x := rs s a
    trapIssued s .user (x.val.toNat % 256) { issueInfo s with data := x.val, dpois := x.poison }

/-- LAUNCH: the request goes to the queue manager; sd is held until it answers (R232). -/
def execLaunch (d a b : SIndex) (s : State) : Out :=
  issueScalar (.launch d a b) { rd := [a.toNat, b.toNat], wr := [d.toNat], ctr := [.st] } s fun s =>
    let q := rs s a
    let p := rs s b
    let k := s.cur.grp
    if q.poison || p.poison then poisonScalar s 4
    else if q.val.toNat / 2 ^ 12 ≠ 0 then trapIssued s .launch 1 { issueInfo s with addr := p.val.toNat }
    else
      let sl := curSlot s
      let g := s.grp k
      let after := (g.ops.filter (fun o => decide (o.cls = .st) && !o.done)).map (·.id)
      let r : LaunchReq := { grp := k, op := s.nextId, second := s.cur.second, sd := d, queue := q.val.toNat,
                             addr := p.val.toNat, after := after, ovlid := sl.ovlid, pc := sl.pc }
      let s := (foldWord s).bump
      let s := { s with launches := s.launches ++ [r] }
      .next (advance (s.modGrp k (fun g => { g with sbusy := g.sbusy ++ [⟨d, r.op, false⟩] })))

end Sys2Proof.Machine
end

