-- ==== Sys2Proof/Machine/Select.lean ====
section
/-!
DEFINITION. Issue selection (R109, R110): which groups may issue, what each offers, the order in which a partition
tries them, and the end of a lane word of the queue.
-/
namespace Sys2Proof.Machine

/-- What the module tries to do in a step: an event, the next lane word of a group, the next scalar word of a
slot, the word of a group's replay record. -/
inductive Attempt where
  | event (i : Instr) (x : Subject)
  | lane (k : Nat)
  | slot (k : Nat) (second : Bool)
  | replay (k : Nat)

/-- What a group offers, in the order of R109; the word of a replay record comes before any other (R363). -/
def offers (s : State) (k : Nat) : List Attempt :=
  let g := s.grp k
  let z := decide (g.slot1.lastIssue < g.slot0.lastIssue)
  if g.replay.isSome then [.replay k]
  else (if g.laneq.isEmpty then [] else [.lane k])
    ++ (if (g.slot z).live then [.slot k z] else []) ++ (if (g.slot (!z)).live then [.slot k (!z)] else [])

/-- The partition of a group: 16·core + partition. -/
def partOf (s : State) (k : Nat) : Nat := 16 * s.coreOf k + (s.grp k).partition

/-- Insertion of x before the first element it goes ahead of. -/
def insertBy (ahead : Nat → Nat → Bool) (x : Nat) : List Nat → List Nat
  | [] => [x]
  | y :: ys => if ahead x y then x :: y :: ys else y :: insertBy ahead x ys

def sortBy (ahead : Nat → Nat → Bool) (l : List Nat) : List Nat := l.foldr (insertBy ahead) []

/-- Groups that may issue. -/
def issuers (s : State) : List Nat := (s.groups.map (·.1)).filter (mayIssue s)

/-- Resident groups of a partition. -/
def residents (s : State) (p : Nat) : List Nat :=
  (s.groups.filter (fun x =>
    decide (16 * (s.team x.2.team).core + x.2.partition = p)
      && !(decide (x.2.phase = .absent) || decide (x.2.phase = .exited) || decide (x.2.phase = .saved)))).map (·.1)

/-- R110: an aged group goes ahead of others, the highest skip count first; then the older group. -/
def aheadOf (s : State) (p : Nat) (x y : Nat) : Bool :=
  let lim := 4 * (residents s p).length
  let a := s.grp x
  let b := s.grp y
  let ax := decide (lim ≤ a.skip)
  let ay := decide (lim ≤ b.skip)
  if ax && !ay then true
  else if !ax && ay then false
  else if ax && ay && decide (a.skip ≠ b.skip) then decide (b.skip < a.skip)
  else decide (a.age < b.age)

/-- Partitions with a group that may issue, from the one whose turn it is. -/
def turns (s : State) : List Nat :=
  let ps := sortBy (fun x y => decide (x < y)) ((issuers s).map (partOf s)).eraseDups
  ps.filter (fun p => decide (s.partNext ≤ p)) ++ ps.filter (fun p => decide (p < s.partNext))

/-- The attempts of a partition in order. -/
def partAttempts (s : State) (p : Nat) : List Attempt :=
  (sortBy (aheadOf s p) ((issuers s).filter (fun k => decide (partOf s k = p)))).flatMap (offers s)

/-- Every attempt to issue, partition after partition. -/
def issueAttempts (s : State) : List Attempt := (turns s).flatMap (partAttempts s)

/-- The word at a slot's program counter. -/
def slotWord (s : State) (k : Nat) (second : Bool) : Word :=
  let sl := (s.grp k).slot second
  scalarAt s (s.coreOf k) sl.islot sl.pc

/-- The subject of the scalar word at a slot's program counter. -/
def slotSubject (s : State) (k : Nat) (second : Bool) : Subject :=
  let sl := (s.grp k).slot second
  { noSubject with grp := k, second := second, mask := sl.mask, lxpc := sl.pc, ovlid := sl.ovlid,
                   word := (slotWord s k second).setWidth 96 }

/-- A slot whose reason keeps its word from being offered: it waits for its exit, or is parked on a stack access or on an overlay
that is being reloaded for it; a restored slot resolves the overlay it was parked on again (R105, R107, R123, R364). -/
def notOffering (g : Group) (second : Bool) : Bool :=
  match (g.slot second).reason with
  | .exitdrain => true
  | .pagefault => g.stackHeld && decide (g.stackBy = second)
  | .ovlcall | .ovlret | .ovlrestore => g.reloads.any (fun r => decide (r.second = second))
  | _ => false

/-- A side resumed with a WAITB waits for its phase (R117, R181); `none` once it is complete. -/
def sideWait (s : State) (k : Nat) (second : Bool) : Option State :=
  let g := s.grp k
  match (g.slot second).waitPhase with
  | some (b, t) =>
    if (g.slot second).issued || phaseDone ((s.team g.team).bar b) t then none
    else some (notOffered (s.modSlot k second (fun sl => { sl with reason := .barrier })))
  | none => none

/-- The block at the head of a group's lane queue. -/
def headBlock (s : State) (k : Nat) : Option LaneBlock := (s.grp k).laneq.head?

def blockWord (s : State) (k : Nat) (b : LaneBlock) : Lanes := laneAt s (s.coreOf k) b.islot (b.off + b.next)

/-- The subject of the next word of a block. -/
def laneSubject (s : State) (k : Nat) (b : LaneBlock) : Subject :=
  { noSubject with grp := k, second := b.second, mask := b.mask, widx := b.next, blk := b.id, lxpc := b.lxpc,
                   ovlid := b.ovlid, word := blockWord s k b }

/-- The next word of the lane queue has issued: the queue is at the word after it, and a block whose last word has
issued leaves (R112, R32). -/
def takeLaneWord (s : State) (k : Nat) : State :=
  s.modGrp k (fun g =>
    match g.laneq with
    | [] => g
    | b :: bs =>
      { g with laneRej := none, laneq := if b.next + 1 < b.count then { b with next := b.next + 1 } :: bs else bs })

/-- A lane word of the group issues (R110, R121). -/
def issueLaneWord (s : State) : State := if s.cur.replay then s else takeLaneWord (countIssue s) s.cur.grp

/-- A trap of the lane word being issued: it has no effect, and the queue is at its next word (R222, R253). -/
def trapLane (s : State) (cls : TrapClass) (sub : Nat) (x : TrapInfo) : State :=
  takeTrap (issueLaneWord s) s.cur.grp cls sub x

/-- ILLOP of the word being issued (R222): DATA is the first 8 bytes of the word (R407). -/
def illopInfo (s : State) : TrapInfo := { issueInfo s with data := s.cur.word.setWidth 64 }

/-- The other groups of the partition that offer a candidate count the skip (R110); the next partition has its turn. -/
def settleIssue (s : State) (p : Nat) (offered : List Nat) : State :=
  { offered.foldl (fun s k => s.modGrp k (fun g => { g with skip := g.skip + 1 })) s with partNext := p + 1 }

end Sys2Proof.Machine
end

