-- ==== Sys2Proof/Machine/Operands.lean ====
section
/-!
DEFINITION. Operand forms of the memory words: effective addresses and their regions (R283–R285), scalar and lane
addresses (R209, R290, R292), scratch as bytes with poison (R150, R286), the acting lanes of a lane word (R113, R213,
R258) and the checks and holds a lane word meets before its own effect.
-/
namespace Sys2Proof.Machine

/-! ## Regions (R283) -/

/-- Where an effective address lies: linear space, byte o of member m's scratch, byte o of own scratch. -/
inductive Loc where
  | lin (a : Nat)
  | win (m o : Nat)
  | own (o : Nat)
deriving DecidableEq, Repr

def windowBase : Nat := 0xFFFFFF0000000
def ownBase : Nat := 0xFFFFFFFF00000

/-- Regions an instruction accepts (R284). -/
structure Accepts where
  lin : Bool
  own : Bool
  win : Bool

def acceptsPlain : Accepts := ⟨true, true, false⟩
def acceptsRemote : Accepts := ⟨false, false, true⟩
def acceptsCopy : Accepts := ⟨true, true, true⟩

/-- MEM sub-codes (R285). -/
def memBadaddr : Nat := 1
def memScratch : Nat := 2
def memRscratch : Nat := 3
def memAlign : Nat := 4
def memBadsync : Nat := 5
def memNosys : Nat := 6
def memBindfull : Nat := 7
def memBadbind : Nat := 8
def memBadlen : Nat := 9
def memOverlap : Nat := 10
def memQdesc : Nat := 11
def memQsize : Nat := 12
def memXpartner : Nat := 13

/-- Member m of a team's cluster (R283): its handle. -/
def memberTeam (s : State) (t m : Nat) : Option Nat :=
  let x := s.team t
  let n := (s.kernel x.kernel).csize
  if n ≤ m then none
  else (s.teams.find? (fun p => decide (p.2.kernel = x.kernel) && decide (p.2.clusid = x.clusid)
      && decide (p.2.teamid = x.clusid * n + m) && decide (p.2.state ≠ .absent))).map (·.1)

/-- Bytes of scratch each member of a kernel has (R93). -/
def scratchBytes (s : State) (t : Nat) : Nat := (s.kernel (s.team t).kernel).ways * 16384

/-- The place of an access of n bytes at an address, or the MEM sub-code it traps with. -/
def locate (s : State) (t : Nat) (acc : Accepts) (a n : Nat) : Except Nat Loc :=
  if a < windowBase then
    if acc.lin && decide (a + n ≤ windowBase) then .ok (.lin a) else .error memBadaddr
  else if a < windowBase + 12 * 2 ^ 20 then
    if !acc.win then .error memBadaddr
    else
      let m := (a - windowBase) / 2 ^ 20
      let o := (a - windowBase) % 2 ^ 20
      if (s.kernel (s.team t).kernel).csize ≤ m || decide (scratchBytes s t < o + n) then .error memRscratch else .ok (.win m o)
  else if decide (ownBase ≤ a) && decide (a < ownBase + 2 ^ 20) then
    if !acc.own then .error memBadaddr
    else if scratchBytes s t < a - ownBase + n then .error memScratch else .ok (.own (a - ownBase))
  else .error memBadaddr

/-- A MEM trap among lanes' accesses: the least sub-code, the lanes it is raised for, the lowest one's address. -/
structure LaneFault where
  sub : Nat
  lanes : Lanes
  addr : Nat
deriving DecidableEq, Repr

/-- Two accesses' faults, the first of the lower lane (R285). -/
def joinFault (x y : LaneFault) : LaneFault :=
  if x.sub < y.sub then x else if y.sub < x.sub then y else { x with lanes := x.lanes ||| y.lanes }

/-- Each lane's result, or the fault of the least sub-code. -/
def allLanesOk {α : Type} : List (Nat × Nat × Except Nat α) → Except LaneFault (List (Nat × α))
  | [] => .ok []
  | (l, a, r) :: rest =>
    match r, allLanesOk rest with
    | .ok x, .ok xs => .ok ((l, x) :: xs)
    | .error e, .ok _ => .error ⟨e, (1 : Lanes) <<< l, a⟩
    | .ok _, .error f => .error f
    | .error e, .error f => .error (joinFault ⟨e, (1 : Lanes) <<< l, a⟩ f)

/-- The places of accesses of n bytes at each lane's address. -/
def locateAll (s : State) (t : Nat) (acc : Accepts) (n : Nat) (as : List (Nat × Nat)) : Except LaneFault (List (Nat × Loc)) :=
  allLanesOk (as.map (fun p => (p.1, p.2, locate s t acc p.2 n)))

/-- The address of a place, as the access names it. -/
def Loc.addr : Loc → Nat
  | .lin a => a
  | .win m o => windowBase + m * 2 ^ 20 + o
  | .own o => ownBase + o

/-! ## Addresses -/

/-- R209 SM: sa + sext(OFF10) × 2^SZ. The rules of the scalar, strided (R292), copy (R299) and cursor (R353) forms name no wrap of a sum
beyond 64 bits: it is taken modulo 2^64, as R290 states for the indexed form (DESIGN CHOICE, log 47). -/
def scalarAddr (base : DWord) (o : BitVec 10) (sz : Nat) : Nat := (base + o.signExtend 64 * BitVec.ofNat 64 (2 ^ sz)).toNat

/-- R290. -/
def lanePlace (base : DWord) (x : Word) (f : LaneFields) (disp : Word) : Nat :=
  let e : DWord := if xmodOu f then x.setWidth 64 else x.signExtend 64
  (base + e * BitVec.ofNat 64 (xmodScale f) + disp.signExtend 64).toNat

/-- R292. -/
def stridePlace (base : DWord) (lane : Nat) (f : LaneFields) : Nat :=
  (base + BitVec.ofNat 64 lane * f.imm.signExtend 64).toNat

/-! ## Scratch -/

/-- The array place of byte o of a team's scratch (R372): way and offset as one key. -/
def scratchKey (t : Team) (o : Nat) : Nat := (t.ways[o / 16384]?.getD 0) * 16384 + o % 16384

def scratchGet (s : State) (t o : Nat) : PByte :=
  let x := s.team t
  let c := s.core x.core
  let k := scratchKey x o
  ⟨AMap.get 0 c.scratch k, AMap.get false c.scratchPoison (k / 32)⟩

def scratchRead (s : State) (t o n : Nat) : List PByte := (byteAddrs o n).map (scratchGet s t)

/-- A write of bytes at scratch offsets: a poisoned byte poisons its sector, clean bytes clear it only where all 32 are
written (R286). -/
def scratchWrite (s : State) (t : Nat) (bs : List (Nat × PByte)) : State :=
  let x := s.team t
  let ks := bs.map (fun b => (scratchKey x b.1, b.2))
  let secs := (ks.map (fun b => b.1 / 32)).eraseDups
  s.modCore x.core (fun c =>
    { c with
      scratch := ks.foldl (fun m b => AMap.set 0 m b.1 b.2.val) c.scratch,
      scratchPoison := secs.foldl (fun m sec =>
        let w := ks.filter (fun b => decide (b.1 / 32 = sec))
        if w.any (·.2.poison) then AMap.set false m sec true
        else if (w.map (·.1)).eraseDups.length = 32 then AMap.set false m sec false else m) c.scratchPoison })

/-- The sector of a team's scratch that holds an offset is clean. -/
def scratchClean (s : State) (t o : Nat) : State :=
  let x := s.team t
  s.modCore x.core (fun c => { c with scratchPoison := AMap.set false c.scratchPoison (scratchKey x o / 32) false })

/-- The place j bytes on. -/
def Loc.plus (l : Loc) (j : Nat) : Loc :=
  match l with
  | .lin a => .lin (a + j)
  | .own o => .own (o + j)
  | .win m o => .win m (o + j)

/-- The low n bytes of a value with its poison at consecutive places. -/
def valueAt (l : Loc) (n : Nat) (v : DWord) (p : Bool) : List (Loc × PByte) :=
  (List.range n).zip (leBytes n v.toNat) |>.map (fun b => (l.plus b.1, ⟨b.2, p⟩))

/-- Bytes paired with consecutive places. -/
def bytesAt (a : Nat) (bs : List PByte) : List (Nat × PByte) := (List.range bs.length).zip bs |>.map (fun p => (a + p.1, p.2))

/-- Later bytes replace earlier ones at the same place (R148). -/
def lastBytes (bs : List (Nat × PByte)) : List (Nat × PByte) :=
  bs.foldl (fun m b => AMap.put m b.1 b.2) []

/-! ## Lane words: acting lanes, checks, holds -/

/-- Lanes of the mask where the guard is true (R113, R213). -/
def actingLanes (g : Group) (mask : Lanes) (f : LaneFields) : Lanes :=
  if f.pg = 0 then mask
  else
    let b := (g.pred f.pg.toNat).bits
    mask &&& (if f.pn then ~~~b else b)

/-- A poisoned guard bit in a lane of the mask (R258). -/
def guardPoison (g : Group) (mask : Lanes) (f : LaneFields) : Lanes :=
  if f.pg = 0 then 0 else mask &&& (g.pred f.pg.toNat).poison

/-- A POISON signal of the lane word being issued; the word has no other effect (R258, R396). -/
def poisonLane (s : State) (sub : Nat) (lanes : Lanes) : Out :=
  .next (signalPoison (issueLaneWord s) s.cur.grp sub { issueInfo s with lanes := lanes })

/-- A MEM trap of a lane word. -/
def memTrapLane (s : State) (f : LaneFault) : Out :=
  .next (trapLane s .mem f.sub { issueInfo s with addr := f.addr, lanes := f.lanes })

/-- Lanes whose elements of a register are poisoned. -/
def poisonedIn (g : Group) (act : Lanes) (r : Nat) : Lanes :=
  maskOf ((lanesOf act).filter (fun l => (g.velt r l).poison))

/-- What a lane word meets before its own effect: ILLOP (R215, R221), the results it waits for (R31, R257), a poisoned
guard (R258). A replayed word acts in its recorded lanes (R363). -/
def issueLane (op : LaneOp) (f : LaneFields) (s : State) (body : Lanes → State → Out) : Out :=
  let g := s.grp s.cur.grp
  match firstIllop (laneCheck op f) (grantCheck g.grant op f) with
  | some e => .next (trapLane s .illop (illopCode e) (illopInfo s))
  | none =>
    if s.cur.replay then body s.cur.mask s
    else if laneBusy g [(op, f)] then .next (notOffered s)
    else
      let bad := guardPoison g s.cur.mask f
      if bad ≠ 0 then poisonLane s 3 bad
      else body (actingLanes g s.cur.mask f) s

/-- COUNTER, or PAGEFAULT where a parked word holds a class waited on (R361). -/
def counterReason (g : Group) (cs : List CtrClass) : Reason :=
  if g.ops.any (fun o => o.parked && cs.contains o.cls) then .pagefault else .counter

/-- A lane word whose counter is full does not issue, and its slot waits with COUNTER (R174). -/
def laneCounter (s : State) (cls : CtrClass) : State :=
  if ((s.grp s.cur.grp).slot s.cur.second).live then waitFor s (counterReason (s.grp s.cur.grp) [cls]) else notOffered s

/-- The holds of a lane word of class M that raises a counter: an ACQ or FENCE of its slot (R159, R163), a full counter
(R174). With no acting lane it issues and does nothing (R113). -/
def issueMemLane (op : LaneOp) (f : LaneFields) (cls : CtrClass) (fenced : Bool) (s : State)
    (body : Lanes → State → Out) : Out :=
  issueLane op f s fun act s =>
    let g := s.grp s.cur.grp
    if act = 0 then .next (issueLaneWord s)
    else if laneHeld g s.cur.blk fenced then .next (notOffered s)
    else if decide (63 ≤ g.count cls) && !s.cur.replay then .next (laneCounter s cls)
    else body act s

/-- A scalar operand of a lane word. -/
def laneScalar (s : State) (v : BitVec 9) : SReg := readS s s.cur.grp s.cur.second v.toNat

/-- Poisoned address operands of a lane word: the base register, then the offset elements (R286, R396 ADDRESS). -/
def addrPoison (s : State) (act : Lanes) (bases : List (BitVec 9)) (offs : List (BitVec 9)) : Lanes :=
  if bases.any (fun v => (laneScalar s v).poison) then act
  else offs.foldl (fun m v => m ||| poisonedIn (s.grp s.cur.grp) act v.toNat) 0

/-- A lane's element of a register. -/
def laneElt (s : State) (v : BitVec 9) (lane : Nat) : LElt := (s.grp s.cur.grp).velt v.toNat lane

/-- A lane's value of 2^sz bytes: an element, or a pair for a dword (R215). -/
def laneValue (s : State) (v : BitVec 9) (lane sz : Nat) : DWord × Bool :=
  let x := laneElt s v lane
  if sz = 3 then
    let y := (s.grp s.cur.grp).velt (v.toNat + 1) lane
    (y.val ++ x.val, x.poison || y.poison)
  else (x.val.setWidth 64, x.poison)

/-! ## Scalar memory words: holds -/

/-- A lane word that REL, FENCE, an arrival or maintenance of the slot must follow is still queued (R147, R158, R163,
R183). -/
def queuedMemory (s : State) (k : Nat) (second : Bool) : Bool :=
  (queuedBefore s k second).any (fun p =>
    match laneClass p.1 with
    | some .ld | some .st | some .gr => true
    | _ => false)

/-- A scalar access waits for the lane stores of its slot that come before it and are still queued: else it would miss its slot's own
earlier store, or be passed by it (R153; DEDUCED, log 47). -/
def behindLaneStore (s : State) : Bool :=
  (queuedBefore s s.cur.grp s.cur.second).any (fun p => decide (p.1 = .vst) || decide (p.1 = .vsts))

/-- Operations that a REL, a FENCE or an arrival of the slot waits for (R158, R163, R183). -/
def fencedPending (g : Group) (second : Bool) : List Nat :=
  (g.ops.filter (fun o => o.fenced && !o.done && (g.slot second).follows o)).map (·.id)

/-- A scalar word of a counter class: held behind an ACQ or FENCE, a poisoned address, a full counter. -/
def scalarMemory (i : Instr) (n : Needs) (cls : CtrClass) (fenced : Bool) (addrs : List SIndex) (s : State)
    (body : State → Out) : Out :=
  issueScalar i n s fun s =>
    let g := s.grp s.cur.grp
    if memoryHeld g s.cur.second fenced then .next (keepBack s)
    else if addrs.any (fun r => (rs s r).poison) then poisonScalar s 1
    else if decide (63 ≤ g.count cls) && !s.cur.replay then .next (waitFor s (counterReason g [cls]))
    else body s

/-- A MEM trap of a scalar word. -/
def memTrap (s : State) (sub addr : Nat) : Out := trapIssued s .mem sub { issueInfo s with addr := addr }

end Sys2Proof.Machine
end

