-- ==== Sys2Proof/Machine/LoadStore.lean ====
section
/-!
DEFINITION. The machinery of loads, stores and atomics (R148–R151, R168, R286, R287, R361): how a load's bytes are
resolved, how its destinations are written, how stores join the FIFO, how requests are sent, and when an operation
has reached its falling point.
-/
namespace Sys2Proof.Machine

/-! ## Destinations -/

def sextTo (n : Nat) (bits : Nat) (v : Nat) : Nat :=
  (((BitVec.ofNat 64 v).setWidth bits).signExtend n).toNat

/-- The value of the bytes of an access of 2^SZ bytes, extended to n bits (R211, R290). -/
def loadValue (n sz : Nat) (sext : Bool) (bs : List PByte) : Nat :=
  if sext then sextTo n (8 * 2 ^ sz) (pvalue bs) else pvalue bs

/-- Write a lane's element, or the pair for a dword (R215, R258). -/
def Group.putLane (g : Group) (vd lane sz : Nat) (v : Nat) (p : Bool) : Group :=
  let g := g.setVelt vd lane ⟨BitVec.ofNat 32 v, p⟩
  if sz = 3 then g.setVelt (vd + 1) lane ⟨BitVec.ofNat 32 (v / 2 ^ 32), p⟩ else g

/-- An activation bank's word i (R275). -/
def bankWord (bs : List PByte) (i : Nat) : Word := BitVec.ofNat 32 (pvalue ((bs.drop (4 * i)).take 4))

/-- The current and the other activation bank of a core (R276). -/
def Core.actBank (c : Core) (bank : Nat) : ActBank := if bank = 0 then c.act0 else c.act1
def Core.setAct (c : Core) (bank : Nat) (b : ActBank) : Core :=
  if bank = 0 then { c with act0 := b } else { c with act1 := b }

/-- All 516 words of an activation image enter a bank (R276). -/
def fillBank (asid : Nat) (bs : List PByte) : ActBank :=
  { tag := asid,
    words := (List.range 516).foldl (fun m i => AMap.set 0 m i (bankWord bs i)) [],
    poison := (List.range 516).filter (fun i => ppoison ((bs.drop (4 * i)).take 4)) }

/-- A window lane (R279, R280): `win` is the new window with WIN clear, `skip` the bits of the first fetched byte before
WIN. -/
def windowElt (win : DWord) (skip : Nat) (bs : List PByte) : WElt :=
  ⟨win ||| BitVec.ofNat 64 (pvalue bs / 2 ^ skip % 2 ^ 16), ppoison bs⟩

/-- A cursor's 16-byte record (R204). -/
def cursorOfBytes (bs : List PByte) : Cursor :=
  let n (o w : Nat) : Nat := pvalue ((bs.drop o).take w)
  let f : BitVec 8 := BitVec.ofNat 8 (n 13 1)
  { gid := BitVec.ofNat 16 (n 14 2), isOpen := f.getLsbD 7, live := f.getLsbD 6, inList := f.getLsbD 5,
    atEnd := f.getLsbD 4, slot := f.extractLsb' 0 4, segpos := BitVec.ofNat 32 (n 8 4), seqs := BitVec.ofNat 32 (n 4 4),
    vertex := BitVec.ofNat 32 (n 0 4) }

/-- The bytes of one access of a load reach its destination. -/
def writePiece (s : State) (k : Nat) (pl : PendLoad) (p : LoadPiece) : State :=
  let bs := p.got.map (fun b => b.getD ⟨0, false⟩)
  match pl.dest with
  | .scalar sd sz sext =>
    s.modGrp k (fun g => g.writeS (g.opSecond pl.op) sd.toNat ⟨BitVec.ofNat 64 (loadValue 64 sz sext bs), ppoison bs⟩)
  | .lane vd sz sext => s.modGrp k (fun g => g.putLane vd p.lane sz (loadValue 32 sz sext bs) (ppoison bs))
  | .window n => s.modGrp k (fun g => { (g.setWin n p.lane (windowElt p.win p.skip bs)) with wvalid := g.wvalid ||| ((1 : BitVec 4) <<< n) })
  | .pattern e =>
    s.modCore (s.coreOf k) (fun c =>
      { c with patterns := AMap.put c.patterns e ⟨s.asidOf k, bs.map (·.val), ppoison bs⟩ })
  | .actBank b => s.modCore (s.coreOf k) (fun c => c.setAct b (fillBank (s.asidOf k) bs))
  | .cursor n => s.modGrp k (fun g => g.setCursor n p.lane (cursorOfBytes bs))

/-- The operation has no load bytes, requests, stores or answers left to come. -/
def opEmpty (s : State) (k op : Nat) : Bool :=
  let g := s.grp k
  !(g.loads.any (fun l => decide (l.op = op))) && !(g.fetches.any (fun f => decide (f.op = op)))
    && !(g.fifo.any (fun e => decide (e.op = op))) && !(s.remotes.any (fun r => decide (r.op = op))) && !(s.gops.any (fun x => decide (x.op = op)))

/-- The operation ends once nothing of it is left (R173). -/
def endIfEmpty (s : State) (k op : Nat) : State :=
  if opEmpty s k op then s.modGrp k (fun g => g.finish op) else s

def LoadPiece.whole (p : LoadPiece) : Bool := p.got.all (·.isSome)

/-- A load whose destination a step of its own writes (R272, R276, R280, R353). -/
def LoadDest.byStep : LoadDest → Bool
  | .window _ | .pattern _ | .actBank _ | .cursor _ => true
  | _ => false

/-- Pieces with all bytes are written; the load stays for the others. -/
def settleLoad (s : State) (k op : Nat) : State :=
  match (s.grp k).loads.find? (fun l => decide (l.op = op)) with
  | none => s
  | some pl =>
    if pl.dest.byStep then s
    else
      let s := (pl.pieces.filter (·.whole)).foldl (fun s p => writePiece s k pl p) s
      let rest := pl.pieces.filter (fun p => !p.whole)
      s.modGrp k (fun g =>
        { g with loads := if rest.isEmpty then g.loads.filter (fun l => decide (l.op ≠ op))
                          else g.loads.map (fun l => if l.op = op then { l with pieces := rest } else l) })

/-! ## Loads (R151 Issue) -/

/-- A byte in the group's own FIFO, from the youngest entry that holds it. -/
def fifoByte (g : Group) (asid a : Nat) : Option PByte :=
  g.fifo.reverse.findSome? (fun e =>
    if e.asid = asid then (e.bytes.find? (fun b => decide (b.1 = a))).map (·.2) else none)

/-- A byte of linear memory the issue of a load can resolve: from the FIFO, or from L1 where every other byte of its
aligned 8-byte piece that the load reads, for whichever lane, is there too (R148, R149, R151). -/
def resolveByte (s : State) (k : Nat) (addrs : List Nat) (a : Nat) : Option PByte :=
  let g := s.grp k
  let asid := s.asidOf k
  let c := s.coreOf k
  match fifoByte g asid a with
  | some b => some b
  | none =>
    let piece := addrs.filter (fun x => decide (x / 8 = a / 8))
    if piece.all (fun x => (fifoByte g asid x).isSome || (l1Byte s c asid x).isSome) then l1Byte s c asid a else none

/-- One access of a load, at consecutive bytes: own scratch is read at its array (R151); a byte of linear memory is resolved once
the bytes of every lane are known. -/
def resolvePiece (s : State) (k : Nat) (lane : Nat) (loc : Loc) (n : Nat) : LoadPiece :=
  match loc with
  | .lin a => ⟨lane, byteAddrs a n, List.replicate n none, 0, 0⟩
  | .own o => ⟨lane, [], (scratchRead s (s.grp k).team o n).map some, 0, 0⟩
  | .win m o => ⟨lane, byteAddrs (Loc.win m o).addr n, List.replicate n none, 0, 0⟩

/-- Bytes still to come, each by its address; what a piece has it keeps. -/
def LoadPiece.fill (p : LoadPiece) (byte : Nat → Option PByte) : LoadPiece :=
  if p.addrs.isEmpty then p else { p with got := (p.addrs.zip p.got).map (fun b => b.2 <|> byte b.1) }

/-- Bytes a load has still to get. -/
def wanted (ps : List LoadPiece) : List Nat :=
  (ps.flatMap (fun p => (p.addrs.zip p.got).filterMap (fun b => if b.2.isNone then some b.1 else none))).eraseDups

/-- The bytes of linear memory the issue of a load resolves; lanes that name one byte get one value (R148). -/
def resolvePieces (s : State) (k : Nat) (ps : List LoadPiece) : List LoadPiece :=
  let addrs := (wanted ps).filter (fun a => decide (a < windowBase))
  ps.map (fun p => p.fill (fun a => if a < windowBase then resolveByte s k addrs a else none))

/-- Sectors of linear memory a load must fetch. -/
def missing (ps : List LoadPiece) : List Nat :=
  (((wanted ps).filter (fun a => decide (a < windowBase))).map (· / 32)).eraseDups

/-- 128-byte blocks of other members' scratch a load must read: the address of each block's first byte over 128, and
its bytes. -/
def remoteBlocks (as : List Nat) : List (Nat × List Nat) :=
  let ws := as.filter (fun a => decide (windowBase ≤ a))
  ((ws.map lineOf).eraseDups).map (fun b => (b, ws.filter (fun a => decide (lineOf a = b))))

/-- Bytes that have come reach every piece that waits for them; a piece that has them keeps them (R148). -/
def takeBytes (pl : PendLoad) (bs : List (Nat × PByte)) : PendLoad :=
  { pl with pieces := pl.pieces.map (fun p => p.fill (fun a => (bs.find? (fun y => decide (y.1 = a))).map (·.2))) }

/-- Lines of L1 a load takes bytes from are used, and normal unless it asks for spall (R371). -/
def touchL1 (s : State) (c asid : Nat) (lines : List Nat) (spall : Bool) : State :=
  lines.foldl (fun s l =>
    match l1Line s c asid l with
    | some x => setL1 s c asid l { x with used := true, spall := x.spall && spall, last := s.steps }
    | none => s) s

/-! ## Remote requests (R293, R294) -/

/-- Key of the numbers of one requesting core at one block of a member's scratch. -/
def remKey (core kernel cluster member block : Nat) : Nat :=
  (((kernel * 2 ^ 32 + cluster) * 16 + member) * 256 + core) * 2 ^ 14 + block

/-- A numbered request of the group's core to a block of member m of its cluster. -/
def sendRemote (s : State) (k op m block : Nat) (b : RemBody) : State :=
  let t := s.teamOf k
  let key := remKey t.core t.kernel t.clusid m block
  let n := AMap.get 0 s.remSend key
  let r : RemReq := { id := s.nextId, requester := t.core, grp := k, op := op, kernel := t.kernel, cluster := t.clusid,
                      member := m, block := block, num := n, body := b, here := false, done := false }
  let dest := match memberTeam s (s.grp k).team m with
    | some u => (s.team u).core
    | none => t.core
  packet { s with nextId := s.nextId + 1, remSend := AMap.put s.remSend key (n + 1), remotes := s.remotes ++ [r] } (1000 + t.core)
    (t.core / 2 % 96) 0 0 (.array r.id dest)

/-- Member and block of a window line (address over 128). -/
def windowMember (line : Nat) : Nat := (line * 128 - windowBase) / 2 ^ 20
def windowOffset (a : Nat) : Nat := (a - windowBase) % 2 ^ 20

/-- The load issues: its pieces resolved, a Fetch of each missing sector started, a request for each block of remote
scratch sent, its counter raised (R151, R173). `after` is what the word's issue does first; `own` adds the bytes that
wait for requests of another kind. -/
def issueLoad (s : State) (cls : CtrClass) (dest : LoadDest) (spall : Bool) (ps : List LoadPiece)
    (after : State → State) (sd : Option SIndex) : Out :=
  let k := s.cur.grp
  let c := s.coreOf k
  let ps := resolvePieces s k ps
  let need := missing ps
  let rem := remoteBlocks (wanted ps)
  if mshrFree s c < need.length + rem.length then .next (reject s (need.length + rem.length) 0)
  else
    let (s, op) := startOp (after s) cls true
    let s := touchL1 s c (s.asidOf k) ((ps.flatMap (·.addrs)).map lineOf).eraseDups spall
    let s := s.modGrp k (fun g =>
      { g with
        loads := g.loads ++ [⟨op, dest, ps, spall⟩],
        fetches := g.fetches ++ need.map (fun sec => ⟨op, sec / 4, .fetch (sec % 4) spall, none, false, none, []⟩),
        sbusy := match sd with
          | some d => if d = 0 then g.sbusy else g.sbusy ++ [⟨d, op, false⟩]
          | none => g.sbusy })
    let s := rem.foldl (fun s b =>
      sendRemote s k op (windowMember b.1) (windowOffset (b.1 * 128) / 128) (.load (b.2.map windowOffset))) s
    .next (endIfEmpty (settleLoad s k op) k op)

/-! ## Stores (R148, R151 Issue, Drain) -/

/-- The store issues: its linear bytes join the FIFO, one entry for each line; bytes of own scratch are written at the
array; each block of remote scratch gets a request (R151, R287, R293). -/
def issueStore (s : State) (spall : Bool) (bytes : List (Loc × PByte)) (after : State → State) : Out :=
  let k := s.cur.grp
  let g := s.grp k
  let lin := lastBytes (bytes.filterMap (fun b => match b.1 with | .lin a => some (a, b.2) | _ => none))
  let own := lastBytes (bytes.filterMap (fun b => match b.1 with | .own o => some (o, b.2) | _ => none))
  let win := lastBytes (bytes.filterMap (fun b => match b.1 with | .win m o => some ((Loc.win m o).addr, b.2) | _ => none))
  let lines := linesTouched lin
  let rem := linesTouched win
  if decide (fifoFree s k < lines.length) || decide (mshrFree s (s.coreOf k) < rem.length) then .next (reject s rem.length lines.length)
  else
    let (s, op) := startOp (after s) .st true
    let s := scratchWrite s g.team own
    let asid := s.asidOf k
    let es := lines.map (fun l => (⟨op, asid, lin.filter (fun b => decide (lineOf b.1 = l)), spall⟩ : StoreEnt))
    let s := s.modGrp k (fun g => { g with fifo := g.fifo ++ es })
    let s := rem.foldl (fun s l =>
      sendRemote s k op (windowMember l) (windowOffset (l * 128) / 128)
        (.store ((win.filter (fun b => decide (lineOf b.1 = l))).map (fun b => (windowOffset b.1, b.2))))) s
    .next (endIfEmpty s k op)

/-! ## Requests of a group -/

/-- The line of a request may be sent to its slice: an atomic first has the core's dirty bytes of its sector written
back, its clean copy dropped and Fills in flight marked stale (R168); it waits for a write-back in flight. -/
def readyToSend (s : State) (k : Nat) (f : Fetch) : Option State :=
  let c := s.coreOf k
  let asid := s.asidOf k
  match f.body with
  | .atomic _ _ a _ _ _ =>
    match l1Line s c asid f.line with
    | none => some (staleFills s c asid f.line (some (a / 32 % 4)))
    | some x =>
      let sec := a / 32 % 4
      let m : BitVec 128 := (0xFFFFFFFF : BitVec 128) <<< (32 * sec)
      if x.dirty &&& m ≠ 0 && x.wb then none
      else
        let s := if x.dirty &&& m ≠ 0 then sendWriteBack s c asid f.line else s
        let s := match l1Line s c asid f.line with
          | some y =>
            let v := y.valid &&& ~~~m
            if v = 0 && y.dirty = 0 then dropL1 s c asid f.line else setL1 s c asid f.line { y with valid := v }
          | none => s
        some (staleFills s c asid f.line (some sec))
  | _ => some s

/-- Send a request of a group that has not been sent. -/
def sendFetch (s : State) (k : Nat) (f : Fetch) : State :=
  match readyToSend s k f with
  | none => notOffered s
  | some s =>
    let id := s.nextId
    let s := sendReq s (s.coreOf k) k f.op (s.asidOf k) f.line f.body
    s.modGrp k (fun g =>
      { g with fetches := g.fetches.map (fun x =>
          if x.op = f.op && decide (x.line = f.line) && x.sent.isNone && x.faulted.isNone && decide (x.body = f.body) then { x with sent := some id } else x) })

/-- Requests of an operation are sent at once where they can be (R151 Issue). -/
def sendNow (s : State) (k op : Nat) : State :=
  let h := s.cur.held
  let s := ((s.grp k).fetches.filter (fun f => decide (f.op = op) && f.sent.isNone)).foldl (fun s f => sendFetch s k f) s
  { s with cur := { s.cur with held := h } }

/-! ## Atomics (R168, R295) -/

/-- FN order of R295. -/
def atomicValue (op size : Nat) (old operand cmp : DWord) : DWord :=
  let w (x : DWord) : DWord := if size = 4 then (x.setWidth 32 : Word).setWidth 64 else x
  let o := w old
  let b := w operand
  let sg (x : DWord) : Int := if size = 4 then (x.setWidth 32 : Word).toInt else x.toInt
  w (match op with
    | 0 => o + b
    | 1 => b
    | 2 => if o = w cmp then b else o
    | 3 => o &&& b
    | 4 => o ||| b
    | 5 => o ^^^ b
    | 6 => if sg o ≤ sg b then o else b
    | 7 => if sg o ≤ sg b then b else o
    | 8 => if o.toNat ≤ b.toNat then o else b
    | 9 => if o.toNat ≤ b.toNat then b else o
    | _ => BitVec.ofNat 64 (fpAdd fp32 0 o.toNat b.toNat).1)

/-- One lane's atomic: its place, operand and comparand. -/
structure AtomLane where
  lane : Nat
  loc : Loc
  operand : DWord
  cmp : DWord

/-- An atomic in own scratch, at the array: the old bytes, and the state after it; a poisoned sector is left as it
is (R286). -/
def ownAtomic (s : State) (t : Nat) (op n o : Nat) (operand cmp : DWord) : List PByte × State :=
  let old := scratchRead s t o n
  if ppoison old then (old, s)
  else (old, scratchWrite s t (bytesAt o (cleanBytes n (atomicValue op n (BitVec.ofNat 64 (pvalue old)) operand cmp).toNat)))

/-- A poisoned memory operand was met: POISON, ATOMIC, when the answer returns (R286). -/
def poisonAnswer (s : State) (k op : Nat) : State :=
  signalPoison s k 2 (opInfo (s.grp k) op)

/-- The bytes an atomic's answer brings a lane. -/
def answerLane (s : State) (k op lane : Nat) (bs : List PByte) : State :=
  s.modGrp k (fun g =>
    { g with loads := g.loads.map (fun l =>
        if l.op = op then { l with pieces := l.pieces.map (fun p => if p.lane = lane then { p with got := bs.map some } else p) }
        else l) })

/-- The atomic issues: own-scratch lanes are performed at the array in ascending VID, the others sent in ascending VID
(R148, R168, R295). -/
def issueAtomic (s : State) (dest : LoadDest) (op n : Nat) (ls : List AtomLane) (after : State → State)
    (sd : Option SIndex) : Out :=
  let k := s.cur.grp
  let lin := ls.filterMap (fun l => match l.loc with | .lin a => some (l, a) | _ => none)
  if mshrFree s (s.coreOf k) < lin.length then .next (reject s lin.length 0)
  else
    let (s, id) := startOp (after s) .ld true
    let s := s.modGrp k (fun g =>
      { g with
        loads := g.loads ++ [⟨id, dest, ls.map (fun l => ⟨l.lane, [], List.replicate n none, 0, 0⟩), false⟩],
        fetches := g.fetches ++ lin.map (fun p =>
          ⟨id, lineOf p.2, .atomic op n p.2 p.1.operand p.1.cmp p.1.lane, none, false, none, []⟩),
        sbusy := match sd with
          | some d => if d = 0 then g.sbusy else g.sbusy ++ [⟨d, id, false⟩]
          | none => g.sbusy })
    let (s, bad) := ls.foldl (fun (x : State × Bool) l =>
      match l.loc with
      | .own o =>
        let (old, s) := ownAtomic x.1 (s.grp k).team op n o l.operand l.cmp
        if ppoison old then (answerLane s k id l.lane old, true) else (answerLane s k id l.lane old, x.2)
      | _ => x) (s, false)
    let s := endIfEmpty (settleLoad (sendNow s k id) k id) k id
    .next (if bad then poisonAnswer s k id else s)

end Sys2Proof.Machine
end

