-- ==== Sys2Proof/Machine/Sync.lean ====
section
/-!
DEFINITION. Order and waiting: REL, ACQ, BIND, UNBIND, FENCE, cache maintenance (R154–R163, R301–R304), WAIT and
WAITR (R173–R177, R305, R306), and team barriers (R178–R185, R307), with the steps that complete them.
-/
namespace Sys2Proof.Machine

/-! ## Lines and bindings -/

/-- The line has dirty bytes in the core's L1, or a write-back that is not performed. -/
def unclean (s : State) (c asid line : Nat) : Bool :=
  writesInFlight s c asid line || (match l1Line s c asid line with | some x => decide (x.dirty ≠ 0) | none => false)

/-- Lines of a context in the core's L1 or on their way from it. -/
def linesAt (s : State) (c asid : Nat) (p : Nat → Bool) : List Nat :=
  let here : List Nat := (s.core c).l1.filterMap (fun (x : Nat × L1Line) => if x.1 / 2 ^ 45 = asid then some (x.1 % 2 ^ 45) else none)
  let sent : List Nat := (messages s).filterMap (fun (m : Msg) =>
    if m.requester = c && m.asid = asid && (match m.body with | .req _ | .rep _ => true | _ => false) then some m.line else none)
  (here ++ sent).eraseDups.filter p

/-- Write-backs are sent where they can be; the lines still to be waited for, and whether anything was sent. -/
def cleanStep (s : State) (c asid : Nat) (ls : List Nat) : State × List Nat × Bool :=
  let send := ls.filter (fun l => match l1Line s c asid l with | some x => decide (x.dirty ≠ 0) && !x.wb | none => false)
  let s := send.foldl (fun s l => sendWriteBack s c asid l) s
  (s, ls.filter (unclean s c asid), !send.isEmpty)

/-- Fills in flight to the core for sectors of lines a test picks are marked stale (R159). -/
def staleWhere (s : State) (c asid : Nat) (p : Nat → Bool) : State :=
  let ls := ((groupsOn s c).flatMap (fun k => if s.asidOf k = asid then (s.grp k).fetches.map (·.line) else [])).eraseDups
  (ls.filter p).foldl (fun s l => staleFills s c asid l none) s

/-- The line holds a byte of the region bound to a sync word (R156). -/
def boundLine (x : Ctx) (w line : Nat) : Bool :=
  x.binds.any (fun e => e.2.valid && decide (e.2.sync = w) && decide (e.2.base < line * 128 + 128)
    && decide (line * 128 < e.2.base + e.2.len))

/-- L2 lines of a context in host or peer pages. -/
def farLines (s : State) (asid : Nat) (p : Nat → Bool) : List (Nat × L2Line) :=
  s.l2.filterMap (fun x =>
    if decide (x.1 / 2 ^ 45 = asid) && (decide (x.2.tgt = 1) || decide (x.2.tgt = 2)) && p (x.1 % 2 ^ 45) then some (x.1 % 2 ^ 45, x.2) else none)

/-- Dirty L2 bytes of such lines go to the backing memory. -/
def flushFar (s : State) (asid : Nat) (p : Nat → Bool) : State :=
  (farLines s asid p).foldl (fun s x =>
    if x.2.dirty = 0 then s
    else { backWrite s asid x.1 x.2 with l2 := AMap.put s.l2 (lineKey asid x.1) { x.2 with dirty := 0 } }) s

/-- Bytes of such a line are on their way to the backing memory, or a peer has not answered for them. -/
def farAway (s : State) (asid : Nat) (p : Nat → Bool) : Bool :=
  (messages s).any (fun m => decide (m.asid = asid) && p m.line && (match m.body with | .dirty _ => true | _ => false))
    || s.peerReqs.any (fun r => decide (r.asid = asid) && p r.line && (match r.body with | .write _ => true | _ => false))

/-- Before `go`, dirty bytes of the lines in host and peer pages are written to the backing memory (R158, R162, R166): sent, then
waited for. -/
def afterFlush (s : State) (asid : Nat) (p : Nat → Bool) (go : Out) : Out :=
  if (farLines s asid p).any (fun x => decide (x.2.dirty ≠ 0)) then .next (flushFar s asid p)
  else if farAway s asid p then .next (notOffered s)
  else go

/-! ## Sync words (R154, R302) -/

/-- The place of a sync word, or the MEM sub-code. -/
def syncPlace (s : State) (k scope addr : Nat) : Except Nat Loc :=
  match locate s (s.grp k).team acceptsCopy addr 8 with
  | .error e => .error e
  | .ok l =>
    if addr % 8 ≠ 0 then .error memAlign
    else
      let ok := match l with
        | .lin _ => true
        | .own _ => decide (scope ≤ 1)
        | .win _ _ => decide (scope = 1)
      if !ok then .error memBadsync
      else if decide (scope = 3) && !(s.ctx (s.asidOf k)).sys then .error memNosys
      else .ok l

def Group.setSync (g : Group) (op : Nat) (f : SyncOp → SyncOp) : Group :=
  { g with syncs := g.syncs.map (fun y => if y.op = op then f y else y) }

def Group.endSync (g : Group) (op : Nat) : Group :=
  ({ g with syncs := g.syncs.filter (fun y => decide (y.op ≠ op)) }).finish op

/-- ACQ (R159): LD rises, the word is read at its point, later words of the slot are held. -/
def acquire (i : Instr) (scope : Nat) (d a : SIndex) (s : State) : Out :=
  scalarMemory i { rd := [a.toNat], wr := [d.toNat] } .ld true [a] s fun s =>
    let k := s.cur.grp
    let z := s.cur.second
    let addr := (rs s a).val.toNat
    if bindHeld (s.grp k) z then .next (keepBack s)
    else match syncPlace s k scope addr with
      | .error sub => memTrap s sub addr
      | .ok loc =>
        if !(match loc with | .own _ => true | _ => false) && decide (mshrFree s (s.coreOf k) = 0) then .next (reject s 1 0)
        else
          let (s, op) := startOp (foldWord s) .ld true
          let y : SyncOp := { op := op, isRel := false, scope := scope, word := addr, value := zeroReg, sd := d,
                              after := [], lines := none, answer := none, sent := true }
          let s := s.modGrp k (fun g =>
            { (g.modSlot z (fun sl => { sl with acqHold := sl.acqHold.filter g.pending ++ [op] })) with
              syncs := g.syncs ++ [y], sbusy := if d = 0 then g.sbusy else g.sbusy ++ [⟨d, op, false⟩] })
          .next (advance (match loc with
            | .lin a => sendNow (s.modGrp k (fun g => { g with fetches := g.fetches ++ [⟨op, lineOf a, .acq a, none, false, none, []⟩] })) k op
            | .own o =>
              let bs := scratchRead s (s.grp k).team o 8
              s.modGrp k (fun g => g.setSync op (fun y => { y with answer := some ⟨BitVec.ofNat 64 (pvalue bs), ppoison bs⟩ }))
            | .win m o => sendRemote s k op m (o / 128) (.acq o)))

def execAcqTeam (d a : SIndex) (s : State) : Out := acquire (.acqTeam d a) 0 d a s
def execAcqCluster (d a : SIndex) (s : State) : Out := acquire (.acqCluster d a) 1 d a s
def execAcqDevice (d a : SIndex) (s : State) : Out := acquire (.acqDevice d a) 2 d a s
def execAcqSystem (d a : SIndex) (s : State) : Out := acquire (.acqSystem d a) 3 d a s

/-- ACQ_DROP: the ACQ b of group a has its answer (R159, R286). -/
def execAcqDrop (s : State) : Out :=
  let k := s.cur.a
  match (s.grp k).syncs.find? (fun y => decide (y.op = s.cur.b) && !y.isRel) with
  | none => .next (notOffered s)
  | some y =>
    match y.answer with
    | none => .next (notOffered s)
    | some v =>
      let z := (s.grp k).opSecond y.op
      if v.poison then .next ((poisonAnswer s k y.op).modGrp k (fun g => g.endSync y.op))
      else
        let c := s.coreOf k
        let asid := s.asidOf k
        let p := boundLine (s.ctx asid) y.word
        let s :=
          if y.scope = 0 then s
          else
            let s := (linesAt s c asid p).foldl (fun s l => dropClean s c asid l) s
            let s := staleWhere s c asid p
            if y.scope = 3 then
              (farLines s asid p).foldl (fun s x => if x.2.dirty = 0 then { s with l2 := AMap.del s.l2 (lineKey asid x.1) } else s) s
            else s
        .next (s.modGrp k (fun g => (g.writeS z y.sd.toNat v).endSync y.op))

/-- REL (R158): ST rises; the rest is REL_SYNC_WRITE's. -/
def release (i : Instr) (scope : Nat) (a b : SIndex) (s : State) : Out :=
  issueScalar i { rd := [a.toNat, b.toNat] } s fun s =>
    let k := s.cur.grp
    let addr := (rs s a).val.toNat
    let v := rs s b
    if (rs s a).poison then poisonScalar s 1
    else if v.poison then poisonScalar s 2
    else match syncPlace s k scope addr with
      | .error sub => memTrap s sub addr
      | .ok _ =>
        if queuedMemory s k s.cur.second then .next (waitFor s .hazard)
        else if bindHeld (s.grp k) s.cur.second then .next (keepBack s)
        else if decide (63 ≤ (s.grp k).count .st) && !s.cur.replay then .next (waitFor s (counterReason (s.grp k) [.st]))
        else
          let after := fencedPending (s.grp k) s.cur.second
          let (s, op) := startOp (foldWord s) .st false
          let y : SyncOp := { op := op, isRel := true, scope := scope, word := addr, value := v, sd := 0, after := after,
                              lines := none, answer := none, sent := false }
          .next (advance (s.modGrp k (fun g => { g with syncs := g.syncs ++ [y] })))

def execRelTeam (a b : SIndex) (s : State) : Out := release (.relTeam a b) 0 a b s
def execRelCluster (a b : SIndex) (s : State) : Out := release (.relCluster a b) 1 a b s
def execRelDevice (a b : SIndex) (s : State) : Out := release (.relDevice a b) 2 a b s
def execRelSystem (a b : SIndex) (s : State) : Out := release (.relSystem a b) 3 a b s

/-- The sync word takes the value of a REL in own scratch, in a sector without poison (R286). -/
def relOwn (s : State) (k op o : Nat) (v : DWord) : State :=
  let t := (s.grp k).team
  if ppoison (scratchRead s t o 8) then (poisonAnswer s k op).modGrp k (fun g => g.endSync op)
  else (scratchWrite s t (bytesAt o (cleanBytes 8 v.toNat))).modGrp k (fun g => g.endSync op)

/-- The write of a REL goes to its point. -/
def relWrite (s : State) (k : Nat) (y : SyncOp) : State :=
  match locate s (s.grp k).team acceptsCopy y.word 8 with
  | .ok (.lin a) =>
    let s := s.modGrp k (fun g => { (g.setSync y.op (fun y => { y with sent := true })) with
      fetches := g.fetches ++ [⟨y.op, lineOf a, .rel a y.value.val (decide (y.scope = 3)), none, false, none, []⟩] })
    sendNow s k y.op
  | .ok (.own o) => relOwn s k y.op o y.value.val
  | .ok (.win m o) =>
    sendRemote (s.modGrp k (fun g => g.setSync y.op (fun y => { y with sent := true }))) k y.op m (o / 128) (.rel o y.value.val)
  | .error _ => s.modGrp k (fun g => g.endSync y.op)

/-- REL_SYNC_WRITE: the REL b of group a goes on: its bound lines are cleaned, then the sync word is written (R158). -/
def execRelSyncWrite (s : State) : Out :=
  let k := s.cur.a
  let g := s.grp k
  match g.syncs.find? (fun y => decide (y.op = s.cur.b) && y.isRel && !y.sent) with
  | none => .next (notOffered s)
  | some y =>
    let c := s.coreOf k
    let asid := s.asidOf k
    let p := boundLine (s.ctx asid) y.word
    if g.anyPending y.after then .next (notOffered s)
    else
      let first := y.lines.isNone
      let ls := match y.lines with
        | some ls => ls
        | none => if y.scope = 0 then [] else (linesAt s c asid p).filter (unclean s c asid)
      let (s, rest, sent) := cleanStep s c asid ls
      if rest.isEmpty then (if y.scope = 3 then afterFlush s asid p (.next (relWrite s k y)) else .next (relWrite s k y))
      else if first || sent then .next (s.modGrp k (fun g => g.setSync y.op (fun y => { y with lines := some rest })))
      else .next (notOffered s)

/-! ## Bindings (R301) -/

/-- A word that raises ST and goes to the binding cache. -/
def bindWord (i : Instr) (rd wr : List Nat) (s : State) (body : State → Out) : Out :=
  issueScalar i { rd := rd, wr := wr } s fun s =>
    if decide (63 ≤ (s.grp s.cur.grp).count .st) && !s.cur.replay then .next (waitFor s (counterReason (s.grp s.cur.grp) [.st]))
    else body s

/-- The request joins those at the binding cache, and holds the slot's later ACQ and REL. -/
def sendBind (s : State) (mk : Nat → BindOp) (d : SIndex) : State :=
  let k := s.cur.grp
  let z := s.cur.second
  let (s, op) := startOp (foldWord s) .st false
  advance (s.modGrp k (fun g =>
    { (g.modSlot z (fun sl => { sl with bindHold := sl.bindHold.filter g.pending ++ [op] })) with
      binds := g.binds ++ [mk op], sbusy := if d = 0 then g.sbusy else g.sbusy ++ [⟨d, op, false⟩] }))

def execBind (d a b : SIndex) (s : State) : Out :=
  bindWord (.bind d a b) [a.toNat, b.toNat, b.toNat + 1] [d.toNat] s fun s =>
    let w := rs s a
    let base := rs s b
    let len := rs s (b + 1)
    if w.poison || base.poison then poisonScalar s 1
    else if len.poison then poisonScalar s 4
    else .next (sendBind s (fun op => ⟨op, true, w.val.toNat, base.val.toNat, len.val.toNat, 0, d⟩) d)

def execUnbind (a : SIndex) (s : State) : Out :=
  bindWord (.unbind a) [a.toNat] [] s fun s =>
    let x := rs s a
    if x.poison then poisonScalar s 4
    else if x.val.toNat / 2 ^ 12 ≠ 0 then memTrap s memBadbind 0
    else .next (sendBind s (fun op => ⟨op, false, 0, 0, 0, x.val.toNat, 0⟩) 0)

def Group.endBind (g : Group) (op : Nat) : Group :=
  ({ g with binds := g.binds.filter (fun y => decide (y.op ≠ op)) }).finish op

/-- A write of the binding table in the context's linear space (R75); it waits while its page is not mapped. -/
def tableWrite (s : State) (k addr : Nat) (bs : List PByte) : Option State :=
  match poke s (s.asidOf k) addr bs with
  | .ok _ s => some s
  | .away s => some (notOffered s)
  | .fault kind va s => some (notOffered ((reportPage s (s.asidOf k) va kind nobody).getD s))

/-- Whether a state says that nothing happened. -/
def State.waits (s : State) : Bool := s.cur.held

def freeEntry (x : Ctx) : Option Nat :=
  (List.range 4096).find? (fun e => !(AMap.get ⟨false, 0, 0, 0⟩ x.binds e).valid)

/-- The checks of a BIND but the full table (R301). -/
def bindCheck (y : BindOp) : Option Nat :=
  if y.sync % 8 ≠ 0 then some memAlign
  else if windowBase < y.sync + 8 then some memBadsync
  else if y.len = 0 || decide (2 ^ 40 < y.len) || decide (windowBase < y.base + y.len) then some memBadbind
  else none

/-- BIND_APPLY: the BIND b of group a reaches the binding cache. -/
def execBindApply (s : State) : Out :=
  let k := s.cur.a
  match (s.grp k).binds.find? (fun y => decide (y.op = s.cur.b) && y.isBind) with
  | none => .next (notOffered s)
  | some y =>
    let x := opInfo (s.grp k) y.op
    let trap (sub : Nat) : Out := .next (takeTrap (s.modGrp k (fun g => g.endBind y.op)) k .mem sub { x with addr := y.sync })
    match bindCheck y with
    | some sub => trap sub
    | none =>
      let asid := s.asidOf k
      match freeEntry (s.ctx asid) with
      | none => trap memBindfull
      | some e =>
        let bs := cleanBytes 8 y.sync ++ cleanBytes 8 y.base ++ cleanBytes 8 y.len ++ cleanBytes 8 1
        match tableWrite s k ((s.ctx asid).btbase + 32 * e) bs with
        | none => .next (notOffered s)
        | some s =>
          if s.waits then .next s
          else
            let s := s.modCtx asid (fun c => { c with binds := AMap.put c.binds e ⟨true, y.sync, y.base, y.len⟩ })
            .next (s.modGrp k (fun g => (g.writeS (g.opSecond y.op) y.sd.toNat ⟨BitVec.ofNat 64 e, false⟩).endBind y.op))

/-- UNBIND_APPLY: the UNBIND b of group a reaches the binding cache; a clear entry is left as it is. -/
def execUnbindApply (s : State) : Out :=
  let k := s.cur.a
  match (s.grp k).binds.find? (fun y => decide (y.op = s.cur.b) && !y.isBind) with
  | none => .next (notOffered s)
  | some y =>
    let asid := s.asidOf k
    let ent := AMap.get ⟨false, 0, 0, 0⟩ (s.ctx asid).binds y.entry
    if !ent.valid then .next (s.modGrp k (fun g => g.endBind y.op))
    else match tableWrite s k ((s.ctx asid).btbase + 32 * y.entry + 0x18) (cleanBytes 4 0) with
      | none => .next (notOffered s)
      | some s =>
        if s.waits then .next s
        else
          let s := s.modCtx asid (fun c => { c with binds := AMap.put c.binds y.entry { ent with valid := false } })
          .next (s.modGrp k (fun g => g.endBind y.op))

/-! ## FENCE (R163, R303) -/

/-- FENCE issues and holds later memory words of its slot until the earlier ones are complete. -/
def execFence (s : State) : Out :=
  issueScalar .fence {} s fun s =>
    let k := s.cur.grp
    if queuedMemory s k s.cur.second then .next (waitFor s .hazard)
    else
      let ids := fencedPending (s.grp k) s.cur.second
      .next (advance ((foldWord s).modSlot k s.cur.second (fun sl =>
        { sl with fenceHold := (sl.fenceHold.filter (s.grp k).pending ++ ids).eraseDups })))

/-! ## Cache maintenance (R162, R304) -/

/-- CLEAN, INV, CLINV: kind 0, 1, 2 at level 1 or 2. ST rises; a length of 0 completes at once. -/
def maintain (i : Instr) (kind level : Nat) (a b : SIndex) (s : State) : Out :=
  scalarMemory i { rd := [a.toNat, b.toNat] } .st true [a] s fun s =>
    let k := s.cur.grp
    let lo := (rs s a).val.toNat
    let n := (rs s b).val.toNat
    if (rs s b).poison then poisonScalar s 4
    else if decide (2 ^ 40 < n) || decide (windowBase < lo + n) || decide (windowBase ≤ lo) then memTrap s memBadaddr lo
    else if queuedMemory s k s.cur.second then .next (waitFor s .hazard)
    else
      let mine := ((s.grp k).ops.filter ((curSlot s).follows ·)).map (·.id)
      let (s, op) := startOp (foldWord s) .st true
      if n = 0 then .next (advance (s.modGrp k (fun g => g.finish op)))
      else
        let l0 := lineOf lo
        let l1 := lineOf (lo + n - 1)
        let after := ((s.grp k).fifo.filter (fun e => mine.contains e.op && e.bytes.any (fun x => decide (l0 ≤ lineOf x.1) && decide (lineOf x.1 ≤ l1)))).map (·.op)
        .next (advance (s.modGrp k (fun g => { g with maints := g.maints ++ [⟨op, kind, level, l0, l1, after.eraseDups, none⟩] })))

def execCleanL1 (a b : SIndex) (s : State) : Out := maintain (.cleanL1 a b) 0 1 a b s
def execCleanL2 (a b : SIndex) (s : State) : Out := maintain (.cleanL2 a b) 0 2 a b s
def execInvL1 (a b : SIndex) (s : State) : Out := maintain (.invL1 a b) 1 1 a b s
def execInvL2 (a b : SIndex) (s : State) : Out := maintain (.invL2 a b) 1 2 a b s
def execClinvL1 (a b : SIndex) (s : State) : Out := maintain (.clinvL1 a b) 2 1 a b s
def execClinvL2 (a b : SIndex) (s : State) : Out := maintain (.clinvL2 a b) 2 2 a b s

/-- The drops of INV: L1 lines with their dirty bytes, at level 2 the slices' copies too. -/
def invalidate (s : State) (k : Nat) (m : MaintOp) : State :=
  let c := s.coreOf k
  let asid := s.asidOf k
  let p (l : Nat) : Bool := decide (m.lo ≤ l) && decide (l ≤ m.hi)
  let s := s.modCore c (fun q => { q with l1 := q.l1.filter (fun x => !(decide (x.1 / 2 ^ 45 = asid) && p (x.1 % 2 ^ 45))) })
  let s := staleWhere s c asid p
  if m.level = 2 then { s with l2 := s.l2.filter (fun x => !(decide (x.1 / 2 ^ 45 = asid) && p (x.1 % 2 ^ 45))) } else s

/-- An outcome that is a step. -/
def taken : Out → Option State
  | .next t => if t.cur.held then none else some t
  | _ => none

/-- One move of a maintenance operation: none while it waits. -/
def maintStep (s : State) (k : Nat) (m : MaintOp) : Option State :=
  let c := s.coreOf k
  let asid := s.asidOf k
  let p (l : Nat) : Bool := decide (m.lo ≤ l) && decide (l ≤ m.hi)
  if (s.grp k).fifo.any (fun e => m.after.contains e.op) then none
  else
    let done (s : State) : State :=
      s.modGrp k (fun g => ({ g with maints := g.maints.filter (fun x => decide (x.op ≠ m.op)) }).finish m.op)
    if m.kind = 1 then some (done (invalidate s k m))
    else
      let first := m.lines.isNone
      let ls := m.lines.getD ((linesAt s c asid p).filter (unclean s c asid))
      let (s, rest, sent) := cleanStep s c asid ls
      if rest.isEmpty then
        let last := done (if m.kind = 2 then invalidate s k m else s)
        if m.level = 2 then taken (afterFlush s asid p (.next last)) else some last
      else if first || sent then
        some (s.modGrp k (fun g => { g with maints := g.maints.map (fun x => if x.op = m.op then { x with lines := some rest } else x) }))
      else none

/-! ## Retirement (R175) -/

/-- The first operation that has reached its falling point behind no earlier one of its class. -/
def retirable (g : Group) : Option OutOp :=
  g.ops.find? (fun o => o.done && decide ((g.ops.find? (fun x => decide (x.cls = o.cls))).map (·.id) = some o.id))

/-- COUNTER_RETIRE: an operation of group a retires, and SATF shows what the engine saturated for it (R48); with none to retire, its
maintenance goes on towards its falling point (R162, R173). -/
def execCounterRetire (s : State) : Out :=
  let k := s.cur.a
  match retirable (s.grp k) with
  | some o => .next (s.modGrp k (fun g => { (g.raiseSat o.sat) with ops := g.ops.filter (fun x => decide (x.id ≠ o.id)) }))
  | none =>
    match (s.grp k).maints.findSome? (maintStep s k) with
    | some s => .next s
    | none => .next (notOffered s)

/-! ## WAIT and WAITR (R176, R305, R306) -/

/-- The slot waits with COUNTER while a named counter is above its threshold. -/
def waitCounters (s : State) (ts : List (CtrClass × Nat)) : Out :=
  let g := s.grp s.cur.grp
  let above := ts.filter (fun t => decide (t.2 < g.count t.1))
  if above.isEmpty then .next (advance (foldWord s))
  else .next (waitIssued (foldWord s) (counterReason g (above.map (·.1))))

/-- A word that has issued meets no hold again (R176). -/
def waitNeeds (s : State) (n : Needs) : Needs := if (curSlot s).issued then {} else n

def execWait (e g t c v l : BitVec 4) (s : State) : Out :=
  let ts := [(CtrClass.ld, l), (.st, v), (.cp, c), (.tl, t), (.gr, g), (.en, e)].filterMap (fun (p : CtrClass × BitVec 4) =>
    if p.2 = 15 then none else some (p.1, p.2.toNat))
  issueScalar (.wait e g t c v l) (waitNeeds s { ctr := ts.map (·.1) }) s fun s => waitCounters s ts

/-- The class a WAITR names. -/
def classOf (c : SIndex) : CtrClass :=
  match c.toNat with
  | 0 => .ld | 1 => .st | 2 => .cp | 3 => .tl | 4 => .gr | _ => .en

/-- WAITR (R176): a word that waits reads its threshold again each time its condition is evaluated (DESIGN CHOICE, log 47). -/
def execWaitr (c a : SIndex) (s : State) : Out :=
  issueScalar (.waitr c a) (waitNeeds s { rd := [a.toNat], ctr := [classOf c] }) s fun s =>
    let x := rs s a
    if x.poison then poisonScalar s 4 else waitCounters s [(classOf c, x.val.toNat)]

/-! ## Barriers (R178–R185, R307) -/

def barState : BState → Nat
  | .unarmed => 0 | .opened => 1 | .forwarded => 2

/-- The barrier completes within its team: team scope, or cluster scope in a kernel of CSIZE 1 (R180). -/
def teamScoped (s : State) (t : Nat) (x : Barrier) : Bool :=
  decide (x.scope = 0) || (decide (x.scope = 1) && decide ((s.kernel (s.team t).kernel).csize = 1))

/-- An arrival's outcome: counted for a phase, or not yet possible, or a trap (R180, R181). -/
inductive Arrival where
  | counted (t : BitVec 16) (s : State)
  | later
  | trap (sub : Nat)

/-- The count of an Open barrier that has EXPECT arrivals. -/
def complete (s : State) (t b : Nat) (x : Barrier) : State :=
  if teamScoped s t x then
    s.modTeam t (fun y => y.setBar b { x with arrived := 0, phase := x.phase + 1, waiters := 0 })
  else
    s.modTeam t (fun y => { (y.setBar b { x with state := .forwarded, arrived := 0 }) with widerOut := y.widerOut ++ [b] })

/-- An arrival at a barrier. Those of a team in Handler stand still: a slot waits, and a copy arrives nowhere (R185, log 47). -/
def arrive (s : State) (t b : Nat) (copy : Bool) : Arrival :=
  let x := (s.team t).bar b
  if x.state ≠ .unarmed && decide ((s.team t).state = .handler) then (if copy then .counted x.phase s else .later)
  else match x.state with
  | .unarmed => .trap 1
  | .opened =>
    if x.arrived + 1 < x.expect then .counted x.phase (s.modTeam t (fun y => y.setBar b { x with arrived := x.arrived + 1 }))
    else .counted x.phase (complete s t b x)
  | .forwarded =>
    if copy then
      if 65535 ≤ x.arrived then .trap 5
      else .counted (x.phase + 1) (s.modTeam t (fun y => y.setBar b { x with arrived := x.arrived + 1 }))
    else if x.expect ≤ x.arrived + 1 then .later
    else .counted (x.phase + 1) (s.modTeam t (fun y => y.setBar b { x with arrived := x.arrived + 1 }))

/-- BAR.INIT (R180): the lowest sub-code of the table. -/
def barInit (i : Instr) (scope : Nat) (a : SIndex) (n : BitVec 4) (s : State) : Out :=
  issueScalar i { rd := [a.toNat] } s fun s =>
    let t := (s.grp s.cur.grp).team
    let x := (s.team t).bar n.toNat
    let c := rs s a
    if c.poison then poisonScalar s 4
    else if decide (x.state = .forwarded) || (decide (x.state = .opened) && decide (x.arrived ≠ 0)) then
      trapIssued s .barrier 2 (issueInfo s)
    else if decide (scope = 2) && !(s.kernelOf s.cur.grp).coop then trapIssued s .barrier 3 (issueInfo s)
    else if decide (c.val = 0) || decide (255 < c.val.toNat) then trapIssued s .barrier 4 (issueInfo s)
    else
      .next (advance ((foldWord s).modTeam t (fun y =>
        y.setBar n.toNat { x with state := .opened, scope := scope, expect := c.val.toNat, arrived := 0 })))

def execBarInitTeam (a : SIndex) (n : BitVec 4) (s : State) : Out := barInit (.barInitTeam a n) 0 a n s
def execBarInitCluster (a : SIndex) (n : BitVec 4) (s : State) : Out := barInit (.barInitCluster a n) 1 a n s
def execBarInitGrid (a : SIndex) (n : BitVec 4) (s : State) : Out := barInit (.barInitGrid a n) 2 a n s

/-- A slot's arrival: it does not issue before its earlier operations are performed (R183). -/
def slotArrival (s : State) (n : BitVec 4) (body : BitVec 16 → State → Out) : Out :=
  let k := s.cur.grp
  match arrive s (s.grp k).team n.toNat false with
  | .trap sub => trapIssued s .barrier sub (issueInfo s)
  | .later => .next (waitFor s .barrier)
  | .counted t s' =>
    if queuedMemory s k s.cur.second then .next (waitFor s .hazard)
    else if !(fencedPending (s.grp k) s.cur.second).isEmpty then .next (waitFor s .barrier)
    else body t { s' with cur := s.cur }

def execBarArr (d : SIndex) (n : BitVec 4) (s : State) : Out :=
  issueScalar (.barArr d n) { wr := [d.toNat] } s fun s =>
    slotArrival s n fun t s => .next (writeResult s d ⟨t.setWidth 64, false⟩ none)

/-- BAR.WAIT (R181): a word that waits reads sa again each time its condition is evaluated (DESIGN CHOICE, log 47). -/
def execBarWait (a : SIndex) (n : BitVec 4) (s : State) : Out :=
  issueScalar (.barWait a n) (waitNeeds s { rd := [a.toNat] }) s fun s =>
    let x := (s.teamOf s.cur.grp).bar n.toNat
    let p := rs s a
    if p.poison then poisonScalar s 4
    else if x.state = .unarmed then trapIssued s .barrier 1 (issueInfo s)
    else if phaseDone x (p.val.setWidth 16) then .next (advance (foldWord s))
    else .next (waitIssued (foldWord s) .barrier)

/-- BAR.SYNC arrives and waits for its phase, its bit in WAITERS or WAITN; a word that has issued waits on (R181). -/
def execBarSync (n : BitVec 4) (s : State) : Out :=
  let k := s.cur.grp
  let z := s.cur.second
  let b := n.toNat
  match (curSlot s).issued, (curSlot s).waitPhase with
  | true, some (b, t) =>
    if phaseDone ((s.teamOf k).bar b) t then .next (advance (foldWord s)) else .next (waitIssued s .barrier)
  | _, _ =>
    issueScalar (.barSync n) {} s fun s =>
      slotArrival s n fun t s =>
        let s := foldWord s
        let x := (s.teamOf k).bar b
        if phaseDone x t then .next (advance s)
        else
          let m : Word := (1 : Word) <<< (2 * (s.grp k).grpid + (if z then 1 else 0))
          let y := if t = x.phase then { x with waiters := x.waiters ||| m } else { x with waitn := x.waitn ||| m }
          let s := s.modTeam (s.grp k).team (fun u => u.setBar b y)
          .next ((waitIssued s .barrier).modSlot k z (fun sl => { sl with waitPhase := some (b, t) }))

/-! ## Wider counts (R184) -/

/-- The team's barriers move (R185). -/
def barsMove (t : Team) : Bool := decide (t.state = .running)

/-- Teams of the kernel, of the cluster or of the grid, that a completion releases. -/
def widerTeams (s : State) (t : Nat) (grid : Bool) : List Nat :=
  let x := s.team t
  (s.teams.filter (fun p => decide (p.2.kernel = x.kernel) && decide (p.2.state ≠ .absent) && decide (p.2.state ≠ .retired)
    && (grid || decide (p.2.clusid = x.clusid)))).map (·.1)

/-- WIDER_ARRIVAL: the next arrival of team a reaches its wider count, kept on the core of the cluster's lowest TEAMID or
at L2; those of a team whose groups have all exited go out before it retires. -/
def execWiderArrival (s : State) : Out :=
  let t := s.cur.a
  let x := s.team t
  match x.widerOut with
  | [] => .next (notOffered s)
  | b :: rest =>
    if !barsMove x && !(decide (x.state = .halting) && (liveGroups s t).isEmpty) then .next (notOffered s)
    else
      let s := s.setTeam t { x with widerOut := rest }
      let k := s.kernel x.kernel
      let grid := decide ((x.bar b).scope = 2)
      let n := (if grid then AMap.get 0 k.gridBar b else AMap.get 0 k.clusBar (x.clusid * 16 + b)) + 1
      let full := decide ((if grid then k.teams else k.csize) ≤ n)
      let n := if full then 0 else n
      let s := s.setKernel x.kernel
        (if grid then { k with gridBar := AMap.set 0 k.gridBar b n } else { k with clusBar := AMap.set 0 k.clusBar (x.clusid * 16 + b) n })
      .next (if full then
        (widerTeams s t grid).foldl (fun s u => s.modTeam u (fun y => { y with widerIn := y.widerIn ++ [b] })) s
      else s)

/-- WIDER_RELEASE: a wider completion releases a Forwarded barrier of team a (R180). -/
def execWiderRelease (s : State) : Out :=
  let t := s.cur.a
  let x := s.team t
  match x.widerIn with
  | [] => .next (notOffered s)
  | b :: rest =>
    if !barsMove x then .next (notOffered s)
    else
      let y := x.bar b
      if y.state ≠ .forwarded then .next (s.setTeam t { x with widerIn := rest })
      else
        let y := { y with state := .opened, phase := y.phase + 1, waiters := y.waitn, waitn := 0 }
        .next (s.setTeam t (if y.expect ≤ y.arrived then
          { (x.setBar b { y with state := .forwarded, arrived := y.arrived - y.expect }) with
            widerIn := rest, widerOut := x.widerOut ++ [b] }
        else { (x.setBar b y) with widerIn := rest }))

end Sys2Proof.Machine
end

