-- ==== Sys2Proof/Machine/Copy.lean ====
section
/-!
DEFINITION. The copy words VCP, VCPC and CPY (R297–R300) and the steps of the copy unit (R166, R167, R172, R182, R298).
-/
namespace Sys2Proof.Machine

/-! ## Accesses of a unit for a group (R360) -/

/-- A group's place for a PAGE record (R362). -/
def pageWho (s : State) (k : Nat) : PageWho := ⟨(s.teamOf k).teamid, (s.grp k).grpid⟩

/-- The outcome of a unit's access: it goes on, it waits, or it waits for a page that is reported. `mark` notes the page. -/
def unitAccess {α : Type} (k asid : Nat) (r : Access α) (mark : Nat → State → State) (ok : α → State → Out) : Out :=
  match r with
  | .ok x s => ok x s
  | .away s => .next (notOffered s)
  | .fault kind va s =>
    if kind = walkError then .next (walkFatal s asid va)
    else match reportPage s asid va kind (pageWho s k) with
      | some s => .next (notOffered (mark (va / 2 ^ 16 * 2 ^ 16) s))
      | none => .next (notOffered s)

/-- A read of n bytes at an effective address, at its slice or array (R164). -/
def readPlace (s : State) (u : Asker) (a n : Nat) (spall : Bool) : Access (List PByte) :=
  let k := u.grp
  match locate s (s.grp k).team acceptsCopy a n with
  | .ok (.lin a) => unitPeek s u (s.asidOf k) a n spall
  | .ok (.own o) => .ok (scratchRead s (s.grp k).team o n) s
  | .ok (.win m o) =>
    match memberTeam s (s.grp k).team m with
    | some t => .ok (scratchRead s t o n) s
    | none => .away s
  | .error _ => .ok (List.replicate n ⟨0, false⟩) s

/-- A write of bytes at consecutive effective addresses (R172). -/
def writePlace (s : State) (u : Asker) (a : Nat) (bs : List PByte) : Access Unit :=
  let k := u.grp
  match locate s (s.grp k).team acceptsCopy a bs.length with
  | .ok (.lin a) => unitPoke s u (s.asidOf k) a bs
  | .ok (.own o) => .ok () (scratchWrite s (s.grp k).team (bytesAt o bs))
  | .ok (.win m o) =>
    match memberTeam s (s.grp k).team m with
    | some t => .ok () (scratchWrite s t (bytesAt o bs))
    | none => .away s
  | .error _ => .ok () s

/-! ## The sync word of a command (R166, R286) -/

inductive SyncRes where
  | done (s : State)
  | poisoned (s : State)

/-- The acquire reads the word at its point. -/
def unitAcquire (s : State) (u : Asker) (word : Nat) : Access SyncRes :=
  match readPlace s u word 8 false with
  | .ok bs s => .ok (if ppoison bs then .poisoned s else .done s) s
  | .fault kd va s => .fault kd va s
  | .away s => .away s

/-- The release adds 1 to the word in one step at its point; a poisoned sector is left unchanged. -/
def unitRelease (s : State) (u : Asker) (word : Nat) (system : Bool) : Access SyncRes :=
  let t := (s.grp u.grp).team
  let atArray (t o : Nat) : Access SyncRes :=
    let bs := scratchRead s t o 8
    if ppoison bs then .ok (.poisoned s) s
    else .ok (.done (scratchWrite s t (bytesAt o (cleanBytes 8 ((pvalue bs + 1) % 2 ^ 64))))) s
  match locate s t acceptsCopy word 8 with
  | .ok (.lin a) =>
    (match unitWord s u (s.asidOf u.grp) a (.bump a system) with
     | .ok v s => .ok (if v.poison then .poisoned s else .done s) s
     | .fault kd va s => .fault kd va s
     | .away s => .away s)
  | .ok (.own o) => atArray t o
  | .ok (.win m o) =>
    (match memberTeam s t m with
     | some t => atArray t o
     | none => .away s)
  | .error _ => .ok (.done s) s

/-! ## Issue -/

/-- Places of a lane word's accesses, with those of the sync word among them. -/
structure CopyPlan where
  pieces : List (Nat × Nat × Nat × Nat)
  commit : Option (SIndex × Nat × DWord)

/-- A fault of a single operand. -/
def oneFault {α : Type} (act : Lanes) (addr : Nat) (r : Except Nat α) : Option LaneFault :=
  match r with
  | .error e => some ⟨e, act, addr⟩
  | .ok _ => none

def laneFaults {α : Type} : Except LaneFault α → Option LaneFault
  | .error e => some e
  | .ok _ => none

/-- The fault of the least sub-code among several checks. -/
def leastFault (fs : List (Option LaneFault)) : Option LaneFault :=
  fs.foldl (fun m f =>
    match m, f with
    | none, f => f
    | some x, none => some x
    | some x, some y => some (joinFault x y)) none

/-- The sync word's check when the copy carries an acquire or a release. -/
def copySync (s : State) (k : Nat) (act : Lanes) (f : LaneFields) : Option LaneFault :=
  if immRel f || immAcq f then
    let a := (readS s k s.cur.second (immSreg f).toNat).val.toNat
    oneFault act a (syncPlace s k (immScope f) a)
  else none

/-- Lines of destinations in linear memory. -/
def destLines (ps : List (Nat × Nat × Nat × Nat)) : List Nat :=
  ((ps.filter (fun p => decide (p.2.2.1 < windowBase))).flatMap (fun p => linesOf p.2.2.1 p.2.2.2)).eraseDups

/-- The copy issues: CP rises. -/
def startCopy (s : State) (f : LaneFields) (plan : CopyPlan) : State :=
  let k := s.cur.grp
  let z := s.cur.second
  let (s, op) := startOp (issueLaneWord s) .cp false
  let sync := (readS s k z (immSreg f).toNat).val.toNat
  let c : Copy := { op := op, pieces := plan.pieces, data := none, clears := [], bar := if immBe f then some (immBar f) else none,
                    acq := immAcq f, rel := immRel f, sync := sync, scope := immScope f, commit := plan.commit,
                    lines := destLines plan.pieces, arrived := false, waitPage := none }
  s.modGrp k (fun g =>
    { g with copies := g.copies ++ [c],
             sbusy := match plan.commit with
               | some (d, _, _) => if d = 0 then g.sbusy else g.sbusy ++ [⟨d, op, false⟩]
               | none => g.sbusy })

/-- The checks of a copy in the order of R285: POISON on addresses, then on operands, MEM, the barrier; then it
issues. -/
def issueCopy (s : State) (f : LaneFields) (act : Lanes) (addrBad opBad argBad : Lanes) (fault : Option LaneFault)
    (plan : CopyPlan) : Out :=
  let k := s.cur.grp
  let syncBad := (immRel f || immAcq f) && (readS s k s.cur.second (immSreg f).toNat).poison
  if addrBad ≠ 0 then poisonLane s 1 addrBad
  else if syncBad then poisonLane s 1 act
  else if opBad ≠ 0 then poisonLane s 2 opBad
  else if argBad ≠ 0 then poisonLane s 4 argBad
  else match leastFault [fault, copySync s k act f] with
    | some e => memTrapLane s e
    | none =>
      if immBe f && decide (((s.teamOf k).bar (immBar f)).state = .unarmed) then
        .next (trapLane s .barrier 1 (issueInfo s))
      else .next (startCopy s f plan)

/-- Bytes a lane of VCP or VCPC copies (R299). -/
def copySize (f : LaneFields) : Nat := 4 * 2 ^ xmodLow f

/-- Lane addresses from a base register and an offset register. -/
def copyAddrs (s : State) (f : LaneFields) (base offs : BitVec 9) (act : Lanes) : List (Nat × Nat) :=
  let b := (laneScalar s base).val
  (lanesOf act).map (fun l => (l, lanePlace b (laneElt s offs l).val f 0))

def execVcp (f : LaneFields) (s : State) : Out :=
  issueMemLane .vcp f .cp false s fun act s =>
    let k := s.cur.grp
    let n := copySize f
    let src := copyAddrs s f f.vc f.va act
    let dst := copyAddrs s f f.vb f.vd act
    let t := (s.grp k).team
    let fault := leastFault [laneFaults (locateAll s t acceptsCopy n src), laneFaults (locateAll s t acceptsCopy n dst)]
    let pieces := (src.zip dst).map (fun p => (p.1.1, p.1.2, p.2.2, n))
    issueCopy s f act (addrPoison s act [f.vb, f.vc] [f.va, f.vd]) 0 0 fault ⟨pieces, none⟩

def execVcpc (f : LaneFields) (s : State) : Out :=
  issueMemLane .vcpc f .cp false s fun act s =>
    let k := s.cur.grp
    let n := copySize f
    let t := (s.grp k).team
    let d := (laneScalar s f.vb).val.toNat
    let sx := readS s k s.cur.second (immSreg f).toNat
    let own : Accepts := ⟨false, true, false⟩
    let src := copyAddrs s f f.vc f.va act
    let dst := (lanesOf act).map (fun l => (l, d + 128 + n * l))
    let fault := leastFault [laneFaults (locateAll s t acceptsCopy n src), oneFault act d (locate s t own d 8),
      laneFaults (locateAll s t own n dst), if d % 128 ≠ 0 then some ⟨memAlign, act, d⟩ else none]
    let pieces := (src.zip dst).map (fun p => (p.1.1, p.1.2, p.2.2, n))
    issueCopy s f act (addrPoison s act [f.vb, f.vc] [f.va]) (if sx.poison then act else 0) 0 fault
      ⟨pieces, some (f.vd.setWidth 6, d, sx.val)⟩

/-- An own-scratch address for a window address that names the issuing team's own member number (R283). -/
def normalAddr (s : State) (k a : Nat) : Nat :=
  let t := s.teamOf k
  let m := t.teamid % (s.kernel t.kernel).csize
  if decide (windowBase + m * 2 ^ 20 ≤ a) && decide (a < windowBase + (m + 1) * 2 ^ 20) then
    ownBase + (a - windowBase - m * 2 ^ 20)
  else a

def execCpy (f : LaneFields) (s : State) : Out :=
  issueMemLane .cpy f .cp false s fun act s =>
    let k := s.cur.grp
    let t := (s.grp k).team
    let len := laneScalar s f.va
    let n := len.val.toNat
    let dst := (laneScalar s f.vb).val.toNat
    let src := (laneScalar s f.vc).val.toNat
    let nd := normalAddr s k dst
    let ns := normalAddr s k src
    let fault := leastFault [
      if n = 0 then none else oneFault act src (locate s t acceptsCopy src n),
      if n = 0 then none else oneFault act dst (locate s t acceptsCopy dst n),
      if 2 ^ 20 < n then some ⟨memBadlen, act, 0⟩ else none,
      if decide (ns < nd + n) && decide (nd < ns + n) && decide (0 < n) then some ⟨memOverlap, act, dst⟩ else none]
    issueCopy s f act (addrPoison s act [f.vb, f.vc] []) 0 (if len.poison then act else 0) fault
      ⟨if n = 0 then [] else [(0, src, dst, n)], none⟩

/-! ## The copy unit's steps -/

def Group.setCopy (g : Group) (op : Nat) (f : Copy → Copy) : Group :=
  { g with copies := g.copies.map (fun c => if c.op = op then f c else c) }

/-- The copy is over: CP falls. -/
def Group.endCopy (g : Group) (op : Nat) : Group :=
  ({ g with copies := g.copies.filter (fun c => decide (c.op ≠ op)) }).finish op

def markCopy (k op page : Nat) (s : State) : State :=
  s.modGrp k (fun g => (g.setCopy op (fun c => { c with waitPage := some page })).setParked op true)

/-- An acquire or release met a poisoned sync word: the copy stops without its release (R286). -/
def stopCopy (s : State) (k op : Nat) : State := (poisonAnswer s k op).modGrp k (fun g => g.endCopy op)

/-- The copy unit of a core at work on a copy, or on the granule of it at an address. -/
def copyUnit (s : State) (k op part : Nat) : Asker := ⟨5000 + s.coreOf k, op, part, k⟩

/-- Source bytes of a copy's pieces, each at its destination address; the higher VID supplies a shared byte (R298). -/
def readSources (s : State) (u : Asker) : List (Nat × Nat × Nat × Nat) → Access (List (Nat × PByte))
  | [] => .ok [] s
  | (_, src, dst, n) :: rest =>
    let put (bs : List PByte) (more : List (Nat × PByte)) : List (Nat × PByte) := bytesAt dst bs ++ more
    match readPlace s u src n false with
    | .ok bs s =>
      (match readSources s u rest with
       | .ok more s => .ok (put bs more) s
       | r => r)
    | .fault kd va s => .fault kd va s
    | .away s =>
      match readSources s u rest with
      | .ok _ s => .away s
      | r => r

/-- The bytes still to be written of the granule that holds address a (R172). -/
def granuleAt (a : Nat) (bs : List (Nat × PByte)) : List (Nat × PByte) := bs.filter (fun x => decide (x.1 / 4 = a / 4))

/-- Sectors of a copy's destination of which it writes every byte clean (R286). -/
def cleanSectors (bs : List (Nat × PByte)) : List Nat :=
  ((bs.map (fun x => x.1 / 32)).eraseDups).filter (fun q =>
    let w := bs.filter (fun x => decide (x.1 / 32 = q))
    decide (w.length = 32) && w.all (fun x => !x.2.poison))

/-- Whether the granule at address a clears its sector's poison: every other one of the sector is written, or on its way before it; as
decided when it was sent. -/
def clearsWith (s : State) (c : Copy) (a : Nat) (rest : List (Nat × PByte)) : Bool :=
  let sent (g : Nat) : Option UnitReq := s.unitReqs.find? (fun r => decide (r.key = c.op) && decide (r.part = g + 1))
  match (sent (a / 4)).map (fun r => r.body) with
  | some (ReqBody.granule _ clears) => clears
  | _ => c.clears.contains (a / 32) && rest.all (fun x => decide (x.1 / 32 ≠ a / 32) || (sent (x.1 / 4)).isSome)

/-- A granule's bytes are written in one step, at its slice or its array (R172). -/
def writeGranule (s : State) (u : Asker) (a : Nat) (bs : List (Nat × PByte)) (clears : Bool) : Access Unit :=
  let k := u.grp
  let atArray (t o : Nat) : Access Unit :=
    let s := scratchWrite s t (bs.map (fun b => (o + b.1 - a, b.2)))
    .ok () (if clears then scratchClean s t o else s)
  match locate s (s.grp k).team acceptsCopy a 1 with
  | .ok (.lin _) => unitGranule s u (s.asidOf k) (lineOf a) (bs.map (fun b => (b.1 % 128, b.2))) clears
  | .ok (.own o) => atArray (s.grp k).team o
  | .ok (.win m o) =>
    match memberTeam s (s.grp k).team m with
    | some t => atArray t o
    | none => .away s
  | .error _ => .ok () s

/-- COPY_GRANULE_WRITE: the copy b of group a acquires, then reads every source byte, then writes the granule at address c, in any
order (R172); the first of those left where c is none of them. -/
def execCopyGranuleWrite (s : State) : Out :=
  let k := s.cur.a
  match (s.grp k).copies.find? (fun c => decide (c.op = s.cur.b)) with
  | none => .next (notOffered s)
  | some c =>
    let asid := s.asidOf k
    let u := copyUnit s k c.op 0
    if c.waitPage.isSome then .next (notOffered s)
    else if c.acq then
      unitStep c.op <| unitAccess k asid (unitAcquire s u c.sync) (markCopy k c.op) fun r _ =>
        match r with
        | .done s => .next (s.modGrp k (fun g => g.setCopy c.op (fun c => { c with acq := false })))
        | .poisoned s => .next (stopCopy s k c.op)
    else match c.data with
      | none =>
        unitStep c.op <| unitAccess k asid (readSources s u c.pieces) (markCopy k c.op) fun bs s =>
          .next (s.modGrp k (fun g => g.setCopy c.op (fun c => { c with data := some (lastBytes bs), clears := cleanSectors (lastBytes bs) })))
      | some [] => .next (notOffered s)
      | some (b :: bs) =>
        if c.commit.isSome then .next (notOffered s)
        else
          let all := b :: bs
          let a := if (granuleAt s.cur.c all).isEmpty then b.1 else s.cur.c
          let one := granuleAt a all
          let rest := all.filter (fun x => decide (x.1 / 4 ≠ a / 4))
          let last := clearsWith s c a rest
          let a := (one.head?.map (·.1)).getD a
          unitAccess k asid (writeGranule s { u with part := a / 4 + 1 } a one last) (markCopy k c.op) fun _ s =>
            .next ((unitPartDone s c.op (a / 4 + 1)).modGrp k (fun g => g.setCopy c.op (fun c => { c with data := some rest })))

/-- VCPC's test and commit in one step at the array (R300); a poisoned version poisons sd. -/
def commitCopy (s : State) (k : Nat) (c : Copy) (sd : SIndex) (d : Nat) (sx : DWord) : State :=
  let t := (s.grp k).team
  let o := d - ownBase
  let ver := scratchRead s t o 8
  let z := (s.grp k).opSecond c.op
  if pvalue ver = sx.toNat then
    let s := scratchWrite s t ((c.data.getD []).map (fun b => (b.1 - ownBase, b.2)))
    let s := scratchWrite s t (bytesAt o (cleanBytes 8 ((sx.toNat + 1) % 2 ^ 64)))
    s.modGrp k (fun g => g.writeS z sd.toNat ⟨1, ppoison ver⟩)
  else s.modGrp k (fun g => g.writeS z sd.toNat ⟨0, ppoison ver⟩)

/-- Step 3 of R298 and R182: the issuing core's valid-clean bytes of the destination lines are dropped, Fills in flight
marked stale. -/
def dropDest (s : State) (k : Nat) (lines : List Nat) : State :=
  let c := s.coreOf k
  let asid := s.asidOf k
  let s := lines.foldl (fun s l => dropClean s c asid l) s
  staleWhere s c asid (fun l => lines.contains l)

/-- Steps 3 and 4: drops, then the arrival; an arrival that R180 does not allow is discarded and traps. -/
def copyArrives (s : State) (k : Nat) (c : Copy) : State :=
  let s := dropDest s k c.lines
  let s := s.modGrp k (fun g => g.setCopy c.op (fun c => { c with arrived := true, data := some [], commit := none }))
  match c.bar with
  | none => s
  | some b =>
    match arrive s (s.grp k).team b true with
    | .counted _ s => s
    | .later => s
    | .trap sub => takeTrap s k .barrier sub (opInfo (s.grp k) c.op)

/-- COPY_COMPLETE: the copy b of group a has written its last granule: it commits, drops stale lines, arrives, releases,
and CP falls (R298). -/
def execCopyComplete (s : State) : Out :=
  let k := s.cur.a
  match (s.grp k).copies.find? (fun c => decide (c.op = s.cur.b)) with
  | none => .next (notOffered s)
  | some c =>
    if c.acq || c.waitPage.isSome then .next (notOffered s)
    else match c.data with
      | none => .next (notOffered s)
      | some bs =>
        if !bs.isEmpty && c.commit.isNone then .next (notOffered s)
        else
          let s := match c.commit with
            | some (sd, d, sx) => commitCopy s k c sd d sx
            | none => s
          let s := if c.arrived then s else copyArrives s k c
          if !c.rel then .next (s.modGrp k (fun g => g.endCopy c.op))
          else if !c.arrived then .next s
          else
            let release (s : State) : Out :=
              unitStep c.op <| unitAccess k (s.asidOf k) (unitRelease s (copyUnit s k c.op 0) c.sync (decide (c.scope = 3))) (markCopy k c.op) fun r _ =>
                match r with
                | .done s => .next (s.modGrp k (fun g => g.endCopy c.op))
                | .poisoned s => .next (stopCopy s k c.op)
            if c.scope = 3 then afterFlush s (s.asidOf k) (fun l => c.lines.contains l) (release s) else release s

end Sys2Proof.Machine
end

