-- ==== Sys2Proof/Machine/LaneAlu.lean ====
section
/-!
DEFINITION. The frame of a lane word that computes (R256–R259): what the word writes, gathered from all lanes before any
lane writes, or the signal or trap it ends in; and the integer, logic, compare, predicate and move words (R260–R264).
-/
namespace Sys2Proof.Machine

/-- A POISON signal or a trap of class LANE of a lane word, with the lanes concerned. -/
inductive LaneStop where
  | poison (sub : Nat) (lanes : Lanes)
  | lane (sub : Nat) (lanes : Lanes)
deriving DecidableEq, Repr

/-- What a lane word writes: elements by register and lane, predicates in the acting lanes, a scalar register, flags. -/
structure Effect where
  v : List (Nat × Nat × LElt) := []
  p : List (Nat × Lanes × Pred) := []
  r : Option (Nat × SReg) := none
  fp : FpFlags := 0
  sat : Lanes := 0
  stop : Option LaneStop := none
deriving DecidableEq, Repr

/-- Write an effect (R256). -/
def Group.take (g : Group) (second : Bool) (e : Effect) : Group :=
  let g := e.v.foldl (fun g x => g.setVelt x.1 x.2.1 x.2.2) g
  let g := e.p.foldl (fun g x => g.setPred x.1 ((g.pred x.1).merge x.2.1 x.2.2.bits x.2.2.poison)) g
  let g := match e.r with
    | some (r, x) => g.writeS second r x
    | none => g
  (g.raiseFp e.fp).raiseSat e.sat

/-- Registers whose results a word of these parts has still to write (R257); VWRI counts as every register. -/
def busyOf (id : Nat) (ps : List (LaneOp × LaneFields)) : LaneBusy :=
  { id := id,
    vregs := ps.flatMap (fun p => if p.1 = .vwri then [512] else laneVWrites p.1 p.2),
    preds := ps.flatMap (fun p => lanePWrites p.1 p.2),
    windows := [],
    sregs := ps.flatMap (fun p => laneSWrites p.1 p.2) }

/-- The word's results are written, in their order after earlier ones (R257). -/
def finishLane (s : State) (ps : List (LaneOp × LaneFields)) (es : List Effect) : State :=
  let k := s.cur.grp
  let z := s.cur.second
  let id := s.nextId
  let s := (issueLaneWord s).bump
  s.modGrp k (fun g => { es.foldl (fun g e => g.take z e) g with lbusy := g.lbusy ++ [busyOf id ps] })

/-- A word that computes: it stops, or writes its effect. -/
def laneAlu (op : LaneOp) (f : LaneFields) (eff : LaneFields → Lanes → State → Effect) (s : State) : Out :=
  issueLane op f s fun act s =>
    let e := eff f act s
    match e.stop with
    | some (.poison sub ls) => poisonLane s sub ls
    | some (.lane sub ls) => .next (trapLane s .lane sub { illopInfo s with lanes := ls })
    | none => .next (finishLane s [(op, f)] [e])

/-- A lane's result: its element, flags, saturation. -/
structure LOut where
  val : Word
  fp : FpFlags := 0
  sat : Bool := false

/-- One result per acting lane from elements of the same lane, poisoned with any of them (R258). -/
def eachLane (s : State) (act : Lanes) (vd : BitVec 9) (rs : List (BitVec 9)) (fn : List Word → LOut) : Effect :=
  let g := s.grp s.cur.grp
  let outs := (lanesOf act).map (fun l =>
    let xs := rs.map (fun r => g.velt r.toNat l)
    (l, fn (xs.map (·.val)), xs.any (·.poison)))
  { v := outs.map (fun o => (vd.toNat, o.1, ⟨o.2.1.val, o.2.2⟩)),
    fp := outs.foldl (fun m o => m ||| o.2.1.fp) 0,
    sat := maskOf ((outs.filter (fun o => o.2.1.sat)).map (·.1)) }

def lane1 (f : LaneFields) (act : Lanes) (s : State) (fn : Word → LOut) : Effect :=
  eachLane s act f.vd [f.va] (fun xs => fn (xs.getD 0 0))
def lane2 (f : LaneFields) (act : Lanes) (s : State) (fn : Word → Word → LOut) : Effect :=
  eachLane s act f.vd [f.va, f.vb] (fun xs => fn (xs.getD 0 0) (xs.getD 1 0))
def lane3 (f : LaneFields) (act : Lanes) (s : State) (fn : Word → Word → Word → LOut) : Effect :=
  eachLane s act f.vd [f.va, f.vb, f.vc] (fun xs => fn (xs.getD 0 0) (xs.getD 1 0) (xs.getD 2 0))

/-! ## Integer (R260, R261) -/

def isU (f : LaneFields) : Bool := f.xmod.getLsbD 0

/-- A value read as INT32, or unsigned. -/
def rd32 (u : Bool) (x : Word) : Int := if u then (x.toNat : Int) else x.toInt

def clampInt (lo hi x : Int) : Int := if x < lo then lo else if hi < x then hi else x

def sat32 (x : Int) : Int := clampInt (-(2 ^ 31)) (2 ^ 31 - 1) x
def usat32 (x : Int) : Int := clampInt 0 (2 ^ 32 - 1) x

/-- The exact result, wrapped, or saturated with SATF where that changes it (R56). -/
def intOut (sat u : Bool) (r : Int) : LOut :=
  if sat then
    let x := if u then usat32 r else sat32 r
    { val := BitVec.ofInt 32 x, sat := decide (x ≠ r) }
  else { val := BitVec.ofInt 32 r }

def half16 (x : Word) (h : Nat) : Int := (x.extractLsb' (16 * h) 16).toInt

def effVadd (f : LaneFields) (act : Lanes) (s : State) : Effect :=
  lane2 f act s fun a b => intOut f.sat (isU f) (rd32 (isU f) a + rd32 (isU f) b)
def effVsub (f : LaneFields) (act : Lanes) (s : State) : Effect :=
  lane2 f act s fun a b => intOut f.sat (isU f) (rd32 (isU f) a - rd32 (isU f) b)
def effVmul (f : LaneFields) (act : Lanes) (s : State) : Effect :=
  lane2 f act s fun a b => intOut f.sat (isU f) (rd32 (isU f) a * rd32 (isU f) b)
def effVmad (f : LaneFields) (act : Lanes) (s : State) : Effect :=
  lane3 f act s fun a b c => intOut f.sat (isU f) (rd32 (isU f) a * rd32 (isU f) b + rd32 (isU f) c)
def effVdot2 (f : LaneFields) (act : Lanes) (s : State) : Effect :=
  lane3 f act s fun a b c =>
    intOut f.sat false (half16 a 0 * half16 b 0 + half16 a 1 * half16 b 1 + c.toInt)
def effVabs (f : LaneFields) (act : Lanes) (s : State) : Effect :=
  lane1 f act s fun a => intOut f.sat false (if a.toInt < 0 then -a.toInt else a.toInt)
def effVmulh (f : LaneFields) (act : Lanes) (s : State) : Effect :=
  lane2 f act s fun a b => { val := BitVec.ofInt 32 (rd32 (isU f) a * rd32 (isU f) b / 2 ^ 32) }
def effVmin (f : LaneFields) (act : Lanes) (s : State) : Effect :=
  lane2 f act s fun a b => { val := if rd32 (isU f) a ≤ rd32 (isU f) b then a else b }
def effVmax (f : LaneFields) (act : Lanes) (s : State) : Effect :=
  lane2 f act s fun a b => { val := if rd32 (isU f) a ≤ rd32 (isU f) b then b else a }

/-- VSHRR's rounding shift, a tie toward +∞. -/
def roundShift (a : Int) (sh : Nat) : Int := if sh = 0 then a else (a + 2 ^ (sh - 1)) / 2 ^ sh

def sat16 (x : Int) : Int := clampInt (-(2 ^ 15)) (2 ^ 15 - 1) x

def effVshrr (f : LaneFields) (act : Lanes) (s : State) : Effect :=
  lane2 f act s fun a b =>
    let r := roundShift a.toInt (b.toNat % 32)
    if f.xmod.getLsbD 0 then { val := BitVec.ofInt 32 (sat16 r), sat := decide (sat16 r ≠ r) } else { val := BitVec.ofInt 32 r }

def execVadd (f : LaneFields) (s : State) : Out := laneAlu .vadd f effVadd s
def execVsub (f : LaneFields) (s : State) : Out := laneAlu .vsub f effVsub s
def execVmul (f : LaneFields) (s : State) : Out := laneAlu .vmul f effVmul s
def execVmulh (f : LaneFields) (s : State) : Out := laneAlu .vmulh f effVmulh s
def execVmad (f : LaneFields) (s : State) : Out := laneAlu .vmad f effVmad s
def execVdot2 (f : LaneFields) (s : State) : Out := laneAlu .vdot2 f effVdot2 s
def execVmin (f : LaneFields) (s : State) : Out := laneAlu .vmin f effVmin s
def execVmax (f : LaneFields) (s : State) : Out := laneAlu .vmax f effVmax s
def execVabs (f : LaneFields) (s : State) : Out := laneAlu .vabs f effVabs s
def execVshrr (f : LaneFields) (s : State) : Out := laneAlu .vshrr f effVshrr s

/-! ## Logic, shifts, bit fields (R262) -/

def sh5 (b : Word) : Nat := b.toNat % 32

/-- A bit field: bit t is bit pos + t of a, beyond 31 the sign or zero. -/
def fieldBit (sx : Bool) (a : Word) (i : Nat) : Bool := if i < 32 then a.getLsbD i else sx && a.msb

/-- VBFX: the field of len bits, extended. -/
def bitField (sx : Bool) (a b : Word) : Word :=
  let pos := b.toNat % 32
  let len := b.toNat / 256 % 32 + 1
  let top := sx && fieldBit sx a (pos + len - 1)
  (List.range 32).foldl (fun x t => if (if t < len then fieldBit sx a (pos + t) else top) then x ||| ((1 : Word) <<< t) else x) 0

/-- Leading zero bits of 32, and one bits. -/
def clz32 (x : Word) : Nat := ((List.range 32).find? (fun i => x.getLsbD (31 - i))).getD 32
def popc32 (x : Word) : Nat := ((List.range 32).filter (fun i => x.getLsbD i)).length

def effVand (f : LaneFields) (act : Lanes) (s : State) : Effect := lane2 f act s fun a b => { val := a &&& b }
def effVor (f : LaneFields) (act : Lanes) (s : State) : Effect := lane2 f act s fun a b => { val := a ||| b }
def effVxor (f : LaneFields) (act : Lanes) (s : State) : Effect := lane2 f act s fun a b => { val := a ^^^ b }
def effVandn (f : LaneFields) (act : Lanes) (s : State) : Effect := lane2 f act s fun a b => { val := a &&& ~~~b }
def effVnot (f : LaneFields) (act : Lanes) (s : State) : Effect := lane1 f act s fun a => { val := ~~~a }
def effVshl (f : LaneFields) (act : Lanes) (s : State) : Effect := lane2 f act s fun a b => { val := a <<< sh5 b }
def effVshr (f : LaneFields) (act : Lanes) (s : State) : Effect := lane2 f act s fun a b => { val := a >>> sh5 b }
def effVsar (f : LaneFields) (act : Lanes) (s : State) : Effect := lane2 f act s fun a b => { val := a.sshiftRight (sh5 b) }
def effVpopc (f : LaneFields) (act : Lanes) (s : State) : Effect := lane1 f act s fun a => { val := BitVec.ofNat 32 (popc32 a) }
def effVclz (f : LaneFields) (act : Lanes) (s : State) : Effect := lane1 f act s fun a => { val := BitVec.ofNat 32 (clz32 a) }
def effVbfx (f : LaneFields) (act : Lanes) (s : State) : Effect :=
  lane2 f act s fun a b => { val := bitField (f.xmod.getLsbD 0) a b }

def execVand (f : LaneFields) (s : State) : Out := laneAlu .vand f effVand s
def execVor (f : LaneFields) (s : State) : Out := laneAlu .vor f effVor s
def execVxor (f : LaneFields) (s : State) : Out := laneAlu .vxor f effVxor s
def execVandn (f : LaneFields) (s : State) : Out := laneAlu .vandn f effVandn s
def execVnot (f : LaneFields) (s : State) : Out := laneAlu .vnot f effVnot s
def execVshl (f : LaneFields) (s : State) : Out := laneAlu .vshl f effVshl s
def execVshr (f : LaneFields) (s : State) : Out := laneAlu .vshr f effVshr s
def execVsar (f : LaneFields) (s : State) : Out := laneAlu .vsar f effVsar s
def execVpopc (f : LaneFields) (s : State) : Out := laneAlu .vpopc f effVpopc s
def execVclz (f : LaneFields) (s : State) : Out := laneAlu .vclz f effVclz s
def execVbfx (f : LaneFields) (s : State) : Out := laneAlu .vbfx f effVbfx s

/-! ## Predicates (R263) -/

/-- A compare of two elements: bit L of pd, and flags. -/
def cmpLanes (f : LaneFields) (act : Lanes) (s : State) (fn : Word → Word → Bool × FpFlags) : Effect :=
  let g := s.grp s.cur.grp
  let outs := (lanesOf act).map (fun l =>
    let a := g.velt f.va.toNat l
    let b := g.velt f.vb.toNat l
    (l, fn a.val b.val, a.poison || b.poison))
  { p := [(f.vd.toNat, act, ⟨maskOf ((outs.filter (fun o => o.2.1.1)).map (·.1)), maskOf ((outs.filter (fun o => o.2.2)).map (·.1))⟩)],
    fp := outs.foldl (fun m o => m ||| o.2.1.2) 0 }

def effVcmpEq (f : LaneFields) (act : Lanes) (s : State) : Effect := cmpLanes f act s fun a b => (decide (a = b), 0)
def effVcmpNe (f : LaneFields) (act : Lanes) (s : State) : Effect := cmpLanes f act s fun a b => (decide (a ≠ b), 0)
def effVcmpLt (f : LaneFields) (act : Lanes) (s : State) : Effect := cmpLanes f act s fun a b => (decide (a.toInt < b.toInt), 0)
def effVcmpLe (f : LaneFields) (act : Lanes) (s : State) : Effect := cmpLanes f act s fun a b => (decide (a.toInt ≤ b.toInt), 0)
def effVcmpLtu (f : LaneFields) (act : Lanes) (s : State) : Effect := cmpLanes f act s fun a b => (decide (a.toNat < b.toNat), 0)
def effVcmpLeu (f : LaneFields) (act : Lanes) (s : State) : Effect := cmpLanes f act s fun a b => (decide (a.toNat ≤ b.toNat), 0)

def eitherNan (a b : Word) : Bool := isNan fp32 a.toNat || isNan fp32 b.toNat

/-- FP32 compares: LT and LE signal any NaN, EQ and UN a signalling one. -/
def fcmp (quietOk : Bool) (test : Nat → Nat → Bool) (a b : Word) : Bool × FpFlags :=
  let iv := if quietOk then isSnan fp32 a.toNat || isSnan fp32 b.toNat else eitherNan a b
  (!eitherNan a b && test a.toNat b.toNat, flagIf iv flagIV)

def effVfcmpEq (f : LaneFields) (act : Lanes) (s : State) : Effect := cmpLanes f act s (fcmp true (fpEq fp32))
def effVfcmpLt (f : LaneFields) (act : Lanes) (s : State) : Effect := cmpLanes f act s (fcmp false (fpLt fp32))
def effVfcmpLe (f : LaneFields) (act : Lanes) (s : State) : Effect :=
  cmpLanes f act s (fcmp false (fun a b => fpLt fp32 a b || fpEq fp32 a b))
def effVfcmpUn (f : LaneFields) (act : Lanes) (s : State) : Effect :=
  cmpLanes f act s fun a b => (eitherNan a b, flagIf (isSnan fp32 a.toNat || isSnan fp32 b.toNat) flagIV)

def execVcmpEq (f : LaneFields) (s : State) : Out := laneAlu .vcmpEq f effVcmpEq s
def execVcmpNe (f : LaneFields) (s : State) : Out := laneAlu .vcmpNe f effVcmpNe s
def execVcmpLt (f : LaneFields) (s : State) : Out := laneAlu .vcmpLt f effVcmpLt s
def execVcmpLe (f : LaneFields) (s : State) : Out := laneAlu .vcmpLe f effVcmpLe s
def execVcmpLtu (f : LaneFields) (s : State) : Out := laneAlu .vcmpLtu f effVcmpLtu s
def execVcmpLeu (f : LaneFields) (s : State) : Out := laneAlu .vcmpLeu f effVcmpLeu s
def execVfcmpEq (f : LaneFields) (s : State) : Out := laneAlu .vfcmpEq f effVfcmpEq s
def execVfcmpLt (f : LaneFields) (s : State) : Out := laneAlu .vfcmpLt f effVfcmpLt s
def execVfcmpLe (f : LaneFields) (s : State) : Out := laneAlu .vfcmpLe f effVfcmpLe s
def execVfcmpUn (f : LaneFields) (s : State) : Out := laneAlu .vfcmpUn f effVfcmpUn s

/-- A predicate word of two sources. -/
def predWord (f : LaneFields) (act : Lanes) (s : State) (fn : Lanes → Lanes → Lanes) : Effect :=
  let g := s.grp s.cur.grp
  let a := g.pred f.va.toNat
  let b := g.pred f.vb.toNat
  { p := [(f.vd.toNat, act, ⟨fn a.bits b.bits, a.poison ||| b.poison⟩)] }

def effPand (f : LaneFields) (act : Lanes) (s : State) : Effect := predWord f act s (· &&& ·)
def effPor (f : LaneFields) (act : Lanes) (s : State) : Effect := predWord f act s (· ||| ·)
def effPxor (f : LaneFields) (act : Lanes) (s : State) : Effect := predWord f act s (· ^^^ ·)
def effPnot (f : LaneFields) (act : Lanes) (s : State) : Effect :=
  let a := (s.grp s.cur.grp).pred f.va.toNat
  { p := [(f.vd.toNat, act, ⟨~~~a.bits, a.poison⟩)] }

/-- VSEL: the predicate bit and the chosen source count for poison (R258). -/
def effVsel (f : LaneFields) (act : Lanes) (s : State) : Effect :=
  let g := s.grp s.cur.grp
  let c := g.pred f.vc.toNat
  { v := (lanesOf act).map (fun l =>
      let x := if c.bits.getLsbD l then g.velt f.va.toNat l else g.velt f.vb.toNat l
      (f.vd.toNat, l, ⟨x.val, x.poison || c.poison.getLsbD l⟩)) }

def execPand (f : LaneFields) (s : State) : Out := laneAlu .pand f effPand s
def execPor (f : LaneFields) (s : State) : Out := laneAlu .por f effPor s
def execPxor (f : LaneFields) (s : State) : Out := laneAlu .pxor f effPxor s
def execPnot (f : LaneFields) (s : State) : Out := laneAlu .pnot f effPnot s
def execVsel (f : LaneFields) (s : State) : Out := laneAlu .vsel f effVsel s

/-! ## Moves (R264) -/

def effVmov (f : LaneFields) (act : Lanes) (s : State) : Effect := lane1 f act s fun a => { val := a }
def effVid (f : LaneFields) (act : Lanes) (_s : State) : Effect :=
  { v := (lanesOf act).map (fun l => (f.vd.toNat, l, ⟨BitVec.ofNat 32 l, false⟩)) }
def effVbcast (f : LaneFields) (act : Lanes) (s : State) : Effect :=
  let x := laneScalar s f.va
  { v := (lanesOf act).map (fun l => (f.vd.toNat, l, ⟨x.val.setWidth 32, x.poison⟩)) }
def effVbcastImm (f : LaneFields) (act : Lanes) (_s : State) : Effect :=
  { v := (lanesOf act).map (fun l => (f.vd.toNat, l, ⟨f.imm, false⟩)) }

def execVmov (f : LaneFields) (s : State) : Out := laneAlu .vmov f effVmov s
def execVid (f : LaneFields) (s : State) : Out := laneAlu .vid f effVid s
def execVbcast (f : LaneFields) (s : State) : Out := laneAlu .vbcast f effVbcast s
def execVbcastImm (f : LaneFields) (s : State) : Out := laneAlu .vbcastImm f effVbcastImm s

end Sys2Proof.Machine
end

