-- ==== Sys2Proof/Machine/LaneFloat.lean ====
section
/-!
DEFINITION. Floating-point lane words (R265–R267), conversion (R268), indirect registers and reductions (R269–R271).
-/
namespace Sys2Proof.Machine

/-- R265: the format of a word and the number of its elements in a lane. -/
def fpFmt (f : LaneFields) : Fmt :=
  match xmodLow f with
  | 0 => fp32 | 1 => fp16 | _ => bf16

def rmOf (f : LaneFields) : Nat := f.rm.toNat

/-- Element i of width w of a lane. -/
def elt (w : Nat) (x : Word) (i : Nat) : Nat := x.toNat / 2 ^ (w * i) % 2 ^ w

/-- Each element on its own, from the same-numbered elements of the operands. -/
def packed (f : LaneFields) (xs : List Word) (fn : Fmt → List Nat → Nat × FpFlags) : LOut :=
  let t := fpFmt f
  if xmodLow f = 0 then
    let r := fn t (xs.map (·.toNat))
    { val := BitVec.ofNat 32 r.1, fp := r.2 }
  else
    let r0 := fn t (xs.map (fun x => elt 16 x 0))
    let r1 := fn t (xs.map (fun x => elt 16 x 1))
    { val := BitVec.ofNat 32 (r0.1 + r1.1 * 2 ^ 16), fp := r0.2 ||| r1.2 }

def fpLane1 (f : LaneFields) (act : Lanes) (s : State) (fn : Fmt → Nat → Nat × FpFlags) : Effect :=
  eachLane s act f.vd [f.va] (fun xs => packed f xs (fun t e => fn t (e.getD 0 0)))
def fpLane2 (f : LaneFields) (act : Lanes) (s : State) (fn : Fmt → Nat → Nat → Nat × FpFlags) : Effect :=
  eachLane s act f.vd [f.va, f.vb] (fun xs => packed f xs (fun t e => fn t (e.getD 0 0) (e.getD 1 0)))
def fpLane3 (f : LaneFields) (act : Lanes) (s : State) (fn : Fmt → Nat → Nat → Nat → Nat × FpFlags) : Effect :=
  eachLane s act f.vd [f.va, f.vb, f.vc] (fun xs => packed f xs (fun t e => fn t (e.getD 0 0) (e.getD 1 0) (e.getD 2 0)))

/-! ## Arithmetic (R266) -/

def effVfadd (f : LaneFields) (act : Lanes) (s : State) : Effect := fpLane2 f act s (fun t a b => fpAdd t (rmOf f) a b)
def effVfsub (f : LaneFields) (act : Lanes) (s : State) : Effect := fpLane2 f act s (fun t a b => fpSub t (rmOf f) a b)
def effVfmul (f : LaneFields) (act : Lanes) (s : State) : Effect := fpLane2 f act s (fun t a b => fpMul t (rmOf f) a b)
def effVfma (f : LaneFields) (act : Lanes) (s : State) : Effect := fpLane3 f act s (fun t a b c => fpFma t (rmOf f) a b c)
def effVfms (f : LaneFields) (act : Lanes) (s : State) : Effect :=
  fpLane3 f act s (fun t a b c => fpFma t (rmOf f) a b (negate t c))
def effVfdiv (f : LaneFields) (act : Lanes) (s : State) : Effect := fpLane2 f act s (fun t a b => fpDiv t (rmOf f) a b)
def effVfsqrt (f : LaneFields) (act : Lanes) (s : State) : Effect := fpLane1 f act s (fun t a => fpSqrt t (rmOf f) a)
def effVfmin (f : LaneFields) (act : Lanes) (s : State) : Effect := fpLane2 f act s (fun t a b => fpMinMax t false a b)
def effVfmax (f : LaneFields) (act : Lanes) (s : State) : Effect := fpLane2 f act s (fun t a b => fpMinMax t true a b)
def effVfabs (f : LaneFields) (act : Lanes) (s : State) : Effect :=
  fpLane1 f act s (fun t a => (if t.sign a then negate t a else a, 0))
def effVfneg (f : LaneFields) (act : Lanes) (s : State) : Effect := fpLane1 f act s (fun t a => (negate t a, 0))

def execVfadd (f : LaneFields) (s : State) : Out := laneAlu .vfadd f effVfadd s
def execVfsub (f : LaneFields) (s : State) : Out := laneAlu .vfsub f effVfsub s
def execVfmul (f : LaneFields) (s : State) : Out := laneAlu .vfmul f effVfmul s
def execVfma (f : LaneFields) (s : State) : Out := laneAlu .vfma f effVfma s
def execVfms (f : LaneFields) (s : State) : Out := laneAlu .vfms f effVfms s
def execVfdiv (f : LaneFields) (s : State) : Out := laneAlu .vfdiv f effVfdiv s
def execVfsqrt (f : LaneFields) (s : State) : Out := laneAlu .vfsqrt f effVfsqrt s
def execVfmin (f : LaneFields) (s : State) : Out := laneAlu .vfmin f effVfmin s
def execVfmax (f : LaneFields) (s : State) : Out := laneAlu .vfmax f effVfmax s
def execVfabs (f : LaneFields) (s : State) : Out := laneAlu .vfabs f effVfabs s
def execVfneg (f : LaneFields) (s : State) : Out := laneAlu .vfneg f effVfneg s

/-! ## Special functions (R267) -/

def effVfrcp (f : LaneFields) (act : Lanes) (s : State) : Effect := fpLane1 f act s (fun t a => fpRcp t (rmOf f) a)
def effVfrsq (f : LaneFields) (act : Lanes) (s : State) : Effect := fpLane1 f act s (fun t a => fpRsq t (rmOf f) a)
def effVfexp2 (f : LaneFields) (act : Lanes) (s : State) : Effect := fpLane1 f act s (fun t a => fpExp2 t (rmOf f) a)
def effVflog2 (f : LaneFields) (act : Lanes) (s : State) : Effect := fpLane1 f act s (fun t a => fpLog2 t (rmOf f) a)
def effVfsin (f : LaneFields) (act : Lanes) (s : State) : Effect := fpLane1 f act s (fun t a => fpSin t (rmOf f) a)
def effVfcos (f : LaneFields) (act : Lanes) (s : State) : Effect := fpLane1 f act s (fun t a => fpCos t (rmOf f) a)

def execVfrcp (f : LaneFields) (s : State) : Out := laneAlu .vfrcp f effVfrcp s
def execVfrsq (f : LaneFields) (s : State) : Out := laneAlu .vfrsq f effVfrsq s
def execVfexp2 (f : LaneFields) (s : State) : Out := laneAlu .vfexp2 f effVfexp2 s
def execVflog2 (f : LaneFields) (s : State) : Out := laneAlu .vflog2 f effVflog2 s
def execVfsin (f : LaneFields) (s : State) : Out := laneAlu .vfsin f effVfsin s
def execVfcos (f : LaneFields) (s : State) : Out := laneAlu .vfcos f effVfcos s

/-! ## Conversion (R268) -/

/-- The float formats by code; INT codes 8, 9, 10 by width. -/
def cvtFmt (c : Nat) : Fmt :=
  match c with
  | 0 => fp32 | 1 => fp16 | 2 => bf16 | 3 => e4m3 | 4 => e5m2 | 5 => e2m1 | _ => e3m5
def cvtBits (c : Nat) : Nat :=
  match c with
  | 0 | 8 => 32 | 1 | 2 | 9 => 16 | 5 => 4 | _ => 8

/-- One converted element: its code, flags, saturation. -/
def convert (src dst rm : Nat) (sat : Bool) (x : Nat) : Nat × FpFlags × Bool :=
  let n := cvtBits dst
  let ofI (v : Int) : Nat := (v % 2 ^ n).toNat
  let srcInt : Int := (BitVec.ofNat (cvtBits src) x).toInt
  if cvtIsInt src && cvtIsInt dst then
    let r := if sat then clampInt (-(2 ^ (n - 1))) (2 ^ (n - 1) - 1) srcInt else srcInt
    (ofI r, 0, sat && decide (r ≠ srcInt))
  else if cvtIsInt src then
    let r := intToFp (cvtFmt dst) rm srcInt
    (r.1, r.2, false)
  else if cvtIsInt dst then
    let r := fpToInt (cvtFmt src) n rm x
    (ofI r.1, r.2, false)
  else
    let r := fpConvert (cvtFmt src) (cvtFmt dst) rm x
    (r.1, r.2, false)

/-- A lane with element i of width w replaced. -/
def putElt (w i : Nat) (x : Word) (v : Nat) : Word :=
  (x &&& ~~~(BitVec.ofNat 32 ((2 ^ w - 1) * 2 ^ (w * i)))) ||| BitVec.ofNat 32 (v % 2 ^ w * 2 ^ (w * i))

def effVcvt (f : LaneFields) (act : Lanes) (s : State) : Effect :=
  let w := cvtBits (cvtDst f)
  let conv (a : Word) (old : Word) : LOut :=
    let r := convert (cvtSrc f) (cvtDst f) (rmOf f) f.sat (elt (cvtBits (cvtSrc f)) a (cvtSrcEl f))
    { val := putElt w (cvtDstEl f) old r.1, fp := r.2.1, sat := r.2.2 }
  if cvtIns f then eachLane s act f.vd [f.va, f.vd] (fun xs => conv (xs.getD 0 0) (xs.getD 1 0))
  else lane1 f act s (fun a => conv a 0)

def execVcvt (f : LaneFields) (s : State) : Out := laneAlu .vcvt f effVcvt s

/-! ## Indirect registers (R269) -/

/-- The index's poison, then the registers it reaches. -/
def indirectStop (s : State) (act : Lanes) (base vx : BitVec 9) : Option LaneStop :=
  let g := s.grp s.cur.grp
  let bad := poisonedIn g act vx.toNat
  let out := maskOf ((lanesOf act).filter (fun l => decide (g.grant ≤ base.toNat + (g.velt vx.toNat l).val.toNat)))
  if bad ≠ 0 then some (.poison 4 bad) else if out ≠ 0 then some (.lane 6 out) else none

def effVrdi (f : LaneFields) (act : Lanes) (s : State) : Effect :=
  let g := s.grp s.cur.grp
  { stop := indirectStop s act f.va f.vb,
    v := (lanesOf act).map (fun l => (f.vd.toNat, l, g.velt (f.va.toNat + (g.velt f.vb.toNat l).val.toNat) l)) }
def effVwri (f : LaneFields) (act : Lanes) (s : State) : Effect :=
  let g := s.grp s.cur.grp
  { stop := indirectStop s act f.vd f.vb,
    v := (lanesOf act).map (fun l => (f.vd.toNat + (g.velt f.vb.toNat l).val.toNat, l, g.velt f.va.toNat l)) }

def execVrdi (f : LaneFields) (s : State) : Out := laneAlu .vrdi f effVrdi s
def execVwri (f : LaneFields) (s : State) : Out := laneAlu .vwri f effVwri s

/-! ## Reductions (R270, R271) -/

def elements (s : State) (f : LaneFields) (act : Lanes) : List LElt :=
  (lanesOf act).map (fun l => (s.grp s.cur.grp).velt f.va.toNat l)

/-- The value of VREDI. -/
def reduceInt (op : Nat) (u : Bool) (xs : List Word) : DWord :=
  let is := xs.map (rd32 u)
  let ext (w : Word) : DWord := w.setWidth 64
  match op with
  | 0 => BitVec.ofInt 64 is.sum
  | 1 => BitVec.ofInt 64 (is.foldl (fun m x => if x < m then x else m) (if u then 2 ^ 32 - 1 else 2 ^ 31 - 1))
  | 2 => BitVec.ofInt 64 (is.foldl (fun m x => if m < x then x else m) (if u then 0 else -(2 ^ 31)))
  | 3 => ext (xs.foldl (· &&& ·) 0xFFFFFFFF)
  | 4 => ext (xs.foldl (· ||| ·) 0)
  | _ => ext (xs.foldl (· ^^^ ·) 0)

def effVredi (f : LaneFields) (act : Lanes) (s : State) : Effect :=
  let xs := elements s f act
  { r := some (f.vd.toNat, ⟨reduceInt (f.xmod.toNat % 8) (f.xmod.getLsbD 3) (xs.map (·.val)), xs.any (·.poison)⟩) }

/-- VREDF in the order of R65. -/
def reduceFp (op : Nat) (xs : List Word) : Nat × FpFlags :=
  let step (acc : Nat × FpFlags) (x : Word) : Nat × FpFlags :=
    let r := match op with
      | 0 => fpAdd fp32 0 acc.1 x.toNat
      | 1 => fpMinMax fp32 false acc.1 x.toNat
      | _ => fpMinMax fp32 true acc.1 x.toNat
    (r.1, acc.2 ||| r.2)
  match xs with
  | [] => (match op with | 0 => 0 | 1 => inf fp32 false | _ => inf fp32 true, 0)
  | x :: rest => rest.foldl step (x.toNat, 0)

def effVredf (f : LaneFields) (act : Lanes) (s : State) : Effect :=
  let xs := elements s f act
  let r := reduceFp (xmodLow f) (xs.map (·.val))
  { r := some (f.vd.toNat, ⟨BitVec.ofNat 64 r.1, xs.any (·.poison)⟩), fp := r.2 }

def execVredi (f : LaneFields) (s : State) : Out := laneAlu .vredi f effVredi s
def execVredf (f : LaneFields) (s : State) : Out := laneAlu .vredf f effVredf s

end Sys2Proof.Machine
end

