-- ==== Sys2Proof/Machine/LaneTable.lean ====
section
/-!
DEFINITION. The crossbar and its patterns (R272–R274), activation tables (R275–R278), window registers (R279–R282) with
the steps that complete their loads; and the paired lane word (R218–R220).
-/
namespace Sys2Proof.Machine

/-- A lane word of class M whose load a later step writes: R285's order with class LANE before MEM (R259). -/
def lanePart (s : State) (sub : Nat) (lanes : Lanes) : Out :=
  .next (trapLane s .lane sub { illopInfo s with lanes := lanes })

/-! ## VPTLD, VPERM, VSLIDE (R272–R274) -/

/-- A load of n bytes at the address in sa, aligned to m, into a table of the core. -/
def tableLoad (op : LaneOp) (f : LaneFields) (n m : Nat) (dest : LoadDest) (arrive : Nat → State → State) (s : State) : Out :=
  issueMemLane op f .ld true s fun act s =>
    let k := s.cur.grp
    let a := laneScalar s f.va
    if a.poison then poisonLane s 1 act
    else if a.val.toNat % m ≠ 0 then lanePart s 3 act
    else match locate s (s.grp k).team acceptsPlain a.val.toNat n with
      | .error e => memTrapLane s ⟨e, act, a.val.toNat⟩
      | .ok loc =>
        issueLoad s .ld dest false [resolvePiece s k 0 loc n] (fun s => arrive (nextOp s .ld) (issueLaneWord s)) none

def execVptld (f : LaneFields) (s : State) : Out :=
  tableLoad .vptld f 96 32 (.pattern (f.imm.toNat % 64)) (fun _ s => s) s

/-- The first load of a group's operation whose bytes are all there. -/
def wholeLoad (g : Group) (op : Nat) : Option PendLoad :=
  g.loads.find? (fun l => decide (l.op = op) && l.pieces.all (·.whole))

def dropLoad (s : State) (k op : Nat) : State :=
  s.modGrp k (fun g => { g with loads := g.loads.filter (fun l => decide (l.op ≠ op)) })

/-- PATTERN_ENTRY_LOAD: the bytes of the VPTLD b of group a replace the entry whole (R272). -/
def execPatternEntryLoad (s : State) : Out :=
  let k := s.cur.a
  match wholeLoad (s.grp k) s.cur.b with
  | some pl =>
    match pl.dest with
    | .pattern _ =>
      let s := pl.pieces.foldl (fun s p => writePiece s k pl p) s
      .next (endIfEmpty (dropLoad s k pl.op) k pl.op)
    | _ => .next (notOffered s)
  | none => .next (notOffered s)

def effVperm (f : LaneFields) (act : Lanes) (s : State) : Effect :=
  let k := s.cur.grp
  let g := s.grp k
  let e := (s.core (s.coreOf k)).pattern (f.imm.toNat % 64)
  let pick (l : Nat) : LElt :=
    let i := (e.bytes[l]?.getD 0).toNat
    if i < 96 then g.velt f.va.toNat i else zeroElt
  { stop := if e.poison then some (.poison 4 act) else if e.tag ≠ s.asidOf k then some (.lane 1 act) else none,
    v := (lanesOf act).map (fun l => (f.vd.toNat, l, pick l)) }

/-- An entry of tag 0 belongs to no context: every lane names lane 0 after module reset (log 27). -/
def execVperm (f : LaneFields) (s : State) : Out := laneAlu .vperm f effVperm s

/-- Element x of a register of n elements of width w. -/
def slideElt (g : Group) (r w x : Nat) : Nat × Bool :=
  let per := 32 / w
  let e := g.velt r (x / per)
  (elt w e.val (x % per), e.poison)

def effVslide (f : LaneFields) (act : Lanes) (s : State) : Effect :=
  let g := s.grp s.cur.grp
  let w : Nat := if f.xmod.getLsbD 0 then 16 else 32
  let per : Nat := 32 / w
  let n : Int := 96 * (per : Int)
  let fill := (f.xmod.extractLsb' 1 2).toNat
  let d := f.imm.toInt
  let src (e : Nat) : Nat × Bool :=
    let x : Int := e + d
    if 0 ≤ x ∧ x < n then slideElt g f.va.toNat w x.toNat
    else match fill with
      | 0 => (0, false)
      | 1 => slideElt g f.vb.toNat w (if n ≤ x then x - n else x + n).toNat
      | _ => slideElt g f.va.toNat w (if n ≤ x then n - 1 else 0).toNat
  let lane (l : Nat) : LElt :=
    let xs := (List.range per).map (fun h => src (per * l + h))
    ⟨BitVec.ofNat 32 (((List.range per).zip xs).foldl (fun t p => t + p.2.1 * 2 ^ (w * p.1)) 0), xs.any (·.2)⟩
  { v := (lanesOf act).map (fun l => (f.vd.toNat, l, lane l)) }

def execVslide (f : LaneFields) (s : State) : Out := laneAlu .vslide f effVslide s

/-! ## Activation tables (R275–R277) -/

def Core.curAct (c : Core) : ActBank := if c.actCur then c.act1 else c.act0

/-- ⌊(x − lo) × w⌋ of finite FP32 values, exactly. -/
def segment (x lo w : Nat) : Int :=
  let a := finite fp32 x
  let b := finite fp32 lo
  let m := finite fp32 w
  let e := min a.e b.e
  let n := (a.int e - b.int e) * (m.m : Int)
  let t := e + m.e
  if 0 ≤ t then n * 2 ^ t.toNat else n / 2 ^ (-t).toNat

/-- ACT.EVAL of one element: the result, flags, and the segment read. -/
def evalAct (b : ActBank) (rm : Nat) (x : Nat) : (Nat × FpFlags) × Option Nat :=
  let word (i : Nat) : Nat := (AMap.get 0 b.words i).toNat
  let lo := word 0
  let w := word 1
  let fin (v : Nat) : Bool := !(isNan fp32 v) && !(isInf fp32 v)
  if isNan fp32 x then ((quiet fp32 x, flagIf (isSnan fp32 x) flagIV), none)
  else if !(fin lo) || !(fin w) || fp32.sign w || isZero fp32 w then (invalid fp32, none)
  else
    let k := if isInf fp32 x then (if fp32.sign x then 0 else 255) else (clampInt 0 255 (segment x lo w)).toNat
    (fpFma fp32 rm (word (5 + 2 * k)) x (word (4 + 2 * k)), some k)

/-- Poisoned table words poison results that use them: a NaN uses none (R276). -/
def actPoison (b : ActBank) (x : Nat) (k : Option Nat) : Bool :=
  !(isNan fp32 x) && (b.poison.contains 0 || b.poison.contains 1
    || (match k with | some k => b.poison.contains (4 + 2 * k) || b.poison.contains (5 + 2 * k) | none => false))

def effActEval (f : LaneFields) (act : Lanes) (s : State) : Effect :=
  let k := s.cur.grp
  let b := (s.core (s.coreOf k)).curAct
  let outs := (lanesOf act).map (fun l =>
    let x := (s.grp k).velt f.va.toNat l
    let r := evalAct b (rmOf f) x.val.toNat
    (l, r.1, x.poison || actPoison b x.val.toNat r.2))
  { stop := if b.tag ≠ s.asidOf k then some (.lane 2 act) else none,
    v := outs.map (fun o => (f.vd.toNat, o.1, ⟨BitVec.ofNat 32 o.2.1.1, o.2.2⟩)),
    fp := outs.foldl (fun m o => m ||| o.2.1.2) 0 }

def execActEval (f : LaneFields) (s : State) : Out := laneAlu .actEval f effActEval s

/-- The request joins those at the core's table unit. -/
def joinTable (s : State) (k op : Nat) (d : Option SIndex) : State :=
  s.modCore (s.coreOf k) (fun c => { c with actReqs := c.actReqs ++ [(k, op, d)] })

def execActLd (f : LaneFields) (s : State) : Out :=
  tableLoad .actLd f 2064 16 (.actBank 0) (fun op s => joinTable s s.cur.grp op none) s

def execActSwap (f : LaneFields) (s : State) : Out :=
  issueMemLane .actSwap f .ld true s fun _ s =>
    let k := s.cur.grp
    let d : SIndex := f.vd.setWidth 6
    let (s, op) := startOp (issueLaneWord s) .ld true
    let s := s.modGrp k (fun g => { g with sbusy := if d = 0 then g.sbusy else g.sbusy ++ [⟨d, op, false⟩] })
    .next (joinTable s k op (some d))

def popTable (s : State) (c : Nat) : State := s.modCore c (fun q => { q with actReqs := q.actReqs.drop 1 })

/-- The bank that is not current. -/
def Core.spare (c : Core) : Nat := if c.actCur then 0 else 1

/-- ACT_BANK_LOADED: the ACT.LD at the head of core a's table unit has its image: the inactive bank takes it (R276). -/
def execActBankLoaded (s : State) : Out :=
  let c := s.cur.a
  match (s.core c).actReqs with
  | (k, op, none) :: _ =>
    match wholeLoad (s.grp k) op with
    | some pl =>
      let bs := pl.pieces.flatMap (fun p => p.got.map (fun b => b.getD ⟨0, false⟩))
      let s := (popTable s c).modCore c (fun q => q.setAct q.spare (fillBank (s.asidOf k) bs))
      .next (endIfEmpty (dropLoad s k op) k op)
    | none => .next (notOffered s)
  | _ => .next (notOffered s)

/-- ACT_SWAP_PERFORM: the ACT.SWAP at the head of core a's table unit swaps the banks, or answers 1 (R276). -/
def execActSwapPerform (s : State) : Out :=
  let c := s.cur.a
  match (s.core c).actReqs with
  | (k, op, some d) :: _ =>
    let q := s.core c
    let mine := decide ((if q.actCur then q.act0 else q.act1).tag = s.asidOf k)
    let s := popTable s c
    let s := if mine then s.modCore c (fun q => { q with actCur := !q.actCur }) else s
    .next (s.modGrp k (fun g =>
      (g.writeS (g.opSecond op) d.toNat ⟨if mine then 0 else 1, false⟩).finish op))
  | _ => .next (notOffered s)

/-! ## Windows (R61–R64, R279–R282) -/

/-- A stream word's fields (R279). -/
structure Stream where
  nw : Nat
  rate : Nat
  seed : Nat
deriving DecidableEq, Repr

/-- Bits and weights of a group at a rate (R61). -/
def rateA (r : Nat) : Nat := match r with | 1 => 1 | 2 => 3 | _ => 7
def rateG (r : Nat) : Nat := match r with | 1 => 1 | 2 => 2 | _ => 4

def parseStream (w : DWord) : Option Stream :=
  let x := w.toNat
  let nw := x % 2 ^ 28
  let rate := x / 2 ^ 28 % 4
  if decide (nw = 0) || decide (nw % 64 ≠ 0) || decide (rate = 0) || decide (x / 2 ^ 30 % 4 ≠ 0) || decide (x / 2 ^ 48 ≠ 0) then none
  else some ⟨nw, rate, x / 2 ^ 32 % 2 ^ 16⟩

/-- Bytes of a stream. -/
def Stream.bytes (t : Stream) : Nat := t.nw * rateA t.rate / rateG t.rate / 8

def winValid (w : DWord) : Bool := w.getLsbD 63
def winRate (w : DWord) : Nat := (w.extractLsb' 60 2).toNat
def winK (w : DWord) : Nat := (w.extractLsb' 32 28).toNat
def winSeed (w : DWord) : Nat := (w.extractLsb' 16 16).toNat
def winBits (w : DWord) : Nat := (w.extractLsb' 0 16).toNat

/-- A window with WIN given. -/
def makeWin (t : Stream) (k win : Nat) : DWord := BitVec.ofNat 64 (2 ^ 63 + t.rate * 2 ^ 60 + k * 2 ^ 32 + t.seed * 2 ^ 16 + win)

/-- The bytes that hold the window of weight k's group, from the stream's base: offsets, and the bits before the
window. -/
def winBytes (t : Stream) (k : Nat) : List Nat × Nat :=
  let start := k / rateG t.rate * rateA t.rate
  ((List.range ((start % 8 + 16 + 7) / 8)).map (fun j => (start / 8 + j) % t.bytes), start % 8)

/-- Runs of consecutive numbers in a list. -/
def numberRuns : List Nat → List (Nat × Nat)
  | [] => []
  | x :: xs =>
    match numberRuns xs with
    | (a, n) :: rest => if a = x + 1 then (x, n + 1) :: rest else (x, 1) :: (a, n) :: rest
    | [] => [(x, 1)]

/-- The address of byte o of a stream; a sum beyond 64 bits wraps (DESIGN CHOICE, log 47). -/
def streamAddr (base : DWord) (o : Nat) : Nat := (base + BitVec.ofNat 64 o).toNat

/-- The place of a run of a window's bytes, checked as any lane load's (R280, R284). -/
def runPlace (s : State) (k : Nat) (base : DWord) (r : Nat × Nat) : Except Nat (Loc × Nat) :=
  (locate s (s.grp k).team acceptsPlain (streamAddr base r.1) r.2).map (fun l => (l, r.2))

/-- Places of a lane's runs with the address of the first run that has none; the lane's window is read from them. -/
def winPlaces (s : State) (k lane : Nat) (base : DWord) (rs : List (Nat × Nat)) : Except LaneFault (List (Nat × Loc × Nat)) :=
  allLanesOk (rs.map (fun r => (lane, streamAddr base r.1, runPlace s k base r)))

/-- A lane's fetch of weight w's window, in two pieces at the wrap to the stream's base (R280); an old poison stays. -/
def winPiece (s : State) (k lane : Nat) (base : DWord) (t : Stream) (w : Nat) (poison : Bool) : Except LaneFault LoadPiece :=
  let (offs, skip) := winBytes t w
  (winPlaces s k lane base (numberRuns offs)).map (fun ps =>
    let byte (l : Loc) : Nat × Option PByte := match l with
      | .own o => (0, some (scratchGet s (s.grp k).team o))
      | l => (l.addr, none)
    let bs := ps.flatMap (fun p => (List.range p.2.2).map (fun j => byte (p.2.1.plus j)))
      ++ (if poison then [(0, some ⟨0, true⟩)] else [])
    ⟨lane, bs.map (·.1), bs.map (·.2), makeWin t w 0, skip⟩)

/-- Every lane's fetch, or the fault of the least sub-code. -/
def joinPieces : List (Except LaneFault LoadPiece) → Except LaneFault (List LoadPiece)
  | [] => .ok []
  | p :: ps =>
    match p, joinPieces ps with
    | .ok x, .ok xs => .ok (x :: xs)
    | .error e, .ok _ => .error e
    | .ok _, .error f => .error f
    | .error e, .error f => .error (joinFault e f)

/-- The checks WLD and WADV share: poison of the base (ADDRESS), then of the stream word and of the lanes' indices (ARGUMENT, R396);
the stream word; the lanes' own check; then the region of what each lane fetches. -/
def windowWord (op : LaneOp) (f : LaneFields) (s : State) (idxBad : Lanes → Lanes)
    (check : Stream → Lanes → Option (Nat × Lanes)) (piece : Stream → DWord → Nat → Except LaneFault LoadPiece) : Out :=
  issueMemLane op f .ld true s fun act s =>
    let a := laneScalar s f.vb
    let b := laneScalar s f.vc
    if a.poison then poisonLane s 1 act
    else if b.poison then poisonLane s 4 act
    else if idxBad act ≠ 0 then poisonLane s 4 (idxBad act)
    else match parseStream b.val with
      | none => lanePart s 4 act
      | some t =>
        match check t act with
        | some (sub, ls) => lanePart s sub ls
        | none =>
          match joinPieces ((lanesOf act).map (piece t a.val)) with
          | .error e => memTrapLane s e
          | .ok ps => issueLoad s .ld (.window (f.vd.toNat % 4)) false ps issueLaneWord none

def execWld (f : LaneFields) (s : State) : Out :=
  let k := s.cur.grp
  let g := s.grp k
  windowWord .wld f s (fun act => poisonedIn g act f.va.toNat)
    (fun t act =>
      let bad := maskOf ((lanesOf act).filter (fun l => decide (t.nw ≤ (g.velt f.va.toNat l).val.toNat)))
      if bad ≠ 0 then some (5, bad) else none)
    (fun t base l => winPiece s k l base t (g.velt f.va.toNat l).val.toNat false)

def execWadv (f : LaneFields) (s : State) : Out :=
  let k := s.cur.grp
  let g := s.grp k
  let w (l : Nat) : WElt := g.win (f.vd.toNat % 4) l
  windowWord .wadv f s (fun _ => 0)
    (fun t act =>
      let bad := maskOf ((lanesOf act).filter (fun l =>
        !(winValid (w l).val) || decide (winRate (w l).val ≠ t.rate) || decide (winSeed (w l).val ≠ t.seed)))
      if bad ≠ 0 then some (4, bad) else none)
    (fun t base l =>
      let x := w l
      let n := (winK x.val + 1) % t.nw
      if n / rateG t.rate ≠ winK x.val / rateG t.rate then winPiece s k l base t n x.poison
      else .ok ⟨l, [0], [some ⟨0, x.poison⟩], makeWin t n (winBits x.val), 0⟩)

/-- WINDOW_FILL: a lane of the WLD or WADV b of group a has its stream bytes: its window is written (R280). -/
def execWindowFill (s : State) : Out :=
  let k := s.cur.a
  match (s.grp k).loads.find? (fun l => decide (l.op = s.cur.b)) with
  | some pl =>
    match pl.dest, pl.pieces.find? (·.whole) with
    | .window _, some p =>
      let s := writePiece s k pl p
      let rest := pl.pieces.filter (fun x => decide (x.lane ≠ p.lane))
      let s := if rest.isEmpty then dropLoad s k pl.op
        else s.modGrp k (fun g => { g with loads := g.loads.map (fun l => if l.op = pl.op then { l with pieces := rest } else l) })
      .next (endIfEmpty s k pl.op)
    | _, _ => .next (notOffered s)
  | none => .next (notOffered s)

/-- R63. -/
def rawWeight (win j seed : Nat) : Int :=
  let x := (win * 0x9E37 + j * 0x6A09 + seed) % 2 ^ 16
  ((x % 16 + x / 16 % 16 + x / 256 % 16 + x / 4096 : Nat) : Int) - 30

/-- R64: V × scale, one RNE rounding. The rule does not state the sign of a zero result nor the NaN of a NaN scale: V = 0 is taken as
+0, so a negative scale gives −0, and a NaN scale comes back quiet, with its payload (DESIGN CHOICE, log 47). -/
def scaledWeight (v : Int) (scale : Nat) : Nat :=
  (fpMul fp32 0 (intToFp fp32 0 v).1 (widen bf16 scale)).1

def effWval (f : LaneFields) (act : Lanes) (s : State) : Effect :=
  let g := s.grp s.cur.grp
  let w (l : Nat) : WElt := g.win (f.va.toNat % 4) l
  let sc := f.xmod.getLsbD 0
  let bad := maskOf ((lanesOf act).filter (fun l => !(winValid (w l).val)))
  let val (l : Nat) : LElt :=
    let x := (w l).val
    let v := rawWeight (winBits x) (winK x % rateG (winRate x)) (winSeed x)
    if sc then
      let e := g.velt f.vb.toNat l
      ⟨BitVec.ofNat 32 (scaledWeight v (e.val.toNat % 2 ^ 16)), (w l).poison || e.poison⟩
    else ⟨BitVec.ofInt 32 v, (w l).poison⟩
  { stop := if bad ≠ 0 then some (.lane 4 bad) else none, v := (lanesOf act).map (fun l => (f.vd.toNat, l, val l)) }

def execWval (f : LaneFields) (s : State) : Out := laneAlu .wval f effWval s

/-! ## The paired lane word (R218–R220) -/

/-- The effect of an operation that may be a half of a pair (R228). -/
def halfEffect (op : LaneOp) : LaneFields → Lanes → State → Effect :=
  match op with
  | .vfma => effVfma | .vfadd => effVfadd | .vfsub => effVfsub | .vfms => effVfms | .vfmul => effVfmul
  | .vfmin => effVfmin | .vfmax => effVfmax | .vfabs => effVfabs | .vfneg => effVfneg | .vfdiv => effVfdiv
  | .vfsqrt => effVfsqrt | .vfrcp => effVfrcp | .vfrsq => effVfrsq | .vfexp2 => effVfexp2 | .vflog2 => effVflog2
  | .vfsin => effVfsin | .vfcos => effVfcos | .actEval => effActEval
  | .vadd => effVadd | .vsub => effVsub | .vmul => effVmul | .vmulh => effVmulh | .vmad => effVmad | .vdot2 => effVdot2
  | .vmin => effVmin | .vmax => effVmax | .vabs => effVabs | .vshrr => effVshrr | .vshl => effVshl | .vshr => effVshr
  | .vsar => effVsar | .vand => effVand | .vor => effVor | .vxor => effVxor | .vandn => effVandn | .vnot => effVnot
  | .vpopc => effVpopc | .vclz => effVclz | .vbfx => effVbfx
  | .vcmpEq => effVcmpEq | .vcmpNe => effVcmpNe | .vcmpLt => effVcmpLt | .vcmpLe => effVcmpLe | .vcmpLtu => effVcmpLtu
  | .vcmpLeu => effVcmpLeu | .vsel => effVsel | .pand => effPand | .por => effPor | .pxor => effPxor | .pnot => effPnot
  | .vfcmpEq => effVfcmpEq | .vfcmpLt => effVfcmpLt | .vfcmpLe => effVfcmpLe | .vfcmpUn => effVfcmpUn
  | .vmov => effVmov | .vid => effVid
  | _ => fun _ _ _ => {}

/-- Both halves read before either writes; each acts under its own guard (R220). -/
def execPairedLaneWord (u l : PairHalf) (s : State) : Out :=
  let k := s.cur.grp
  let g := s.grp k
  let fu := halfFields u
  let fl := halfFields l
  let parts := [(u.op, fu), (l.op, fl)]
  match firstIllop (halvesCheck u l) (firstIllop (grantCheck g.grant u.op fu) (firstIllop (grantCheck g.grant l.op fl) (pairCheck u l))) with
  | some e => .next (trapLane s .illop (illopCode e) (illopInfo s))
  | none =>
    if laneBusy g parts then .next (notOffered s)
    else
      let bad := guardPoison g s.cur.mask fu ||| guardPoison g s.cur.mask fl
      if bad ≠ 0 then poisonLane s 3 bad
      else
        let eu := halfEffect u.op fu (actingLanes g s.cur.mask fu) s
        let el := halfEffect l.op fl (actingLanes g s.cur.mask fl) s
        match eu.stop, el.stop with
        | some (.poison sub ls), _ => poisonLane s sub ls
        | _, some (.poison sub ls) => poisonLane s sub ls
        | some (.lane sub ls), _ => .next (trapLane s .lane sub { illopInfo s with lanes := ls })
        | _, some (.lane sub ls) => .next (trapLane s .lane sub { illopInfo s with lanes := ls })
        | none, none => .next (finishLane s parts [eu, el])

end Sys2Proof.Machine
end

