-- ==== Sys2Proof/Machine/Engine.lean ====
section
/-!
DEFINITION. The engine words TMMA, TZERO, TRES, ENC.TC, EMB.G, EMB.R, GBULK, and TLD and TST, as they issue (R314–R319,
R320, R326–R334, R337, R354): queues, checks, holds, and the claim of shadow banks.
-/
namespace Sys2Proof.Machine

/-! ## Commands -/

/-- The operation and fields of a queued command's word. -/
def EngCmd.part (c : EngCmd) : Option (LaneOp × LaneFields) :=
  match decodeLane c.word with
  | .ok i => laneOf i
  | .error _ => none

/-- Columns of a trellis TMMA (R326). -/
def trellisN (op : LaneOp) : Nat :=
  match op with
  | .tmmaT16 => 16
  | .tmmaT32 => 32
  | _ => 64

def isTrellis (op : LaneOp) : Bool :=
  match op with
  | .tmmaT16 | .tmmaT32 | .tmmaT64 => true
  | _ => false

def isDense (op : LaneOp) : Bool :=
  match op with
  | .tmmaE4m3 | .tmmaE5m2 | .tmmaI8 | .tmmaBf16 | .tmmaF16 | .tmmaE2m1 => true
  | _ => false

/-- Bytes of a column record (R322). -/
def columnBytes (op : LaneOp) : Nat :=
  match op with
  | .tmmaBf16 | .tmmaF16 => 128
  | .tmmaE2m1 => 48
  | _ => 64

def tmmaSpec (f : LaneFields) : Bool := f.xmod.getLsbD 0

/-- Team tiles that n columns from flat column q span (R323). -/
def columnTiles (q n : Nat) : List Nat :=
  if n = 0 then [q / 128] else (List.range ((q + n - 1) / 128 + 1 - q / 128)).map (q / 128 + ·)

/-- Tiles a word with N columns names or spans (R317, R332). -/
def tilesUsed (op : LaneOp) (f : LaneFields) (n : Nat) : List Nat :=
  let at_ := f.vd.toNat % 16
  if isDense op || isTrellis op then columnTiles (128 * at_ + immC0 f) n
  else match op with
    | .tzero => (List.range (f.imm.toNat % 16 + 1)).map (at_ + ·)
    | .tres | .tst => [at_]
    | .tld => [f.va.toNat % 16]
    | _ => []

/-- N of a queued command. -/
def EngCmd.columns (c : EngCmd) (op : LaneOp) : Nat :=
  if isTrellis op then trellisN op else if isDense op then c.opv2.toNat else 0

def EngCmd.tiles (c : EngCmd) : List Nat :=
  match c.part with
  | some (op, f) => tilesUsed op f (c.columns op)
  | none => []

/-- A TLD or TST of the group is outstanding on one of these tiles (R332). -/
def movesOn (g : Group) (ts : List Nat) : Bool := g.moves.any (fun m => ts.contains m.tile)

/-! ## Shadow banks (R327, R330) -/

/-- The bank a group holds for a team tile. -/
def heldBank (c : Core) (k tile : Nat) : Option Nat := [16, 17, 18, 19].find? (fun b => decide ((c.bank b).owner = some (k, tile)))

/-- Any group of the team holds the tile's bank. -/
def bankHolders (s : State) (k tile : Nat) : List Nat :=
  let c := s.core (s.coreOf k)
  [16, 17, 18, 19].filterMap (fun b =>
    match (c.bank b).owner with
    | some (j, t) => if t = tile && decide ((s.grp j).team = (s.grp k).team) then some j else none
    | none => none)

/-- Banks for every tile: the group's own, or free ones; `none` if the claims cannot all be met. -/
def claimBanks (s : State) (k : Nat) : List Nat → Option State
  | [] => some s
  | t :: ts =>
    let c := s.core (s.coreOf k)
    match heldBank c k t with
    | some _ => claimBanks s k ts
    | none =>
      match [16, 17, 18, 19].find? (fun b => decide ((c.bank b).owner = none)) with
      | some b => claimBanks (s.modCore (s.coreOf k) (fun c => { c with banks := AMap.put c.banks b ⟨some (k, t), false⟩ })) k ts
      | none => none

/-! ## TILE checks (R317) -/

def tileRange : Nat := 1
def tileNrange : Nat := 2
def tileBadb : Nat := 3
def tileNospec : Nat := 4
def tileShadow : Nat := 5
def tileTstream : Nat := 6
def tileBlock : Nat := 7

/-- The first sub-code whose check fails. -/
def firstTile : List (Bool × Nat) → Option Nat
  | [] => none
  | (bad, sub) :: rest => if bad then some sub else firstTile rest

/-- A TILE trap of the word being issued (R317, R407). -/
def trapTile (s : State) (sub : Nat) : Out := .next (trapLane s .tile sub (illopInfo s))

def beyond (s : State) (k : Nat) (ts : List Nat) : Bool := ts.any (fun t => decide ((s.teamOf k).tiles.length ≤ t))

/-- R330. -/
def shadowed (s : State) (k : Nat) (spec : Bool) (ts : List Nat) : Bool :=
  ts.any (fun t => (bankHolders s k t).any (fun j => !spec || decide (j ≠ k)))

/-! ## Issue -/

/-- What an engine word meets before its own checks: ILLOP, results it waits for, a poisoned guard; with no acting lane
it issues and does nothing; a full queue, a full EN, or an ACQ of its slot keeps it from being offered (R314, R159). -/
def engineWord (op : LaneOp) (f : LaneFields) (s : State) (body : Lanes → State → Out) : Out :=
  issueLane op f s fun act s =>
    let g := s.grp s.cur.grp
    if act = 0 then .next (issueLaneWord s)
    else if laneHeld g s.cur.blk false || decide (4 ≤ g.engq.length) then .next (notOffered s)
    else if 63 ≤ g.count .en then .next (laneCounter s .en)
    else body act s

/-- The command joins the group's queue; EN rises. -/
def enqueue (s : State) (act : Lanes) (v1 v2 v3 : DWord) : State :=
  let k := s.cur.grp
  let w := s.cur.word
  let (s, op) := startOp (issueLaneWord s) .en false
  let c : EngCmd := { op := op, word := w, act := act, opv1 := v1, opv2 := v2, opv3 := v3, step := 0, aux := 0, aux2 := 0,
                      started := false, acqdone := false, finished := false, wrote := false, count := 0, inflight := 0,
                      asked := false, stop := none, waitPage := none }
  s.modGrp k (fun g => { g with engq := g.engq ++ [c] })

/-- A TMMA passes its checks: with SPEC its banks are claimed, and it is queued. -/
def enqueueTmma (s : State) (f : LaneFields) (act : Lanes) (ts : List Nat) (v1 v2 v3 : DWord) : Out :=
  if tmmaSpec f then
    match claimBanks s s.cur.grp ts with
    | some s => .next (enqueue s act v1 v2 v3)
    | none => .next (notOffered s)
  else .next (enqueue s act v1 v2 v3)

/-- N is not a multiple of 16 in 16…512, or C0 + N > 512. -/
def badN (n c0 : Nat) : Bool := decide (n % 16 ≠ 0) || decide (n < 16) || decide (512 < n) || decide (512 < c0 + n)

/-- The B operand of a dense TMMA: own scratch, aligned, its columns in the team's scratch. -/
def badB (s : State) (k b bytes : Nat) : Bool :=
  decide (b < ownBase) || decide (ownBase + 2 ^ 20 ≤ b) || decide (b % 128 ≠ 0)
    || decide (scratchBytes s (s.grp k).team < b - ownBase + bytes)

/-- TMMA on dense operands (R320, R324). -/
def denseTmma (op : LaneOp) (f : LaneFields) (s : State) : Out :=
  engineWord op f s fun act s =>
    let k := s.cur.grp
    let b := laneScalar s f.vb
    let n := readS s k s.cur.second (immSn f).toNat
    if b.poison then poisonLane s 1 act
    else if n.poison then poisonLane s 4 act
    else
      let nn := n.val.toNat
      let bad := badN nn (immC0 f)
      let ts := tilesUsed op f (min nn 4096)
      match firstTile [(beyond s k ts, tileRange), (bad, tileNrange), (badB s k b.val.toNat (nn * columnBytes op), tileBadb),
          (tmmaSpec f && !(s.kernelOf k).spec, tileNospec), (shadowed s k (tmmaSpec f) ts, tileShadow)] with
      | some e => trapTile s e
      | none => enqueueTmma s f act ts b.val n.val 0

/-- TMMA on trellis-coded B (R326). -/
def trellisTmma (op : LaneOp) (f : LaneFields) (s : State) : Out :=
  engineWord op f s fun act s =>
    let k := s.cur.grp
    let a := laneScalar s f.vb
    let w := laneScalar s f.vc
    let k0 := readS s k s.cur.second (immSn f).toNat
    if a.poison then poisonLane s 1 act
    else if w.poison || k0.poison then poisonLane s 4 act
    else
      let n := trellisN op
      let ts := tilesUsed op f n
      let badStream := match parseStream w.val with
        | none => true
        | some t => decide (k0.val.toNat % 64 ≠ 0) || decide (t.nw < k0.val.toNat + 64 * n)
      match firstTile [(beyond s k ts, tileRange), (badN n (immC0 f), tileNrange), (tmmaSpec f && !(s.kernelOf k).spec, tileNospec),
          (shadowed s k (tmmaSpec f) ts, tileShadow), (badStream, tileTstream)] with
      | some e => trapTile s e
      | none => enqueueTmma s f act ts a.val w.val k0.val

def execTmmaE4m3 (f : LaneFields) (s : State) : Out := denseTmma .tmmaE4m3 f s
def execTmmaE5m2 (f : LaneFields) (s : State) : Out := denseTmma .tmmaE5m2 f s
def execTmmaI8 (f : LaneFields) (s : State) : Out := denseTmma .tmmaI8 f s
def execTmmaBf16 (f : LaneFields) (s : State) : Out := denseTmma .tmmaBf16 f s
def execTmmaF16 (f : LaneFields) (s : State) : Out := denseTmma .tmmaF16 f s
def execTmmaE2m1 (f : LaneFields) (s : State) : Out := denseTmma .tmmaE2m1 f s
def execTmmaT16 (f : LaneFields) (s : State) : Out := trellisTmma .tmmaT16 f s
def execTmmaT32 (f : LaneFields) (s : State) : Out := trellisTmma .tmmaT32 f s
def execTmmaT64 (f : LaneFields) (s : State) : Out := trellisTmma .tmmaT64 f s

def execTzero (f : LaneFields) (s : State) : Out :=
  engineWord .tzero f s fun act s =>
    let ts := tilesUsed .tzero f 0
    match firstTile [(beyond s s.cur.grp ts, tileRange), (shadowed s s.cur.grp false ts, tileShadow)] with
    | some e => trapTile s e
    | none => .next (enqueue s act 0 0 0)

/-- TRES: sp is read at issue (R328). -/
def execTres (f : LaneFields) (s : State) : Out :=
  engineWord .tres f s fun act s =>
    let sp := laneScalar s f.va
    if sp.poison then poisonLane s 4 act
    else if beyond s s.cur.grp (tilesUsed .tres f 0) then trapTile s tileRange
    else .next (enqueue s act sp.val 0 0)

/-- TLD and TST: TL rises; the slice moves at the tile port (R332). -/
def tileMove (op : LaneOp) (f : LaneFields) (s : State) (tile reg : Nat) : Out :=
  issueLane op f s fun act s =>
    let k := s.cur.grp
    let g := s.grp k
    if act = 0 then .next (issueLaneWord s)
    else if laneHeld g s.cur.blk false || g.engq.any (fun c => c.tiles.contains tile) then .next (notOffered s)
    else if 63 ≤ g.count .tl then .next (laneCounter s .tl)
    else match firstTile [(beyond s k [tile], tileRange), (decide (op = .tst) && shadowed s k false [tile], tileShadow)] with
      | some e => trapTile s e
      | none =>
        let (s, id) := startOp (issueLaneWord s) .tl false
        .next (s.modGrp k (fun g => { g with moves := g.moves ++ [⟨id, decide (op = .tld), tile, f.imm.toNat % 4, reg, act⟩] }))

def execTld (f : LaneFields) (s : State) : Out := tileMove .tld f s (f.va.toNat % 16) f.vd.toNat
def execTst (f : LaneFields) (s : State) : Out := tileMove .tst f s (f.vd.toNat % 16) f.va.toNat

/-- A command with a block in memory and a sync word (R334, R337, R354): BLOCK, then the sync word's MEM check. -/
def blockCommand (op : LaneOp) (f : LaneFields) (s : State) : Out :=
  engineWord op f s fun act s =>
    let k := s.cur.grp
    let a := laneScalar s f.va
    let sy := readS s k s.cur.second (immSreg f).toNat
    let uses := immRel f || immAcq f
    if a.poison || (uses && sy.poison) then poisonLane s 1 act
    else if decide (a.val.toNat % 64 ≠ 0) || decide (windowBase < a.val.toNat + 64) then trapTile s tileBlock
    else match copySync s k act f with
      | some e => memTrapLane s e
      | none => .next (enqueue s act a.val (if uses then sy.val else 0) 0)

def execEncTc (f : LaneFields) (s : State) : Out := blockCommand .encTc f s
def execEmbG (f : LaneFields) (s : State) : Out := blockCommand .embG f s
def execEmbR (f : LaneFields) (s : State) : Out := blockCommand .embR f s
def execGbulk (f : LaneFields) (s : State) : Out := blockCommand .gbulk f s

end Sys2Proof.Machine
end

