-- ==== Sys2Proof/Machine/EngineSteps.lean ====
section
/-!
DEFINITION. The steps of the matrix engine, the tile port and the trellis encoder (R23, R36, R57–R60, R314–R336), and how
a command starts, stops and ends (R166, R314, R318).
-/
namespace Sys2Proof.Machine

/-! ## The queue -/

def Group.setCmd (g : Group) (op : Nat) (f : EngCmd → EngCmd) : Group :=
  { g with engq := g.engq.map (fun c => if c.op = op then f c else c) }

/-- The command leaves the queue: EN falls (R314). -/
def Group.endCmd (g : Group) (op : Nat) : Group :=
  ({ g with engq := g.engq.filter (fun c => decide (c.op ≠ op)) }).finish op

def setCmd (s : State) (k op : Nat) (f : EngCmd → EngCmd) : State := s.modGrp k (fun g => g.setCmd op f)

def markCmd (k op page : Nat) (s : State) : State := setCmd s k op (fun c => { c with waitPage := some page })

/-- A core's engine at work on a command. -/
def engineOf (s : State) (k op : Nat) : Asker := ⟨4000 + s.coreOf k, op, 0, k⟩

/-- An engine access of a group's command; a page fault makes the command wait (R318). -/
def engAccess {α : Type} (k op : Nat) (s : State) (r : Access α) (ok : α → State → Out) : Out :=
  unitAccess k (s.asidOf k) r (markCmd k op) ok

/-- Commands run while the team does, and in Handler the primary group's; a TZERO or TRES that has started runs on, and so does a step
that has asked for something (R121, R316, R402). -/
def commandRuns (s : State) (k : Nat) (c : EngCmd) : Bool :=
  let t := s.teamOf k
  let never := match c.part with
    | some (.tzero, _) | some (.tres, _) => c.started
    | _ => false
  let begun := never || s.unitReqs.any (fun r => decide (r.key = c.op))
  match t.state with
  | .running => !t.preempt || begun
  | .handler => decide (t.primgrp = some (s.grp k).grpid)
  | .halting | .saving => begun
  | _ => false

/-- The command at the head of a group's queue, when it can go on. -/
def headCmd (s : State) (k : Nat) : Option EngCmd :=
  match (s.grp k).engq with
  | c :: _ => if commandRuns s k c && c.waitPage.isNone then some c else none
  | [] => none

/-- The command takes engine time (R23, R36). -/
def EngCmd.onEngine (c : EngCmd) : Bool :=
  match c.part with
  | some (.embG, _) | some (.embR, _) | some (.gbulk, _) => false
  | _ => true

/-- The group's head command has an engine step ready. -/
def stepReady (s : State) (k : Nat) : Bool :=
  match headCmd s k with
  | some c => c.started && !c.finished && c.onEngine
  | none => false

/-- The group the engine of a core serves next: the first after the one last served, by partition and age (R314). -/
def engineTurn (s : State) (c : Nat) : Option Nat :=
  let place (k : Nat) : Nat × Nat := ((s.grp k).partition, (s.grp k).age)
  let ks := (groupsOn s c).filter (stepReady s)
  let order := sortBy (fun x y => decide ((place x).1 < (place y).1) || (decide ((place x).1 = (place y).1) && decide ((place x).2 < (place y).2))) ks
  match s.core c |>.engLast with
  | none => order.head?
  | some (p, a) =>
    match order.find? (fun k => decide (p < (place k).1) || (decide (p = (place k).1) && decide (a < (place k).2))) with
    | some k => some k
    | none => order.head?

/-- The engine's step for group a, if it is its turn: the command with its operation and fields. The rotation goes on behind the group
once it is served (R314). -/
def engineStep (s : State) (body : Nat → EngCmd → LaneOp → LaneFields → State → Out) : Out :=
  let k := s.cur.a
  match headCmd s k with
  | some c =>
    if engineTurn s (s.coreOf k) ≠ some k then .next (notOffered s)
    else match c.part with
      | some (op, f) =>
        let place := ((s.grp k).partition, (s.grp k).age)
        let served (t : State) : State := if t.cur.held then t else t.modCore (s.coreOf k) (fun q => { q with engLast := some place })
        match unitStep c.op (body k c op f s) with
        | .next t => .next (served t)
        | o => o
      | none => .next (notOffered s)
  | none => .next (notOffered s)

/-! ## Stops (R318, R319) -/

/-- STATUS and the other written fields at an offset of the command's block. -/
def writeBlock (s : State) (k : Nat) (c : EngCmd) (off : Nat) (v : Nat) : Access Unit :=
  unitPoke s (engineOf s k c.op) (s.asidOf k) (c.opv1.toNat + off) (cleanBytes 4 (v % 2 ^ 32))

/-- A running command's trap, of class ENGINE or POISON. -/
def trapEngine (s : State) (k : Nat) (poison : Bool) (sub : Nat) (x : TrapInfo) : State :=
  if poison then signalPoison s k sub x else takeTrap s k .engine sub x

/-- The command leaves the queue without a release, and its group traps. -/
def dropCmd (s : State) (k : Nat) (c : EngCmd) (poison : Bool) (sub : Nat) : State :=
  let x := { opInfo (s.grp k) c.op with addr := c.opv1.toNat }
  trapEngine (s.modGrp k (fun g => g.endCmd c.op)) k poison sub x

/-- A stop with a sub-code of class ENGINE: STATUS is written first. -/
def stopCmd (s : State) (k : Nat) (c : EngCmd) (statusOff sub : Nat) : Out :=
  engAccess k c.op s (writeBlock s k c statusOff sub) fun _ s => .next (dropCmd s k c false sub)

/-- A run-time POISON signal, of a sub-code, stops the command in the same way (R286, R319). -/
def poisonCmd (s : State) (k : Nat) (c : EngCmd) (statusOff sub : Nat) : Out :=
  engAccess k c.op s (writeBlock s k c statusOff sub) fun _ s => .next (dropCmd s k c true sub)

/-- Offset of STATUS in the block of a command that has one (R334, R337, R354). -/
def statusOff (op : LaneOp) : Nat :=
  match op with
  | .encTc => 0x24
  | .gbulk => 0x1C
  | _ => 0x3C

/-! ## Tiles -/

/-- Key of a tile element, and of its granule. -/
def tileKey (t row col : Nat) : Nat := (t * 96 + row) * 128 + col
def granuleKey (t row col : Nat) : Nat := (t * 96 + row) * 16 + col / 8

def Core.tile (c : Core) (t row col : Nat) : Word := AMap.get 0 c.tiles (tileKey t row col)
def Core.granule (c : Core) (t row col : Nat) : Bool := AMap.get false c.tilePoison (granuleKey t row col)

def ofTile (t per : Nat) (i : Nat) : Bool := decide (i / (96 * per) = t)

/-- Every element of a tile zero, its poison clear. -/
def Core.clearTile (c : Core) (t : Nat) : Core :=
  { c with tiles := c.tiles.filter (fun p => !(ofTile t 128 p.1)), tilePoison := c.tilePoison.filter (fun p => !(ofTile t 16 p.1)) }

/-- Tile `dst` takes the values and poison of tile `src`. -/
def Core.copyTile (c : Core) (src dst : Nat) : Core :=
  let d := c.clearTile dst
  { d with
    tiles := (c.tiles.filter (fun p => ofTile src 128 p.1)).foldl
      (fun m p => AMap.set 0 m (p.1 % (96 * 128) + dst * (96 * 128)) p.2) d.tiles,
    tilePoison := (c.tilePoison.filter (fun p => ofTile src 16 p.1)).foldl
      (fun m p => AMap.set false m (p.1 % (96 * 16) + dst * (96 * 16)) p.2) d.tilePoison }

/-- The physical tile of a team tile. -/
def physTile (s : State) (k tile : Nat) : Nat := (s.teamOf k).tiles[tile]?.getD 0

/-! ## A K-step (R57–R60) -/

/-- An operand of the engine: a NaN, an infinity, or a finite value m × 2^e. -/
inductive EVal where
  | nan
  | inf (neg : Bool)
  | fin (m : Int) (e : Int)
deriving DecidableEq, Repr

def evalOf (f : Fmt) (x : Nat) : EVal :=
  if isNan f x then .nan else if isInf f x then .inf (f.sign x)
  else
    let d := finite f x
    .fin (if d.neg then -(d.m : Int) else d.m) d.e

def EVal.mul (x y : EVal) : EVal :=
  match x, y with
  | .nan, _ | _, .nan => .nan
  | .inf a, .inf b => .inf (a != b)
  | .inf a, .fin m _ => if m = 0 then .nan else .inf (a != decide (m < 0))
  | .fin m _, .inf a => if m = 0 then .nan else .inf (a != decide (m < 0))
  | .fin m e, .fin n d => .fin (m * n) (e + d)

/-- An exact sum. -/
def EVal.add (x y : EVal) : EVal :=
  match x, y with
  | .nan, _ | _, .nan => .nan
  | .inf a, .inf b => if a = b then .inf a else .nan
  | .inf a, .fin _ _ => .inf a
  | .fin _ _, .inf a => .inf a
  | .fin m e, .fin n d =>
    let q := min e d
    .fin (m * 2 ^ (e - q).toNat + n * 2 ^ (d - q).toNat) q

def sumE (l : List EVal) : EVal := l.foldl EVal.add (.fin 0 0)

/-- The one rounding to FP32 (R58, R60); an exact zero is +0 (log 31). -/
def EVal.round (x : EVal) : Nat :=
  match x with
  | .nan => canonNan fp32
  | .inf s => Machine.inf fp32 s
  | .fin m e => (roundInt fp32 0 m e).1

/-- Element formats of the float forms: A's and B's. -/
def denseFmt (op : LaneOp) : Fmt :=
  match op with
  | .tmmaE4m3 => e4m3
  | .tmmaE5m2 => e5m2
  | .tmmaBf16 => bf16
  | .tmmaF16 => fp16
  | _ => e2m1

/-- Elements of an A register (R321). -/
def packOf (op : LaneOp) : Nat :=
  match op with
  | .tmmaBf16 | .tmmaF16 => 2
  | .tmmaE2m1 => 8
  | _ => 4

/-- The code of A element k of a lane (R321). -/
def aCode (g : Group) (va p lane k : Nat) : Nat :=
  (g.velt (va + k / p) lane).val.toNat / 2 ^ (32 / p * (k % p)) % 2 ^ (32 / p)

/-- A's row of a lane: its 64 codes, and whether any register is poisoned. -/
def aRow (g : Group) (va p lane : Nat) : List Nat × Bool :=
  ((List.range 64).map (aCode g va p lane), (List.range (64 / p)).any (fun r => (g.velt (va + r) lane).poison))

/-- A scale j of a lane (R321). -/
def aScale (g : Group) (vs bsel lane j : Nat) : Nat :=
  (g.velt (vs + (8 * bsel + j) / 4) lane).val.toNat / 2 ^ (8 * (j % 4)) % 2 ^ 8

def aScalePoison (g : Group) (vs bsel lane : Nat) : Bool :=
  (g.velt (vs + 2 * bsel) lane).poison || (g.velt (vs + 2 * bsel + 1) lane).poison

/-- Column n of B (R322): codes of its 64 elements, its scales, and whether a byte read is poisoned. -/
structure BCol where
  codes : List Nat
  scales : List Nat
  band : Nat
  poison : Bool

def denseColumn (op : LaneOp) (bs : List PByte) : BCol :=
  let at_ (o n : Nat) : Nat := pvalue ((bs.drop o).take n)
  match op with
  | .tmmaBf16 | .tmmaF16 => ⟨(List.range 64).map (fun k => at_ (2 * k) 2), [], 0, ppoison bs⟩
  | .tmmaE2m1 =>
    ⟨(List.range 64).map (fun k => at_ (k / 2) 1 / 16 ^ (k % 2) % 16), (List.range 8).map (fun j => at_ (32 + j) 1), at_ 40 2,
     ppoison (bs.take 42)⟩
  | _ => ⟨(List.range 64).map (fun k => at_ k 1), [], 0, ppoison bs⟩

/-- What is added to an accumulator element: R58 for dense forms, R59 for E2M1. -/
def denseTerm (op : LaneOp) (a : List Nat) (sa : List Nat) (b : BCol) : EVal :=
  let f := denseFmt op
  let prod := (a.zip b.codes).map (fun p => (evalOf f p.1).mul (evalOf f p.2))
  match op with
  | .tmmaE2m1 =>
    let blocks := (List.range 8).map (fun j =>
      ((sumE ((prod.drop (8 * j)).take 8)).mul (evalOf e3m5 (sa[j]?.getD 0))).mul (evalOf e3m5 (b.scales[j]?.getD 0)))
    (sumE blocks).mul (evalOf bf16 b.band)
  | _ => sumE prod

/-- A byte as a two's-complement integer. -/
def sbyte (x : Nat) : Int := (BitVec.ofNat 8 x).toInt

/-- R57: the new element, and whether saturation changed it. -/
def intTerm (a : List Nat) (b : BCol) (acc : Word) (sat : Bool) : Word × Bool :=
  let v := (a.zip b.codes).foldl (fun t p => t + sbyte p.1 * sbyte p.2) acc.toInt
  let c := clampInt (-(2 ^ 31)) (2 ^ 31 - 1) v
  if sat then (BitVec.ofInt 32 c, decide (c ≠ v)) else (BitVec.ofInt 32 v, false)

/-- A trellis column: V of its 64 weights and its scale (R326). -/
structure TCol where
  vals : List Int
  scale : Nat
  poison : Bool

/-- The decoded bytes of a stream by offset. -/
def streamByte (m : AMap PByte) (o : Nat) : PByte := AMap.get ⟨0, false⟩ m o

def trellisColumn (t : Stream) (m : AMap PByte) (scale : List PByte) (k0 : Nat) : TCol :=
  let ws := (List.range 64).map (k0 + ·)
  let win (k : Nat) : Nat :=
    let (offs, skip) := winBytes t k
    pvalue (offs.map (streamByte m)) / 2 ^ skip % 2 ^ 16
  { vals := ws.map (fun k => rawWeight (win k) (k % rateG t.rate) t.seed), scale := pvalue scale,
    poison := ppoison scale || ws.any (fun k => ppoison ((winBytes t k).1.map (streamByte m))) }

def trellisTerm (f : Fmt) (a : List Nat) (b : TCol) : EVal :=
  let sc := evalOf bf16 b.scale
  sumE ((a.zip b.vals).map (fun p => ((evalOf f p.1).mul (.fin p.2 0)).mul sc))

/-- Offset of block scale k from a stream's base (R325). -/
def scaleOffset (t : Stream) (k : Nat) : Nat := 16 * ((8 * t.bytes + 127) / 128) + 2 * k

/-- The reads that trellis K-step h makes for a column: the lines that hold its stream bytes and its scale, each as one range. -/
def trellisReads (base : Nat) (t : Stream) (w : Nat) : List Nat × Nat :=
  (((List.range 64).flatMap (fun j => (winBytes t (w + j)).1)).eraseDups, base + scaleOffset t (w / 64))

/-- Bytes of several ranges, read at their slices in the spall class, by address. -/
def peekRuns (s : State) (u : Asker) (asid : Nat) : List (Nat × Nat) → Access (AMap PByte)
  | [] => .ok [] s
  | (a, n) :: rest =>
    match unitPeek s u asid a n true with
    | .ok bs s =>
      (match peekRuns s u asid rest with
       | .ok m s => .ok ((bytesAt a bs).foldl (fun m b => AMap.put m b.1 b.2) m) s
       | r => r)
    | .fault kd va s => .fault kd va s
    | .away s =>
      match peekRuns s u asid rest with
      | .ok _ s => .away s
      | r => r

/-- The columns of trellis K-step h. -/
def trellisColumns (s : State) (u : Asker) (asid base : Nat) (t : Stream) (k0 : Nat) (ns : List Nat) : Access (List TCol) :=
  let reads := ns.map (fun n => trellisReads base t (k0 + 64 * n))
  let offs := sortBy (fun x y => decide (x < y)) (reads.flatMap (·.1)).eraseDups
  match peekRuns s u asid (numberRuns (offs.map (base + ·)) ++ reads.map (fun r => (r.2, 2))) with
  | .ok m s =>
    .ok (ns.map (fun n =>
      let w := k0 + 64 * n
      let sc := base + scaleOffset t (w / 64)
      trellisColumn t (m.map (fun p => (p.1 - base, p.2))) [streamByte m sc, streamByte m (sc + 1)] w)) s
  | .fault kd va s => .fault kd va s
  | .away s => .away s

/-- A K-step's result for one element: value, poison, saturated. -/
structure KElt where
  val : Word
  poison : Bool
  sat : Bool

/-- The K-step's effect on the elements of a physical tile or bank: acting lanes' rows, 16 columns from `col` (R319,
R324). -/
def applyStep (s : State) (k op : Nat) (act : Lanes) (dst col : Nat) (elt : Nat → Nat → Word → KElt) : State :=
  let c := s.coreOf k
  let q := s.core c
  let outs := (lanesOf act).flatMap (fun m => (List.range 16).map (fun j => (m, col + j, elt m j (q.tile dst m (col + j)))))
  let s := s.modCore c (fun q =>
    { q with
      tiles := outs.foldl (fun t o => AMap.set 0 t (tileKey dst o.1 o.2.1) o.2.2.val) q.tiles,
      tilePoison := outs.foldl (fun t o => if o.2.2.poison then AMap.set false t (granuleKey dst o.1 o.2.1) true else t) q.tilePoison })
  let sat := maskOf ((outs.filter (fun o => o.2.2.sat)).map (·.1))
  s.modGrp k (fun g => { g with ops := g.ops.map (fun o => if o.id = op then { o with sat := o.sat ||| sat } else o) })

/-- Where column group h of a command lands: the physical tile, or the group's bank for it, which takes its tile's value
at its first use (R327); and the column in it. -/
def stepDest (s : State) (k : Nat) (f : LaneFields) (h : Nat) : State × Nat × Nat :=
  let q := 128 * (f.vd.toNat % 16) + immC0 f + 16 * h
  let t := q / 128
  let p := physTile s k t
  if !tmmaSpec f then (s, p, q % 128)
  else
    match heldBank (s.core (s.coreOf k)) k t with
    | none => (s, p, q % 128)
    | some b =>
      let x := (s.core (s.coreOf k)).bank b
      let s := if x.init then s
        else s.modCore (s.coreOf k) (fun c => { (c.copyTile p b) with banks := AMap.put c.banks b { x with init := true } })
      (s, b, q % 128)

/-- The step h of a command is done; it ends after the last. -/
def doneStep (s : State) (k : Nat) (c : EngCmd) (last : Nat) : State :=
  setCmd s k c.op (fun c => { c with step := c.step + 1, finished := decide (last ≤ c.step + 1) })

/-- K_STEP: the next K-step of group a's TMMA (R324, R326). -/
def execKStep (s : State) : Out :=
  engineStep s fun k c op f s =>
    if !c.started || c.finished then .next (notOffered s)
    else if isDense op then
      let g := s.grp k
      let n := columnBytes op
      let (s, dst, col) := stepDest s k f c.step
      let cols := (List.range 16).map (fun j =>
        denseColumn op (scratchRead s g.team (c.opv1.toNat - ownBase + n * (16 * c.step + j)) n))
      let bsel := (f.xmod.extractLsb' 1 2).toNat
      let rows := (lanesOf c.act).map (fun m =>
        let (a, p) := aRow g f.va.toNat (packOf op) m
        if op = LaneOp.tmmaE2m1 then (m, a, (List.range 8).map (aScale g f.vc.toNat bsel m), p || aScalePoison g f.vc.toNat bsel m)
        else (m, a, [], p))
      let row (m : Nat) : List Nat × List Nat × Bool := ((rows.find? (fun r => decide (r.1 = m))).map (·.2)).getD ([], [], false)
      let elt (m j : Nat) (acc : Word) : KElt :=
        let (a, sa, p) := row m
        let b := (cols[j]?).getD ⟨[], [], 0, false⟩
        if op = LaneOp.tmmaI8 then
          let (v, st) := intTerm a b acc f.sat
          ⟨v, p || b.poison, st⟩
        else ⟨BitVec.ofNat 32 ((evalOf fp32 acc.toNat).add (denseTerm op a sa b)).round, p || b.poison, false⟩
      .next (doneStep (applyStep s k c.op c.act dst col elt) k c (c.opv2.toNat / 16))
    else if isTrellis op then
      match parseStream c.opv2 with
      | none => .next (notOffered s)
      | some t =>
        engAccess k c.op s
          (trellisColumns s (engineOf s k c.op) (s.asidOf k) c.opv1.toNat t c.opv3.toNat ((List.range 16).map (fun j => 16 * c.step + j))) fun cols s =>
          let g := s.grp k
          let (s, dst, col) := stepDest s k f c.step
          let fmt := if f.xmod.getLsbD 1 then e5m2 else e4m3
          let rows := (lanesOf c.act).map (fun m => (m, aRow g f.va.toNat 4 m))
          let row (m : Nat) : List Nat × Bool := ((rows.find? (fun r => decide (r.1 = m))).map (·.2)).getD ([], false)
          let elt (m j : Nat) (acc : Word) : KElt :=
            let (a, p) := row m
            let b := (cols[j]?).getD ⟨[], 0, false⟩
            ⟨BitVec.ofNat 32 ((evalOf fp32 acc.toNat).add (trellisTerm fmt a b)).round, p || b.poison, false⟩
          .next (doneStep (applyStep s k c.op c.act dst col elt) k c (trellisN op / 16))
    else .next (notOffered s)

/-- TZERO_STEP: one tile of group a's TZERO (R331). -/
def execTzeroStep (s : State) : Out :=
  engineStep s fun k c op f s =>
    if op ≠ .tzero || !c.started || c.finished then .next (notOffered s)
    else
      let t := physTile s k (f.vd.toNat % 16 + c.step)
      .next (doneStep (s.modCore (s.coreOf k) (fun q => q.clearTile t)) k c (f.imm.toNat % 16 + 1))

/-- TRES_STEP: the bank of group a's TRES is committed or discarded, and freed (R328). -/
def execTresStep (s : State) : Out :=
  engineStep s fun k c op f s =>
    if op ≠ .tres || !c.started || c.finished then .next (notOffered s)
    else
      let t := f.vd.toNat % 16
      let s := match heldBank (s.core (s.coreOf k)) k t with
        | none => s
        | some b =>
          let x := (s.core (s.coreOf k)).bank b
          let p := physTile s k t
          s.modCore (s.coreOf k) (fun q =>
            let q := if c.opv1 ≠ 0 && x.init then q.copyTile b p else q
            { (q.clearTile b) with banks := AMap.put q.banks b freeBank })
      .next (doneStep s k c 1)

/-- TILE_PORT_MOVE: the slice of the TLD or TST b of group a moves, and TL falls (R332, R319). -/
def execTilePortMove (s : State) : Out :=
  let k := s.cur.a
  match (s.grp k).moves.find? (fun m => decide (m.op = s.cur.b)) with
  | none => .next (notOffered s)
  | some m =>
    let t := physTile s k m.tile
    let col (j : Nat) : Nat := 32 * m.q + j
    let rows := lanesOf m.act
    let q := s.core (s.coreOf k)
    let g := s.grp k
    let s := if m.load then
        s.modGrp k (fun g => rows.foldl (fun g r => (List.range 32).foldl (fun g j =>
          g.setVelt (m.reg + j) r ⟨q.tile t r (col j), q.granule t r (col j)⟩) g) g)
      else
        s.modCore (s.coreOf k) (fun q =>
          { q with
            tiles := rows.foldl (fun x r => (List.range 32).foldl (fun x j =>
              AMap.set 0 x (tileKey t r (col j)) (g.velt (m.reg + j) r).val) x) q.tiles,
            tilePoison := rows.foldl (fun x r => [0, 1, 2, 3].foldl (fun x i =>
              AMap.set false x (granuleKey t r (col (8 * i))) ((List.range 8).any (fun j => (g.velt (m.reg + 8 * i + j) r).poison))) x)
              q.tilePoison })
    .next (s.modGrp k (fun g => ({ g with moves := g.moves.filter (fun x => decide (x.op ≠ m.op)) }).finish m.op))

end Sys2Proof.Machine
end

