-- ==== Sys2Proof/Machine/Embed.lean ====
section
/-!
DEFINITION. The trellis encoder's steps (R325, R334–R336) and embedding gather and reduction (R65, R67, R337–R341). A
command's block is read at each of its steps (log 32).
-/
namespace Sys2Proof.Machine

/-- A field of a block. -/
def blockField (bs : List PByte) (off n : Nat) : Nat := pvalue ((bs.drop off).take n)

/-- The 64 bytes of a command's block. -/
def readBlock (s : State) (k : Nat) (c : EngCmd) : Access (List PByte) := unitPeek s (engineOf s k c.op) (s.asidOf k) c.opv1.toNat 64 false

/-- A range of n bytes in linear space. -/
def inLinear (a n : Nat) : Bool := decide (a + n ≤ windowBase)

/-! ## The encode block (R334, R335) -/

structure EncBlock where
  stream : Nat
  t : Stream
  target : Nat
  work : Nat
deriving DecidableEq

def EncBlock.q (b : EncBlock) : Nat := 16 - rateA b.t.rate
def EncBlock.steps (b : EncBlock) : Nat := b.t.nw / rateG b.t.rate
def EncBlock.streamEnd (b : EncBlock) : Nat := scaleOffset b.t (b.t.nw / 64)
def EncBlock.workEnd (b : EncBlock) : Nat := 2 ^ (b.q + 3) + 2 ^ b.q * b.steps

/-- Two ranges share a byte. -/
def overlap (a n b m : Nat) : Bool := decide (a < b + m) && decide (b < a + n)

/-- The block's fields, when it passes the checks of R335. -/
def parseEnc (bs : List PByte) : Option EncBlock :=
  match parseStream (BitVec.ofNat 64 (blockField bs 8 8)) with
  | none => none
  | some t =>
    let b : EncBlock := ⟨blockField bs 0 8, t, blockField bs 16 8, blockField bs 24 8⟩
    let n := 4 * t.nw
    if blockField bs 0x28 24 ≠ 0 || decide (65536 < t.nw) || decide (b.target % 4 ≠ 0) || decide (b.work % 128 ≠ 0)
        || !inLinear b.stream b.streamEnd || !inLinear b.target n || !inLinear b.work b.workEnd
        || overlap b.stream b.streamEnd b.target n || overlap b.stream b.streamEnd b.work b.workEnd
        || overlap b.target n b.work b.workEnd then none
    else some b

def metricAddr (b : EncBlock) (arr : Nat) : Nat := b.work + 2 ^ (b.q + 2) * arr
def survAddr (b : EncBlock) (i : Nat) : Nat := b.work + 2 ^ (b.q + 3) + 2 ^ b.q * i

/-- The FP32 codes of consecutive words. -/
def words (bs : List PByte) (n : Nat) : List Nat := (List.range n).map (fun i => pvalue ((bs.drop (4 * i)).take 4))

/-- The initial metrics of a pass (R336). -/
def firstMetrics (states pass e : Nat) : List Nat :=
  (List.range states).map (fun s => if pass = 1 || s = e then 0 else inf fp32 false)

/-- cost(i, w): targets and scales of the step's group, exact, one rounding. -/
def branchCost (seed : Nat) (ts scs : List Nat) (w : Nat) : Nat :=
  let terms := (List.range ts.length).map (fun j =>
    let d := (evalOf fp32 (ts[j]?.getD 0)).add (((EVal.fin (rawWeight w j seed) 0).mul (evalOf bf16 (scs[j]?.getD 0))).mul (.fin (-1) 0))
    d.mul d)
  (sumE terms).round

/-- The best branch into a state: least metric, smallest r (R336). -/
def bestBranch (a states : Nat) (cost : Nat → Nat) (m : List Nat) (s' : Nat) : Nat × Nat :=
  (List.range (2 ^ a)).foldl (fun best r =>
    let w := s' * 2 ^ a + r
    let c := (fpAdd fp32 0 (m[w % states]?.getD 0) (cost w)).1
    if r = 0 || c < best.1 then (c, r) else best) (0, 0)

/-- The smallest state with the least metric. -/
def leastState (m : List Nat) : Nat :=
  ((List.range m.length).foldl (fun (b : Nat × Nat) s =>
    let x := m[s]?.getD 0
    if s = 0 || x < b.1 then (x, s) else b) (0, 0)).2

/-- Targets and block scales a step reads: the values and the poison. -/
def encInputs (s : State) (u : Asker) (asid : Nat) (b : EncBlock) (i : Nat) : Access (List PByte × List PByte) :=
  let g := rateG b.t.rate
  match unitPeek s u asid (b.target + 4 * (i * g)) (4 * g) false with
  | .ok ts s =>
    match unitPeek s u asid (b.stream + scaleOffset b.t (i * g / 64)) 2 false with
    | .ok sc s => .ok (ts, sc) s
    | .fault kd va s => .fault kd va s
    | .away s => .away s
  | .fault kd va s => .fault kd va s
  | .away s => .away s

/-- The metrics step i reads; at i = 0 the pass's initial ones, written into array 0 first. -/
def stepMetrics (s : State) (u : Asker) (asid : Nat) (b : EncBlock) (i pass e : Nat) : Access (List Nat) :=
  let n := 2 ^ b.q
  if i = 0 then
    let m := firstMetrics n pass e
    match unitPoke s u asid (metricAddr b 0) (m.flatMap (cleanBytes 4)) with
    | .ok _ s => .ok m s
    | .fault kd va s => .fault kd va s
    | .away s => .away s
  else
    match unitPeek s u asid (metricAddr b (i % 2)) (4 * n) false with
    | .ok bs s => .ok (words bs n) s
    | .fault kd va s => .fault kd va s
    | .away s => .away s

/-- Writes of the step: new metrics and survivors. -/
def storeStep (s : State) (u : Asker) (asid : Nat) (b : EncBlock) (i : Nat) (out : List (Nat × Nat)) : Access Unit :=
  match unitPoke s u asid (metricAddr b ((i + 1) % 2)) (out.flatMap (fun o => cleanBytes 4 o.1)) with
  | .ok _ s => unitPoke s u asid (survAddr b i) (out.map (fun o => ⟨BitVec.ofNat 8 o.2, false⟩))
  | r => r

/-- TRELLIS_STEP: the next trellis step of group a's ENC.TC (R336). -/
def execTrellisStep (s : State) : Out :=
  engineStep s fun k c op _ s =>
    if op ≠ .encTc || !c.started || c.finished then .next (notOffered s)
    else
      let asid := s.asidOf k
      let u := engineOf s k c.op
      engAccess k c.op s (readBlock s k c) fun blk s =>
        if ppoison blk then poisonCmd s k c 0x24 4
        else match parseEnc blk with
        | none => stopCmd s k c 0x24 4
        | some b =>
          engAccess k c.op s (encInputs s u asid b c.step) fun inp s =>
            let g := rateG b.t.rate
            let ts := words inp.1 g
            let sc := pvalue inp.2
            if ppoison inp.1 || ppoison inp.2 then poisonCmd s k c 0x24 4
            else if ts.any (fun t => isNan fp32 t || isInf fp32 t) || isNan bf16 sc || isInf bf16 sc then stopCmd s k c 0x24 5
            else
              engAccess k c.op s (stepMetrics s u asid b c.step c.aux c.aux2) fun m s =>
                let n := 2 ^ b.q
                let cost := branchCost b.t.seed ts (List.replicate g sc)
                let out := (List.range n).map (bestBranch (rateA b.t.rate) n cost m)
                engAccess k c.op s (storeStep s u asid b c.step out) fun _ s =>
                  let last := decide (b.steps ≤ c.step + 1)
                  .next (setCmd s k c.op (fun c =>
                    if !last then { c with step := c.step + 1 }
                    else if c.aux = 1 then { c with step := 0, aux := 2, aux2 := leastState (out.map (·.1)) }
                    else { c with step := c.step + 1, finished := true }))

/-- The windows w(i) of the traceback, first group first (R336). -/
def traceback (s : State) (u : Asker) (asid : Nat) (b : EncBlock) : Nat → Nat → Access (List Nat)
  | 0, _ => .ok [] s
  | i + 1, st =>
    match unitPeek s u asid (survAddr b i + st) 1 false with
    | .ok bs s =>
      let w := st * 2 ^ rateA b.t.rate + pvalue bs
      match traceback s u asid b i (w % 2 ^ b.q) with
      | .ok ws s => .ok (ws ++ [w]) s
      | r => r
    | .fault kd va s => .fault kd va s
    | .away s => .away s

/-- The stream's bytes from its windows. -/
def streamBytes (t : Stream) (ws : List Nat) : List PByte :=
  let a := rateA t.rate
  (List.range t.bytes).map (fun j =>
    let v := (List.range 8).foldl (fun v i => v + (ws[(8 * j + i) / a]?.getD 0) / 2 ^ ((8 * j + i) % a) % 2 * 2 ^ i) 0
    ⟨BitVec.ofNat 8 v, false⟩)

/-- The end of ENC.TC: the stream, then COST and STATUS. -/
def finishEnc (s : State) (k : Nat) (c : EngCmd) (b : EncBlock) : Access Unit :=
  let asid := s.asidOf k
  let u := engineOf s k c.op
  match traceback s u asid b b.steps c.aux2 with
  | .ok ws s =>
    match unitPoke s u asid b.stream (streamBytes b.t ws) with
    | .ok _ s =>
      match unitPeek s u asid (metricAddr b (b.steps % 2) + 4 * c.aux2) 4 false with
      | .ok cost s => unitPoke s u asid (c.opv1.toNat + 0x20) (cost.map (fun x => ⟨x.val, false⟩) ++ cleanBytes 4 0)
      | .fault kd va s => .fault kd va s
      | .away s => .away s
    | r => r
  | .fault kd va s => .fault kd va s
  | .away s => .away s

/-! ## The embedding block (R337) -/

structure EmbBlock where
  tbase : Nat
  rows : Nat
  dim : Nat
  fmt : Nat
  policy : Nat
  fn : Nat
  stride : Nat
  nidx : Nat
  idx : Nat
  dst : Nat
  offs : Nat
  nbags : Nat
  skips : Nat
  cursor : Nat

/-- RB. -/
def EmbBlock.rb (b : EmbBlock) : Nat :=
  match b.fmt with
  | 0 => 4 * b.dim
  | 1 => 2 * b.dim
  | _ => b.dim + 2

/-- OS of R338. -/
def EmbBlock.os (b : EmbBlock) : Nat := (b.rb + 15) / 16 * 16

/-- Bytes the command writes. -/
def EmbBlock.out (b : EmbBlock) (bags : Bool) : Nat := if bags then 4 * b.dim * b.nbags else b.os * b.nidx

/-- The destination lies in linear space or in the team's scratch. -/
def destOk (s : State) (k a n : Nat) : Bool :=
  decide (a % 16 = 0)
    && (if a < windowBase then inLinear a n
        else decide (ownBase ≤ a) && decide (a - ownBase + n ≤ scratchBytes s (s.grp k).team))

/-- The block's fields, when each is in range. -/
def parseEmb (s : State) (k : Nat) (bags : Bool) (bs : List PByte) : Option EmbBlock :=
  let p := blockField bs 0x0F 1
  let b : EmbBlock := { tbase := blockField bs 0 8, rows := blockField bs 8 4, dim := blockField bs 0x0C 2, fmt := blockField bs 0x0E 1,
                        policy := p % 4, fn := p / 4 % 4, stride := blockField bs 0x10 4, nidx := blockField bs 0x14 4,
                        idx := blockField bs 0x18 8, dst := blockField bs 0x20 8, offs := blockField bs 0x28 8,
                        nbags := blockField bs 0x30 4, skips := blockField bs 0x34 4, cursor := blockField bs 0x38 4 }
  let bad := decide (b.tbase % 16 ≠ 0) || decide (b.rows = 0) || decide (b.dim % 16 ≠ 0) || decide (b.dim = 0) || decide (1024 < b.dim)
    || decide (3 < b.fmt) || decide (b.policy = 3) || decide (b.fn = 3) || decide (16 ≤ p) || decide (b.stride % 16 ≠ 0)
    || decide (b.stride < b.rb) || decide (b.idx % 4 ≠ 0) || !inLinear b.idx (4 * b.nidx)
    || !inLinear b.tbase (b.stride * (b.rows - 1) + b.rb) || !destOk s k b.dst (b.out bags)
    || (if bags then decide (b.offs % 4 ≠ 0) || !inLinear b.offs (4 * (b.nbags + 1)) || decide (b.nbags < b.cursor)
        else decide (b.offs ≠ 0) || decide (b.nbags ≠ 0) || decide (b.nidx < b.cursor))
  if bad then none else some b

/-- CURSOR, the skips added, and STATUS where it is given. -/
def writeEmb (s : State) (k : Nat) (c : EngCmd) (cursor : Nat) (status : Option Nat) : Access Unit :=
  let asid := s.asidOf k
  let a := c.opv1.toNat + 0x34
  let u := engineOf s k c.op
  match unitPeek s u asid a 4 false with
  | .ok bs s =>
    unitPoke s u asid a (cleanBytes 4 ((pvalue bs + c.aux) % 2 ^ 32) ++ cleanBytes 4 cursor
      ++ (match status with | some x => cleanBytes 4 x | none => []))
  | .fault kd va s => .fault kd va s
  | .away s => .away s

/-- A stop at a position: fields written, no release (R318, R340). -/
def stopEmb (s : State) (k : Nat) (c : EngCmd) (sub : Nat) : Out :=
  engAccess k c.op s (writeEmb s k c c.step (some sub)) fun _ s => .next (dropCmd s k c false sub)

def poisonEmb (s : State) (k : Nat) (c : EngCmd) : Out :=
  engAccess k c.op s (writeEmb s k c c.step (some 4)) fun _ s => .next (dropCmd s k c true 4)

/-- What POLICY makes of an index (R340). -/
inductive Pick where
  | row (x : Nat)
  | skip
  | fault

def pickRow (b : EmbBlock) (x : Nat) : Pick :=
  if x < b.rows then .row x
  else match b.policy with
    | 0 => .skip
    | 1 => .row (b.rows - 1)
    | _ => .fault

/-- EMB_G_ROW: the next row of group a's EMB.G (R338). -/
def execEmbGRow (s : State) : Out :=
  let k := s.cur.a
  match headCmd s k with
  | none => .next (notOffered s)
  | some c =>
    unitStep c.op <| match c.part with
    | some (.embG, _) =>
      if !c.started || c.finished then .next (notOffered s)
      else
        let asid := s.asidOf k
        let u := engineOf s k c.op
        engAccess k c.op s (readBlock s k c) fun blk s =>
          if ppoison blk then poisonCmd s k c 0x3C 4
          else match parseEmb s k false blk with
            | none => stopCmd s k c 0x3C 2
            | some b =>
              engAccess k c.op s (unitPeek s u asid (b.idx + 4 * c.step) 4 false) fun ib s =>
                if ppoison ib then poisonEmb s k c
                else
                  let put (s : State) (bs : List PByte) (skip : Nat) : Out :=
                    engAccess k c.op s (writePlace s u (b.dst + b.os * c.step) bs) fun _ s =>
                      .next (setCmd s k c.op (fun c =>
                        { c with step := c.step + 1, aux := c.aux + skip, finished := decide (b.nidx ≤ c.step + 1) }))
                  match pickRow b (pvalue ib) with
                  | .row x => engAccess k c.op s (unitPeek s u asid (b.tbase + b.stride * x) b.rb true) fun bs s => put s bs 0
                  | .skip => put s (List.replicate b.rb ⟨0, false⟩) 1
                  | .fault => stopEmb s k c 1
    | _ => .next (notOffered s)

/-! ## Reduction (R67, R339) -/

/-- A line as the reducer reads it: one held dirty at its slice is written to its stack first, and its value is the
slice's (R339). -/
def reduceLine (s : State) (asid line : Nat) : Access (BitVec 1024 × BitVec 4) :=
  match l2Line s asid line with
  | some x =>
    let s := if x.tgt = 0 && x.dirty ≠ 0 then
        { backWrite s asid line x with l2 := AMap.put s.l2 (lineKey asid line) { x with dirty := 0 } }
      else s
    .ok (x.data, x.poison) s
  | none =>
    match lookup s asid (line * 128) with
    | (s, .error kd) => .fault kd (line * 128) s
    | (s, .ok l) =>
      if bytesAway s asid line then .away s
      else if l.tgt = 0 then
        let x := readLine s (l.base + line * 128 % l.size)
        .ok x.1 x.2
      else .away (demand s asid line)

/-- Bytes of a row, and the stack that holds each (R339); a page not in HBM has the place `farStack` gives it. -/
def reduceBytes (s : State) (asid : Nat) : List Nat → Access (List (Nat × PByte))
  | [] => .ok [] s
  | line :: rest =>
    match reduceLine s asid line with
    | .ok (d, p) s =>
      match lookup s asid (line * 128) with
      | (s, .error kd) => .fault kd (line * 128) s
      | (s, .ok l) =>
        let pa := l.base + line * 128 % l.size
        let stack (i : Nat) : Nat := if l.tgt = 0 then holdCtrl (pa + i) / 32 else Config.farStack asid (line / 512)
        match reduceBytes s asid rest with
        | .ok more s => .ok ((List.range 128).map (fun i => (stack i, ⟨getByte d i, sectorPoison p i⟩)) ++ more) s
        | r => r
    | .fault kd va s => .fault kd va s
    | .away s => .away s

/-- A contribution: the stack, the value, poison. -/
structure Contrib where
  stack : Nat
  val : Nat
  poison : Bool

/-- Element j of a row converted to FP32 (R67). -/
def contrib (b : EmbBlock) (bs : List (Nat × PByte)) (j : Nat) : Contrib :=
  let n := match b.fmt with | 0 => 4 | 1 => 2 | _ => 1
  let e := (bs.drop (n * j)).take n
  let v := pvalue (e.map (·.2))
  let bad := ppoison (e.map (·.2))
  let st := ((e.head?).map (·.1)).getD 0
  let sc := ((bs.drop b.dim).take 2).map (·.2)
  match b.fmt with
  | 0 => ⟨st, v, bad⟩
  | 1 => ⟨st, widen bf16 v, bad⟩
  | 2 => ⟨st, (fpMul fp32 0 (widen e4m3 v) (widen bf16 (pvalue sc))).1, bad || ppoison sc⟩
  | _ => ⟨st, (fpMul fp32 0 (widen e5m2 v) (widen bf16 (pvalue sc))).1, bad || ppoison sc⟩

/-- One RNE addition of the reducer; the NaN an addend gives has a free sign and payload (log 30). -/
def reducerAdd (a b : Nat) : Nat :=
  if isNan fp32 a || isNan fp32 b then (0x7FC00000 ||| Config.reducerNan a b &&& 0x803FFFFF).toNat else (fpAdd fp32 0 a b).1

/-- The sum of a bag's element: per stack in index order, then the partials in ascending stack number (R65). -/
def bagSum (cs : List Contrib) : Nat :=
  let parts := sortBy (fun x y => decide (x < y)) (cs.map (·.stack)).eraseDups
  let part (st : Nat) : Nat := (cs.filter (fun c => decide (c.stack = st))).foldl (fun a c => reducerAdd a c.val) 0
  (parts.map part).foldl reducerAdd 0

/-- Max in the order where +0 is above −0 (R67). -/
def bagMax (cs : List Contrib) : Nat :=
  let vs := cs.map (·.val)
  if vs.any (isNan fp32) then canonNan fp32
  else match vs with
    | [] => 0
    | v :: rest => rest.foldl (fun m x => if fpBelow fp32 m x then x else m) v

/-- Sum, mean or max (R67). -/
def bagResult (fn : Nat) (cs : List Contrib) : Nat :=
  match fn with
  | 0 => bagSum cs
  | 1 =>
    let t := bagSum cs
    if cs.isEmpty then 0
    else if isNan fp32 t then t
    else (fpDiv fp32 0 t (intToFp fp32 0 (cs.length : Int)).1).1
  | _ => bagMax cs

/-- The rows a bag's indices contribute, in order, and its skips; `none` on a FAULT. -/
def pickAll (b : EmbBlock) : List Nat → Option (List Nat × Nat)
  | [] => some ([], 0)
  | x :: xs =>
    match pickRow b x, pickAll b xs with
    | .fault, _ => none
    | _, none => none
    | .row r, some (rs, n) => some (r :: rs, n)
    | .skip, some (rs, n) => some (rs, n + 1)

/-- Every contributing row's bytes. -/
def readRows (s : State) (asid : Nat) (b : EmbBlock) : List Nat → Access (List (List (Nat × PByte)))
  | [] => .ok [] s
  | r :: rs =>
    let a := b.tbase + b.stride * r
    match reduceBytes s asid (linesOf a b.rb) with
    | .ok bs s =>
      match readRows s asid b rs with
      | .ok more s => .ok ((bs.drop (a % 128)).take b.rb :: more) s
      | x => x
    | .fault kd va s => .fault kd va s
    | .away s => .away s

/-- The DIM results of a bag. -/
def bagBytes (b : EmbBlock) (rows : List (List (Nat × PByte))) : List PByte :=
  (List.range b.dim).flatMap (fun j =>
    let cs := rows.map (fun r => contrib b r j)
    let bad := cs.any (·.poison)
    (cleanBytes 4 (bagResult b.fn cs)).map (fun x => { x with poison := bad }))

/-- EMB_R_BAG: the next bag of group a's EMB.R (R339). -/
def execEmbRBag (s : State) : Out :=
  let k := s.cur.a
  match headCmd s k with
  | none => .next (notOffered s)
  | some c =>
    unitStep c.op <| match c.part with
    | some (.embR, _) =>
      if !c.started || c.finished then .next (notOffered s)
      else
        let asid := s.asidOf k
        let u := engineOf s k c.op
        engAccess k c.op s (readBlock s k c) fun blk s =>
          if ppoison blk then poisonCmd s k c 0x3C 4
          else match parseEmb s k true blk with
            | none => stopCmd s k c 0x3C 2
            | some b =>
              engAccess k c.op s (unitPeek s u asid (b.offs + 4 * c.step) 8 false) fun ob s =>
                let lo := pvalue (ob.take 4)
                let hi := pvalue (ob.drop 4)
                if ppoison ob then poisonEmb s k c
                else engAccess k c.op s (unitPeek s u asid (b.idx + 4 * lo) (4 * (hi - lo)) false) fun ib s =>
                  if ppoison ib then poisonEmb s k c
                  else match pickAll b (words ib (hi - lo)) with
                    | none => stopEmb s k c 1
                    | some (rows, skips) =>
                      engAccess k c.op s (readRows s asid b rows) fun bs s =>
                        engAccess k c.op s (writePlace s u (b.dst + 4 * b.dim * c.step) (bagBytes b bs)) fun _ s =>
                          .next (setCmd s k c.op (fun c =>
                            { c with step := c.step + 1, aux := c.aux + skips, finished := decide (b.nbags ≤ c.step + 1) }))
    | _ => .next (notOffered s)

/-- BADBAG: the offsets from a position descend, pass NIDX, or describe too long a bag (R339). -/
def badBags (nidx : Nat) : List Nat → Bool
  | [] => false
  | [x] => decide (nidx < x)
  | x :: y :: rest => decide (y < x) || decide (nidx < x) || decide (2048 < y - x) || badBags nidx (y :: rest)

end Sys2Proof.Machine
end

