-- ==== Sys2Proof/Machine/GraphStore.lean ====
section
/-!
DEFINITION. Graph storage (R186–R194): the records of R190–R193 as a graph unit reads and writes them, segments taken and
freed, insertion, reservation, removal, compaction (R198) and the mutation sequence (R188, R199).
-/
namespace Sys2Proof.Machine

/-! ## Statuses (R200) -/

def gOk : Nat := 0
def gUnbound : Nat := 1
def gNullv : Nat := 2
def gBadv : Nat := 3
def gBadrank : Nat := 4
def gFull : Nat := 5
def gPinmax : Nat := 6
def gSeqend : Nat := 7
def gNocur : Nat := 8
def gNoedge : Nat := 9
def gCorrupt : Nat := 10

/-- MODEL's own: no status, the mark of a lane a save has withdrawn (R363). -/
def gWithdrawn : Nat := 255

def nullVertex : Nat := 0xFFFFFFFF

/-! ## Steps at a unit -/

/-- What a step at a graph unit comes to: a result; a page fault; a line not at its slice yet; a status other than OK. -/
inductive GRes (α : Type) where
  | ok (x : α) (s : State)
  | fault (kind va : Nat) (s : State)
  | away (s : State)
  | status (code : Nat) (s : State)

def GRes.bind {α β : Type} (r : GRes α) (f : α → State → GRes β) : GRes β :=
  match r with
  | .ok x s => f x s
  | .fault k va s => .fault k va s
  | .away s => .away s
  | .status c s => .status c s

def GRes.ofAccess {α : Type} : Access α → GRes α
  | .ok x s => .ok x s
  | .fault k va s => .fault k va s
  | .away s => .away s

/-- A failed step leaves no change of the storage (R200); an entry of the graph table read in it is kept (R190). -/
def undo (s0 s : State) : State :=
  { s with ctxs := s.ctxs.map (fun p => (p.1, { p.2 with gstore := (s0.ctx p.1).gstore, gbad := (s0.ctx p.1).gbad })), greqs := s0.greqs }

/-! ## Bytes (R194) -/

/-- A graph unit at work on a request of a group; key 0 is the unit's own work. -/
def graphUnit (unit key grp : Nat) : Asker := ⟨3000 + unit, key, 0, grp⟩

def Asker.unit (u : Asker) : Nat := u.who - 3000

/-- Key of a byte of graph storage that a unit holds. -/
def storeKey (unit a : Nat) : Nat := unit * 2 ^ 56 + a

/-- The byte of a context's graph storage that a unit holds. -/
def heldByte (s : State) (unit asid a : Nat) : Option Byte :=
  ((s.ctx asid).gstore.find? (fun p => decide (p.1 = storeKey unit a))).map (·.2)

/-- A byte that a unit holds lies in a sector that an error has poisoned. -/
def heldBad (s : State) (unit asid a : Nat) : Bool := (s.ctx asid).gbad.contains (storeKey unit a / 32)

/-- n bytes of graph storage: the unit's copy, else the slice's; a poisoned sector gives CORRUPT. -/
def gRead (s : State) (u : Asker) (asid a n : Nat) : GRes (List Byte) :=
  let as := byteAddrs a n
  let held := as.map (heldByte s u.unit asid)
  if as.any (heldBad s u.unit asid) then .status gCorrupt s
  else if held.all (·.isSome) then .ok (held.map (·.getD 0)) s
  else
    (GRes.ofAccess (unitPeek s u asid a n false)).bind fun bs s =>
      if (held.zip bs).any (fun p => p.1.isNone && p.2.poison) then .status gCorrupt s
      else .ok ((held.zip bs).map (fun p => p.1.getD p.2.val)) s

/-- Marks of poisoned sectors, but for those of which a write gives every byte (R286). -/
def unmarked (unit a n : Nat) (bad : List Nat) : List Nat :=
  bad.filter (fun k => !(decide (storeKey unit a ≤ 32 * k) && decide (32 * k + 32 ≤ storeKey unit a + n)))

/-- A write of bytes into the unit's copy; the page must let the unit write it back. -/
def gWrite (s : State) (u : Asker) (asid a : Nat) (bs : List Byte) : GRes Unit :=
  let as := byteAddrs a bs.length
  let put (s : State) : State :=
    s.modCtx asid (fun c =>
      { c with gstore := (as.zip bs).foldl (fun m p => AMap.put m (storeKey u.unit p.1) p.2) c.gstore,
               gbad := unmarked u.unit a bs.length c.gbad })
  if as.all (fun x => (heldByte s u.unit asid x).isSome) then .ok () (put s)
  else (GRes.ofAccess (unitWritable s u asid (linesOf a bs.length))).bind fun _ s => .ok () (put s)

def le (bs : List Byte) (off n : Nat) : Nat := ofLe ((bs.drop off).take n)

/-! ## The graph table (R190) -/

def unboundEntry : GEntry := ⟨0, 0, 0, 0, 0, 0, false⟩

def parseEntry (bs : List PByte) : GEntry :=
  let f (o n : Nat) : Nat := blockBytes bs o n
  let e : GEntry := ⟨f 0 8, f 8 4, f 0x10 8, f 0x18 8, f 0x20 8, f 0x28 4, true⟩
  let segs := 96 * e.segper * 128
  if f 0x0C 4 ≠ 1 || f 0x2C 20 ≠ 0 || e.vcount = 0 || e.vbase % 128 ≠ 0 || e.segbase % 4096 ≠ 0 || e.sqbase % 4096 ≠ 0
      || e.poolbase % 128 ≠ 0 || e.segper = 0 || decide (2 ^ 24 < e.segper) || decide (windowBase < e.vbase + 32 * e.vcount)
      || decide (windowBase < e.segbase + segs) || decide (windowBase < e.sqbase + segs)
      || decide (windowBase < e.poolbase + 16 * 96) then unboundEntry
  else e
where
  blockBytes (bs : List PByte) (o n : Nat) : Nat := pvalue ((bs.drop o).take n)

/-- The entry a unit keeps for a gid, read at the first operation on it; a poisoned entry is not kept. -/
def graphEntry (s : State) (u : Asker) (asid gid : Nat) : GRes GEntry :=
  let key := u.unit * 65536 + gid
  match (s.ctx asid).gents.find? (fun p => decide (p.1 = key)) with
  | some p => .ok p.2 s
  | none =>
    let keep (e : GEntry) (s : State) : GRes GEntry := .ok e (s.modCtx asid (fun c => { c with gents := AMap.put c.gents key e }))
    if (s.ctx asid).gmax ≤ gid then keep unboundEntry s
    else
      (GRes.ofAccess (unitPeek s u asid ((s.ctx asid).gtbase + 64 * gid) 64 false)).bind fun bs s =>
        if ppoison bs then .status gCorrupt s else keep (parseEntry bs) s

/-- R189. -/
def graphOwner (gid v : Nat) : Nat :=
  let h := (Nat.xor v (gid * 2 ^ 16) * 0x2545F491) % 2 ^ 32
  h / 2 ^ 16 * 96 / 2 ^ 16

/-! ## A vertex and its lists -/

/-- A vertex at its owner. -/
structure Place where
  asid : Nat
  gid : Nat
  v : Nat
  ask : Asker
  e : GEntry

def Place.unit (p : Place) : Nat := p.ask.unit

structure GVert where
  outHead : Nat
  outTail : Nat
  inHead : Nat
  inTail : Nat
  outDeg : Nat
  inDeg : Nat
  seq : Nat
  pins : Nat
  tomb : Bool
deriving DecidableEq

structure GSlot where
  other : Nat
  attr : Nat
  add : Nat
  rem : Nat
  live : Bool
deriving DecidableEq

structure GSeg where
  idx : Nat
  slots : List GSlot
deriving DecidableEq

/-- A vertex with both its lists. -/
structure GView where
  vert : GVert
  outs : List GSeg
  ins : List GSeg

def vertAddr (p : Place) : Nat := p.e.vbase + 32 * p.v
def segAddr (p : Place) (i : Nat) : Nat := p.e.segbase + 128 * (p.unit * p.e.segper + i)
def sqAddr (p : Place) (i : Nat) : Nat := p.e.sqbase + 128 * (p.unit * p.e.segper + i)
def poolAddr (p : Place) : Nat := p.e.poolbase + 16 * p.unit

def readVert (s : State) (p : Place) : GRes GVert :=
  (gRead s p.ask p.asid (vertAddr p) 32).bind fun b s =>
    if le b 0x1E 2 > 1 then .status gCorrupt s
    else .ok ⟨le b 0 4, le b 4 4, le b 8 4, le b 12 4, le b 16 4, le b 20 4, le b 24 4, le b 28 2, decide (le b 0x1E 2 = 1)⟩ s

def writeVert (s : State) (p : Place) (v : GVert) : GRes Unit :=
  gWrite s p.ask p.asid (vertAddr p)
    (leBytes 4 v.outHead ++ leBytes 4 v.outTail ++ leBytes 4 v.inHead ++ leBytes 4 v.inTail ++ leBytes 4 v.outDeg
      ++ leBytes 4 v.inDeg ++ leBytes 4 v.seq ++ leBytes 2 v.pins ++ leBytes 2 (if v.tomb then 1 else 0))

/-- Slots of a segment and its sequence block (R193). -/
def parseSlots (b q : List Byte) : List GSlot :=
  (List.range (le b 0x0A 1)).map (fun k =>
    ⟨le b (32 + 8 * k) 4, le b (36 + 8 * k) 4, le q (8 * k) 4, le q (8 * k + 4) 4, decide (le b 8 2 / 2 ^ k % 2 = 1)⟩)

/-- The chain from link `i`: each segment must be of this vertex and direction (R194; log 33). -/
def readChain (s : State) (p : Place) (dir : Nat) : Nat → Nat → GRes (List GSeg)
  | _, 0 => .ok [] s
  | 0, _ + 1 => .status gCorrupt s
  | fuel + 1, i + 1 =>
    if p.e.segper ≤ i then .status gCorrupt s
    else
      (gRead s p.ask p.asid (segAddr p i) 128).bind fun b s =>
        if le b 4 4 ≠ p.v || le b 0x0B 1 ≠ dir || 12 < le b 0x0A 1 || le b 8 2 / 2 ^ (le b 0x0A 1) ≠ 0 then .status gCorrupt s
        else
          (gRead s p.ask p.asid (sqAddr p i) 96).bind fun q s =>
            (readChain s p dir fuel (le b 0 4)).bind fun rest s => .ok (⟨i, parseSlots b q⟩ :: rest) s

def liveSlots (l : List GSeg) : List GSlot := (l.flatMap (·.slots)).filter (·.live)

def tailLink (l : List GSeg) : Nat := match l.getLast? with | some x => x.idx + 1 | none => 0
def headLink (l : List GSeg) : Nat := match l with | x :: _ => x.idx + 1 | [] => 0

/-- The vertex with its lists; a tail or a degree that does not agree is inconsistent. -/
def readView (s : State) (p : Place) : GRes GView :=
  (readVert s p).bind fun v s =>
    (readChain s p 0 p.e.segper v.outHead).bind fun outs s =>
      (readChain s p 1 p.e.segper v.inHead).bind fun ins s =>
        if v.outTail ≠ tailLink outs || v.inTail ≠ tailLink ins || v.outDeg ≠ (liveSlots outs).length
            || v.inDeg ≠ (liveSlots ins).length then .status gCorrupt s
        else .ok ⟨v, outs, ins⟩ s

def GView.list (x : GView) (inList : Bool) : List GSeg := if inList then x.ins else x.outs
def GView.setList (x : GView) (inList : Bool) (l : List GSeg) : GView := if inList then { x with ins := l } else { x with outs := l }

/-! ## Writing -/

def segBytes (p : Place) (dir next : Nat) (x : GSeg) : List Byte :=
  let live := (List.range x.slots.length).foldl (fun m k => if ((x.slots[k]?).map (·.live)).getD false then m + 2 ^ k else m) 0
  let body := x.slots.flatMap (fun t => leBytes 4 t.other ++ leBytes 4 t.attr)
  leBytes 4 next ++ leBytes 4 p.v ++ leBytes 2 live ++ leBytes 1 x.slots.length ++ leBytes 1 dir ++ List.replicate 20 0
    ++ body ++ List.replicate (96 - body.length) 0

def sqBytes (x : GSeg) : List Byte :=
  let body := x.slots.flatMap (fun t => leBytes 4 t.add ++ leBytes 4 t.rem)
  body ++ List.replicate (128 - body.length) 0

/-- Segments of a list are written with their links. -/
def writeChain (s : State) (p : Place) (dir : Nat) : List GSeg → GRes Unit
  | [] => .ok () s
  | x :: rest =>
    (gWrite s p.ask p.asid (segAddr p x.idx) (segBytes p dir (headLink rest) x)).bind fun _ s =>
      (gWrite s p.ask p.asid (sqAddr p x.idx) (sqBytes x)).bind fun _ s => writeChain s p dir rest

/-- The vertex and its lists are written; degrees and ends follow the lists. -/
def writeView (s : State) (p : Place) (x : GView) : GRes Unit :=
  let v := { x.vert with outHead := headLink x.outs, outTail := tailLink x.outs, inHead := headLink x.ins, inTail := tailLink x.ins,
                         outDeg := (liveSlots x.outs).length, inDeg := (liveSlots x.ins).length }
  (writeVert s p v).bind fun _ s => (writeChain s p 0 x.outs).bind fun _ s => writeChain s p 1 x.ins

/-! ## The pool (R191) -/

structure Pool where
  hwm : Nat
  free : Nat
  cnt : Nat
  resv : Nat

def readPool (s : State) (p : Place) : GRes Pool :=
  (gRead s p.ask p.asid (poolAddr p) 16).bind fun b s => .ok ⟨le b 0 4, le b 4 4, le b 8 4, le b 12 4⟩ s

def writePool (s : State) (p : Place) (x : Pool) : GRes Unit :=
  gWrite s p.ask p.asid (poolAddr p) (leBytes 4 x.hwm ++ leBytes 4 x.free ++ leBytes 4 x.cnt ++ leBytes 4 x.resv)

/-- A segment is taken: FREEHEAD, else HWM; an exhausted pool gives FULL. -/
def takeSeg (s : State) (p : Place) : GRes Nat :=
  (readPool s p).bind fun x s =>
    if x.free ≠ 0 then
      if p.e.segper < x.free then .status gCorrupt s
      else
        (gRead s p.ask p.asid (segAddr p (x.free - 1)) 4).bind fun b s =>
          (writePool s p { x with free := le b 0 4, cnt := x.cnt - 1 }).bind fun _ s => .ok (x.free - 1) s
    else if x.hwm < p.e.segper then (writePool s p { x with hwm := x.hwm + 1 }).bind fun _ s => .ok x.hwm s
    else .status gFull s

/-- Emptied segments go to the free chain. -/
def freeSegs (s : State) (p : Place) : List Nat → GRes Unit
  | [] => .ok () s
  | i :: rest =>
    (readPool s p).bind fun x s =>
      (gWrite s p.ask p.asid (segAddr p i) (leBytes 4 x.free ++ List.replicate 124 0)).bind fun _ s =>
        (writePool s p { x with free := i + 1, cnt := x.cnt + 1 }).bind fun _ s => freeSegs s p rest

/-- RESV rises by one or falls by one. R197 says when it rises; it falls when the reservation that took the segment is filled or cancelled,
whatever other reservation still stands in that segment (DESIGN CHOICE, log 47). -/
def countResv (s : State) (p : Place) (up : Bool) : GRes Unit :=
  (readPool s p).bind fun x s => writePool s p { x with resv := if up then x.resv + 1 else x.resv - 1 }

/-! ## Insertion (R193) -/

/-- A slot at the end of a list: its segment and number, whether a segment was taken, and the list. -/
structure Appended where
  seg : Nat
  slot : Nat
  took : Bool
  list : List GSeg

def appendSlot (s : State) (p : Place) (l : List GSeg) (x : GSlot) : GRes Appended :=
  match l.getLast? with
  | some t =>
    if t.slots.length < 12 then
      .ok ⟨t.idx, t.slots.length, false, l.dropLast ++ [{ t with slots := t.slots ++ [x] }]⟩ s
    else (takeSeg s p).bind fun i s => .ok ⟨i, 0, true, l ++ [⟨i, [x]⟩]⟩ s
  | none => (takeSeg s p).bind fun i s => .ok ⟨i, 0, true, l ++ [⟨i, [x]⟩]⟩ s

/-- A slot of a list takes a new content. -/
def setSlot (l : List GSeg) (seg slot : Nat) (x : GSlot) : List GSeg :=
  l.map (fun t => if t.idx = seg then { t with slots := t.slots.set slot x } else t)

/-! ## Compaction (R198) -/

/-- Adds in flight with a reserved slot at the vertex. -/
def reservations (s : State) (p : Place) : List GReq :=
  s.greqs.filter (fun r =>
    (match r.kind with | .add | .bulkAdd => true | _ => false)
      && (match r.stage with | .reserved => decide (r.status = gOk) | .outDone | .cancel => true | _ => false)
      && decide (r.asid = p.asid) && decide (r.gid = p.gid) && decide (r.other = p.v))

/-- Each slot of a list with its segment and number. -/
def slotsOf (l : List GSeg) : List (Nat × Nat × GSlot) :=
  l.flatMap (fun t => ((List.range t.slots.length).zip t.slots).map (fun x => (t.idx, x.1, x.2)))

/-- Lists packed to the head; the segments that are left over, and where each kept slot went. -/
structure Packed where
  list : List GSeg
  freed : List Nat
  moved : List ((Nat × Nat) × (Nat × Nat))

def packList (l : List GSeg) (reserved : List (Nat × Nat)) : Packed :=
  let kept := (slotsOf l).filter (fun x => x.2.2.live || reserved.contains (x.1, x.2.1))
  let idxs := l.map (·.idx)
  let need := (kept.length + 11) / 12
  let segs := (List.range need).map (fun j => (⟨idxs[j]?.getD 0, ((kept.drop (12 * j)).take 12).map (·.2.2)⟩ : GSeg))
  { list := segs, freed := idxs.drop need,
    moved := ((List.range kept.length).zip kept).map (fun x => ((x.2.1, x.2.2.1), (idxs[x.1 / 12]?.getD 0, x.1 % 12))) }

/-- A vertex is compacted: reserved slots keep their places among the entries. -/
def compact (s : State) (p : Place) (x : GView) : GRes GView :=
  let rs := (reservations s p).map (fun r => (r.rseg, r.rslot))
  let o := packList x.outs []
  let i := packList x.ins rs
  let s := { s with greqs := s.greqs.map (fun r =>
    if (reservations s p).any (fun y => decide (y.id = r.id)) then
      match i.moved.find? (fun m => decide (m.1 = (r.rseg, r.rslot))) with
      | some m => { r with rseg := m.2.1, rslot := m.2.2 }
      | none => r
    else r) }
  (freeSegs s p (o.freed ++ i.freed)).bind fun _ s =>
    .ok { vert := { x.vert with tomb := false }, outs := o.list, ins := i.list } s

/-! ## The mutation sequence (R188, R199) -/

def seqTop : Nat := 0xFFFFFFFF

/-- ADDSEQ of the live entries of a list counted on from n. -/
def recount (n : Nat) : List GSlot → List GSlot × Nat
  | [] => ([], n)
  | x :: xs =>
    if x.live then
      let r := recount (n + 1) xs
      ({ x with add := n + 1 } :: r.1, r.2)
    else
      let r := recount n xs
      (x :: r.1, r.2)

def recountSegs (n : Nat) : List GSeg → List GSeg × Nat
  | [] => ([], n)
  | t :: ts =>
    let a := recount n t.slots
    let r := recountSegs a.2 ts
    ({ t with slots := a.1 } :: r.1, r.2)

/-- The sequence of the next update: an unpinned vertex is rebased first where needed; a pinned one ends SEQEND at a
linearisation point and saturates at an in-list step. -/
def bumpSeq (s : State) (p : Place) (x : GView) (lin : Bool) : GRes GView :=
  if x.vert.seq + 1 < seqTop then .ok { x with vert := { x.vert with seq := x.vert.seq + 1 } } s
  else if x.vert.pins = 0 then
    (compact s p x).bind fun x s =>
      let o := recountSegs 0 x.outs
      let i := recountSegs o.2 x.ins
      .ok { vert := { x.vert with seq := i.2 + 1 }, outs := o.1, ins := i.1 } s
  else if lin then .status gSeqend s
  else .ok { x with vert := { x.vert with seq := min seqTop (x.vert.seq + 1) } } s

/-! ## Removal (R196, R198) -/

/-- The place of the live entry of a rank. -/
def rankPlace (l : List GSeg) (k : Nat) : Option (Nat × Nat × GSlot) := ((slotsOf l).filter (fun x => x.2.2.live))[k]?

/-- The lowest rank of a live entry with this other vertex and attribute. -/
def findEntry (l : List GSeg) (other attr : Nat) : Option Nat :=
  let ls := liveSlots l
  (List.range ls.length).find? (fun k =>
    match ls[k]? with
    | some x => decide (x.other = other) && decide (x.attr = attr)
    | none => false)

/-- The entry of a rank is removed: a tombstone on a pinned vertex, else its slot is freed and the vertex compacted. -/
def removeRank (s : State) (p : Place) (x : GView) (inList lin : Bool) (k : Nat) : GRes GSlot :=
  (bumpSeq s p x lin).bind fun x s =>
    match rankPlace (x.list inList) k with
    | none => .status gCorrupt s
    | some (seg, slot, e) =>
      let y := x.setList inList (setSlot (x.list inList) seg slot { e with live := false, rem := x.vert.seq })
      let y := { y with vert := { y.vert with tomb := true } }
      if x.vert.pins = 0 then
        (compact s p y).bind fun y s => (writeView s p y).bind fun _ s => .ok e s
      else (writeView s p y).bind fun _ s => .ok e s

/-- PINS falls by one; at 0 with TOMB set the vertex is compacted (R198). -/
def unpin (s : State) (p : Place) : GRes Unit :=
  (readView s p).bind fun x s =>
    let x := { x with vert := { x.vert with pins := x.vert.pins - 1 } }
    if x.vert.pins = 0 && x.vert.tomb then (compact s p x).bind fun x s => writeView s p x
    else writeVert s p x.vert

end Sys2Proof.Machine
end

