-- ==== Sys2Proof/Machine/GraphWords.lean ====
section
/-!
DEFINITION. The graph and cursor words as they issue (R342–R353), the requests they send (R346), and how an answer
reaches its lane (R343, R345).
-/
namespace Sys2Proof.Machine

/-! ## Requests (R346) -/

def unitKey (core unit : Nat) : Nat := core * 96 + unit

/-- A request with nothing told yet. -/
def blankReq : GReq :=
  { id := 0, core := 0, grp := 0, op := 0, lane := 0, kind := .closeCur, stage := .unsent, asid := 0, gid := 0, vertex := 0,
    other := 0, rank := 0, attr := 0, cur := 0, rseg := 0, rslot := 0, took := false, unit := 0, num := 0, inNum := 0, status := 0,
    waitPage := none, moving := false, answer := none }

def setReq (s : State) (id : Nat) (f : GReq → GReq) : State :=
  { s with greqs := s.greqs.map (fun r => if r.id = id then f r else r) }

def findReq (s : State) (id : Nat) : Option GReq := s.greqs.find? (fun r => decide (r.id = id))

/-- A request goes to a unit under its core's next number there, at a stage. -/
def sendGraph (s : State) (id unit : Nat) (stage : GStage) : State :=
  match findReq s id with
  | none => s
  | some r =>
    let n := AMap.get 0 s.gSend (unitKey r.core unit)
    let s := { s with gSend := AMap.put s.gSend (unitKey r.core unit) (n + 1) }
    let s := setReq s id (fun r => { r with unit := unit, num := n, stage := stage, moving := true })
    packet s (1000 + r.core) (r.core / 2 % 96) r.asid 0 (.graph id unit)

/-- A request goes on from one unit to another, at a stage (R195, R196). -/
def hopGraph (s : State) (id here unit : Nat) (stage : GStage) : State :=
  packet (setReq s id (fun r => { r with stage := stage, moving := true })) here here 0 0 (.graph id unit)

/-- The unit a request stands at: its core numbered it there; the destination's, or the source's once an in-rank is read. -/
def GReq.place (r : GReq) : Nat :=
  match r.stage with
  | .asked | .outDone | .cancel => graphOwner r.gid r.other
  | .inRank => graphOwner r.gid r.vertex
  | _ => r.unit

/-- A unit answers a request of a lane. An open's close keeps its stage: the open is still to come (R350). -/
def replyGraph (s : State) (r : GReq) (a : GAns) : State :=
  let s := setReq (unitDone s r.id) r.id (fun x =>
    { x with stage := if r.stage = .closing then .closing else .answered, answer := some a, moving := true, waitPage := none })
  packet s r.place r.place r.asid 0 (.graphAns r.id r.core)

/-- A new request of the group, unsent. -/
def addReq (s : State) (r : GReq) : State := { s with greqs := s.greqs ++ [{ r with id := s.nextId }], nextId := s.nextId + 1 }

/-! ## Answers (R343, R345) -/

/-- A request of a cursor word. -/
def GKind.ofCursor : GKind → Bool
  | .openCur _ _ | .nextCur | .closeCur | .saveCur _ | .restCur _ => true
  | _ => false

/-- The values a failing lane receives (R347–R351). -/
def failValues (k : GKind) : Nat × Nat :=
  match k with
  | .degree _ => (0, 0)
  | _ => (nullVertex, 0)

/-- The registers of a lane's answer. -/
def putAnswer (g : Group) (x : GraphOp) (lane status v0 v1 : Nat) : Group :=
  let e (v : Nat) : LElt := ⟨BitVec.ofNat 32 v, false⟩
  let g := match x.shape with
    | .none => g
    | .first => g.setVelt x.vd lane (e v0)
    | .second => g.setVelt x.vd lane (e v1)
    | .pair => (g.setVelt x.vd lane (e v0)).setVelt (x.vd + 1) lane (e v1)
  match x.vs with
  | some r => g.setVelt r lane (e status)
  | none => g

/-- A status that makes the word trap (R343). -/
def GraphOp.trapsOn (x : GraphOp) (status : Nat) : Bool :=
  match x.vs with
  | some _ => decide (status = gCorrupt)
  | none => decide (status ≠ gOk)

/-- The trap of a word whose last answer has returned (R343). -/
def graphTrap (s : State) (x : GraphOp) : State :=
  match sortBy (fun a b => decide (a < b)) (x.fails.map (·.1)) with
  | [] => s
  | low :: _ =>
    let st := ((x.fails.find? (fun p => decide (p.1 = low))).map (·.2)).getD 0
    let info := { opInfo (s.grp x.grp) x.op with data := BitVec.ofNat 64 (256 * x.fails.length + st), lanes := maskOf (x.fails.map (·.1)) }
    takeTrap s x.grp .graph st info

/-- A lane of a graph word has its answer; the last one ends the word. -/
def answerLaneG (s : State) (r : GReq) (status v0 v1 : Nat) : State :=
  let s := { s with greqs := s.greqs.filter (fun y => decide (y.id ≠ r.id)) }
  match s.gops.find? (fun x => decide (x.op = r.op)) with
  | none => s
  | some x =>
    let v := if status = gOk then (v0, v1) else failValues r.kind
    let s := s.modGrp r.grp (fun g => putAnswer g x r.lane status v.1 v.2)
    let x := { x with left := x.left - 1, fails := if x.trapsOn status then x.fails ++ [(r.lane, status)] else x.fails }
    if x.left = 0 then
      let s := { s with gops := s.gops.filter (fun y => decide (y.op ≠ x.op)) }
      graphTrap (endIfEmpty s x.grp x.op) x
    else { s with gops := s.gops.map (fun y => if y.op = x.op then x else y) }

/-! ## Cursor lanes (R346, R350–R353) -/

/-- R204. -/
def cursorBytes (c : Cursor) : List Byte :=
  let b (x : Bool) (w : Nat) : Nat := if x then w else 0
  leBytes 4 c.vertex.toNat ++ leBytes 4 c.seqs.toNat ++ leBytes 4 c.segpos.toNat ++ [0]
    ++ leBytes 1 (b c.isOpen 128 + b c.live 64 + b c.inList 32 + b c.atEnd 16 + c.slot.toNat) ++ leBytes 2 c.gid.toNat

/-- Bytes of a lane store join the group's FIFO, in the entry its operation has for their line. -/
def pushFifo (s : State) (k op a : Nat) (bs : List Byte) : State :=
  let asid := s.asidOf k
  let xs := bytesAt a (bs.map (fun b => ⟨b, false⟩))
  (linesTouched xs).foldl (fun s l =>
    let mine := xs.filter (fun b => decide (lineOf b.1 = l))
    let same (e : StoreEnt) : Bool := decide (e.op = op) && e.bytes.any (fun b => decide (lineOf b.1 = l))
    s.modGrp k (fun g =>
      if g.fifo.any same then { g with fifo := g.fifo.map (fun e => if same e then { e with bytes := lastBytes (e.bytes ++ mine) } else e) }
      else { g with fifo := g.fifo ++ [⟨op, asid, mine, false⟩] })) s

/-- The 16 bytes of a cursor lane are stored (R353). -/
def storeCursor (s : State) (r : GReq) (a : Nat) : State :=
  let bs := cursorBytes ((s.grp r.grp).cursor r.cur r.lane)
  match locate s (s.grp r.grp).team acceptsPlain a 16 with
  | .ok (.own o) => scratchWrite s (s.grp r.grp).team (bytesAt o (bs.map (fun b => ⟨b, false⟩)))
  | .ok (.lin a) => pushFifo s r.grp r.op a bs
  | _ => s

def ownerOf (c : Cursor) : Nat := graphOwner c.gid.toNat c.vertex.toNat

/-- The vertex that the open of a request, or its restore, names. -/
def GReq.opens (r : GReq) : Option (Nat × Nat) :=
  match r.kind with
  | .openCur _ _ => some (r.gid, r.vertex)
  | .restCur c => if c.isOpen then some (c.gid.toNat, c.vertex.toNat) else none
  | _ => none

/-- A lower lane of the same word has still to send a request for a vertex, or one that is not known yet: the lanes that name a vertex
go in ascending VID (R205). -/
def lowerFirst (s : State) (r : GReq) (gid v : Nat) : Bool :=
  s.greqs.any (fun x => decide (x.op = r.op) && decide (x.lane < r.lane) && (match x.stage with
    | .loading | .unsent => true
    | .closing | .turn => decide (x.opens = some (gid, v))
    | _ => false))

/-- A request for a vertex is sent, unless a lower lane's goes first. -/
def sendTurn (s : State) (r : GReq) (gid v : Nat) (stage : GStage) : State :=
  if lowerFirst s r gid v then s else sendGraph s r.id (graphOwner gid v) stage

/-- The open or the restore, once the lane's cursor is closed; a restored lane that is closed reports OK (R353). -/
def openPart (s : State) (r : GReq) : State :=
  match r.opens with
  | some (gid, v) => sendTurn (setReq s r.id (fun r => { r with stage := .turn })) r gid v .sent
  | none => answerLaneG (s.modGrp r.grp (fun g => g.setCursor r.cur r.lane closedCursor)) r gOk 0 0

/-- A cursor request that is the first of its lane goes on: it is sent, or answered at once. -/
def beginCursor (s : State) (r : GReq) : State :=
  let c := (s.grp r.grp).cursor r.cur r.lane
  let toOwner (stage : GStage) : State := sendTurn s r c.gid.toNat c.vertex.toNat stage
  match r.stage, r.kind with
  | .turn, _ => openPart s r
  | .unsent, .openCur _ _ | .unsent, .restCur _ => if c.isOpen then toOwner .closing else openPart s r
  | .unsent, .nextCur => if c.isOpen then toOwner .sent else answerLaneG s r gNocur 0 0
  | .unsent, .closeCur => if c.isOpen then toOwner .sent else answerLaneG s r gOk 0 0
  | .unsent, .saveCur a => answerLaneG (storeCursor s r a) r gOk 0 0
  | _, _ => s

/-- The first request on its cursor lane of its group (R346). -/
def firstOnLane (s : State) (r : GReq) : Bool :=
  (s.greqs.find? (fun x => x.kind.ofCursor && decide (x.grp = r.grp) && decide (x.cur = r.cur) && decide (x.lane = r.lane))).map (·.id) = some r.id

/-- The cursor requests of a group go on as far as they can, in issue order. -/
def pumpCursors (s : State) (k : Nat) : State :=
  ((s.greqs.filter (fun r => r.kind.ofCursor && decide (r.grp = k))).map (·.id)).foldl (fun s id =>
    match findReq s id with
    | some r => if firstOnLane s r then beginCursor s r else s
    | none => s) s

/-- A request's answer reaches its group; later cursor requests go on. -/
def answerG (s : State) (r : GReq) (status v0 v1 : Nat) : State :=
  let s := answerLaneG s r status v0 v1
  if r.kind.ofCursor then pumpCursors s r.grp else s

/-- A unit's answer reaches the core: the cursor changes; the close of an open lets the open go on, any other answer ends the lane's
request. -/
def takeGraph (s : State) (id : Nat) : State :=
  match findReq s id with
  | none => s
  | some r =>
    match r.answer with
    | none => s
    | some a =>
      let s := match a.cursor with
        | some c => s.modGrp r.grp (fun g => g.setCursor r.cur r.lane c)
        | none => s
      if r.stage = .closing then
        pumpCursors (setReq s id (fun r => { r with stage := .turn, status := a.status, answer := none, moving := false })) r.grp
      else answerG s r a.status a.v0 a.v1

/-! ## Issue -/

/-- The checks of R344 that graph words share: poison of the SG register and of the elements read. -/
def graphWord (op : LaneOp) (f : LaneFields) (sg : Bool) (regs : List (BitVec 9)) (s : State) (body : Lanes → State → Out) : Out :=
  issueMemLane op f .gr true s fun act s =>
    let k := s.cur.grp
    let bad := regs.foldl (fun m v => m ||| poisonedIn (s.grp k) act v.toNat) 0
    if sg && (readS s k s.cur.second (immSg f).toNat).poison then poisonLane s 4 act
    else if bad ≠ 0 then poisonLane s 4 bad
    else body act s

/-- A graph word in flight; the word of a replay record goes on with the failures it has met (R363). -/
def addGraphOp (s : State) (x : GraphOp) : State :=
  if s.gops.any (fun y => decide (y.op = x.op)) then
    { s with gops := s.gops.map (fun y => if y.op = x.op then { y with left := x.left } else y) }
  else { s with gops := s.gops ++ [x] }

/-- GR rises; the word waits for an answer of each acting lane. -/
def startGraph (s : State) (f : LaneFields) (act : Lanes) (shape : GShape) : State × Nat :=
  let (s, op) := startOp (issueLaneWord s) .gr true
  let x : GraphOp := { op := op, grp := s.cur.grp, shape := shape, vd := f.vd.toNat, vs := if immSe f then some (immVs f) else none,
                       left := (lanesOf act).length, fails := [] }
  (addGraphOp s x, op)

def gidOf (s : State) (f : LaneFields) : Nat := (readS s s.cur.grp s.cur.second (immSg f).toNat).val.toNat % 65536

/-- One request for each acting lane in ascending VID. -/
def sendLanes (s : State) (f : LaneFields) (act : Lanes) (shape : GShape) (mk : Nat → GReq) : State :=
  let k := s.cur.grp
  let (s, op) := startGraph s f act shape
  let s := (lanesOf act).foldl (fun s l =>
    let id := s.nextId
    let r := { mk l with core := s.coreOf k, grp := k, op := op, lane := l, asid := s.asidOf k }
    let s := addReq s r
    if r.kind.ofCursor then s else sendGraph s id (graphOwner r.gid r.vertex) .sent) s
  pumpCursors s k

def lval (s : State) (v : BitVec 9) (l : Nat) : Nat := (laneElt s v l).val.toNat

/-- GDEG, GNBR, GATTR and the removals: a vertex, and for all but a degree a rank (R347, R349). -/
def graphRead (op : LaneOp) (f : LaneFields) (shape : GShape) (kind : GKind) (ranked : Bool) (s : State) : Out :=
  graphWord op f true (if ranked then [f.va, f.vb] else [f.va]) s fun act s =>
    .next (sendLanes s f act shape (fun l =>
      { blankReq with kind := kind, gid := gidOf s f, vertex := lval s f.va l, rank := if ranked then lval s f.vb l else 0 }))

/-- P: a pair result (R342). -/
def pairShape (f : LaneFields) : GShape := if f.xmod.getLsbD 0 then .pair else .first

def execGdeg (f : LaneFields) (s : State) : Out := graphRead .gdeg f .first (.degree false) false s
def execGdegIn (f : LaneFields) (s : State) : Out := graphRead .gdegIn f .first (.degree true) false s
def execGnbr (f : LaneFields) (s : State) : Out := graphRead .gnbr f (pairShape f) (.rank false) true s
def execGnbrIn (f : LaneFields) (s : State) : Out := graphRead .gnbrIn f (pairShape f) (.rank true) true s
def execGattr (f : LaneFields) (s : State) : Out := graphRead .gattr f .second (.rank false) true s
def execGattrIn (f : LaneFields) (s : State) : Out := graphRead .gattrIn f .second (.rank true) true s
def execGdel (f : LaneFields) (s : State) : Out := graphRead .gdel f .first .del true s
def execGdelIn (f : LaneFields) (s : State) : Out := graphRead .gdelIn f .first .delIn true s

def execGadd (f : LaneFields) (s : State) : Out :=
  graphWord .gadd f true [f.va, f.vb, f.vc] s fun act s =>
    .next (sendLanes s f act .first (fun l =>
      { blankReq with kind := .add, gid := gidOf s f, vertex := lval s f.va l, other := lval s f.vb l, attr := lval s f.vc l }))

def curNum (f : LaneFields) : Nat := f.vc.toNat % 8

/-- COPEN and COPEN.LIVE (R350). -/
def openWord (op : LaneOp) (f : LaneFields) (live : Bool) (s : State) : Out :=
  graphWord op f true [f.va] s fun act s =>
    .next (sendLanes s f act .none (fun l =>
      { blankReq with kind := .openCur live (f.xmod.getLsbD 1), gid := gidOf s f, vertex := lval s f.va l, cur := curNum f }))

def execCopen (f : LaneFields) (s : State) : Out := openWord .copen f false s
def execCopenLive (f : LaneFields) (s : State) : Out := openWord .copenLive f true s

def execCnext (f : LaneFields) (s : State) : Out :=
  graphWord .cnext f false [] s fun act s =>
    .next (sendLanes s f act .pair (fun _ => { blankReq with kind := .nextCur, cur := curNum f }))

def execCclose (f : LaneFields) (s : State) : Out :=
  graphWord .cclose f false [] s fun act s =>
    .next (sendLanes s f act .none (fun _ => { blankReq with kind := .closeCur, cur := curNum f }))

/-- The lanes' 16 bytes of CSAVE and CREST: POISON on sa, then MEM (R353). -/
def cursorMemory (op : LaneOp) (f : LaneFields) (s : State) (body : Lanes → List (Nat × Loc) → State → Out) : Out :=
  graphWord op f false [] s fun act s =>
    let k := s.cur.grp
    let a := laneScalar s f.va
    if a.poison then poisonLane s 1 act
    else
      let as := (lanesOf act).map (fun l => (l, (a.val + BitVec.ofNat 64 (16 * l)).toNat))
      let places := locateAll s (s.grp k).team acceptsPlain 16 as
      match leastFault [laneFaults places, if a.val.toNat % 16 ≠ 0 then some ⟨memAlign, act, a.val.toNat⟩ else none], places with
      | some e, _ => memTrapLane s e
      | none, .ok ls => body act ls s
      | none, .error e => memTrapLane s e

/-- CSAVE: a lane store of each lane's state (R353); its FIFO entries must be free (R287). -/
def execCsave (f : LaneFields) (s : State) : Out :=
  cursorMemory .csave f s fun act ls s =>
    let lines := (ls.filterMap (fun p => match p.2 with | .lin a => some (lineOf a) | _ => none)).eraseDups
    if fifoFree s s.cur.grp < lines.length then .next (reject s 0 lines.length)
    else
      .next (sendLanes s f act .none (fun l =>
        { blankReq with kind := .saveCur (((ls.find? (fun p => decide (p.1 = l))).map (fun p => p.2.addr)).getD 0), cur := curNum f }))

/-- CREST: a lane load of each lane's 16 bytes (R353); CURSOR_OPEN takes them. -/
def execCrest (f : LaneFields) (s : State) : Out :=
  cursorMemory .crest f s fun act ls s =>
    let k := s.cur.grp
    let x : GraphOp := { op := nextOp s .gr, grp := k, shape := .none, vd := 0, vs := if immSe f then some (immVs f) else none,
                         left := (lanesOf act).length, fails := [] }
    let reqs (s : State) : State := (lanesOf act).foldl (fun s l =>
      addReq s { blankReq with core := s.coreOf k, grp := k, op := x.op, lane := l, asid := s.asidOf k, kind := .restCur closedCursor,
                               stage := .loading, cur := curNum f }) s
    match issueLoad s .gr (.cursor (curNum f)) false (ls.map (fun p => resolvePiece s k p.1 p.2 16)) issueLaneWord none with
    | .next t => if t.cur.held then .next t else .next (reqs (addGraphOp t x))
    | r => r

end Sys2Proof.Machine
end

