-- ==== Sys2Proof/Machine/GraphSteps.lean ====
section
/-!
DEFINITION. The steps of the graph units (R35, R169, R195–R205, R346–R353): reads, adds, removals, cursors, and the
write-back of a context's graph storage (R194).
-/
namespace Sys2Proof.Machine

/-! ## Steps -/

/-- The request may be performed at its unit: its core's number is due there (R346). -/
def due (s : State) (r : GReq) : Bool := decide (r.num = AMap.get 0 s.gExpect (unitKey r.core r.unit))

/-- Its number has been performed. -/
def passNum (s : State) (r : GReq) : State := { s with gExpect := AMap.put s.gExpect (unitKey r.core r.unit) (r.num + 1) }

/-- Key of the in-list messages of a source unit for a vertex (R197). -/
def inKey (asid gid unit v : Nat) : Nat := ((asid * 2 ^ 16 + gid) * 96 + unit) * 2 ^ 32 + v

/-- The next in-list message of a source unit for a vertex: its number, and the state that has counted it. -/
def numberIn (s : State) (asid gid unit v : Nat) : State × Nat :=
  let k := inKey asid gid unit v
  let n := AMap.get 0 s.inSend k
  ({ s with inSend := AMap.put s.inSend k (n + 1) }, n)

/-- The source and destination of an edge request: GDEL.IN's are exchanged once its in-rank is read. -/
def GReq.srcUnit (r : GReq) : Nat := graphOwner r.gid r.vertex

/-- The request's in-list message is due at the destination. -/
def inDue (s : State) (r : GReq) : Bool := decide (r.inNum = AMap.get 0 s.inExpect (inKey r.asid r.gid r.srcUnit r.other))

def passIn (s : State) (r : GReq) : State :=
  { s with inExpect := AMap.put s.inExpect (inKey r.asid r.gid r.srcUnit r.other) (r.inNum + 1) }

/-- A vertex at its owner: its gid bound, the vertex in range (R186, R190). -/
def placeOf (s : State) (r : GReq) (gid v : Nat) : GRes Place :=
  let u := graphUnit (graphOwner gid v) r.id r.grp
  (graphEntry s u r.asid gid).bind fun e s =>
    if !e.bound then .status gUnbound s
    else if v = nullVertex then .status gNullv s
    else if e.vcount ≤ v then .status gBadv s
    else .ok ⟨r.asid, gid, v, u, e⟩ s

/-- The outcome of a step for a request (R200, R344, R360): a status other than OK goes to `bad`; a page fault parks the
lane, or makes an engine command's record wait. -/
def graphStep {α : Type} (s0 : State) (r : GReq) (res : GRes α) (bad : Nat → State → State) (ok : α → State → State) : Out :=
  match res with
  | .ok x s => .next (ok x (unitDone s r.id))
  | .away s => .next (notOffered (undo s0 s))
  | .status c s => .next (bad c (unitDone (undo s0 s) r.id))
  | .fault kind va s =>
    let s := undo s0 s
    if kind = walkError then .next (walkFatal s r.asid va)
    else match reportPage s r.asid va kind (pageWho s r.grp) with
      | none => .next (notOffered s)
      | some s =>
        let s := setReq s r.id (fun r => { r with waitPage := some (va / 2 ^ 16 * 2 ^ 16) })
        .next (match r.kind with
          | .bulkAdd | .bulkDel => s
          | _ => s.modGrp r.grp (fun g => g.setParked r.op true))

/-- The request b, when it has reached a unit and can go on there. -/
def atUnit (s : State) (body : GReq → Out) : Out :=
  match findReq s s.cur.b with
  | some r => if r.moving || r.waitPage.isSome then .next (notOffered s) else body r
  | none => .next (notOffered s)

/-- The same at a stage. -/
def atStage (s : State) (st : GStage) (body : GReq → Out) : Out :=
  atUnit s fun r => if r.stage = st then body r else .next (notOffered s)

/-! ## An engine record's progress (R355) -/

def isBulk (r : GReq) : Bool :=
  match r.kind with
  | .bulkAdd | .bulkDel => true
  | _ => false

/-- The record's linearisation step has been answered. -/
def recordLinear (s : State) (r : GReq) : State :=
  if isBulk r then
    setCmd s r.grp r.op (fun c => { c with asked := false, step := if c.stop.isSome then c.step else c.step + 1, inflight := c.inflight + 1 })
  else s

/-- The sub-code a record's status stops the command with; `none` for a miss (R355). -/
def recordStop (status : Nat) : Option Nat :=
  if status = gNullv || status = gBadv || status = gNoedge then none
  else if status = gFull || status = gSeqend then some 7
  else if status = gUnbound then some 6
  else some 8

/-- A command stops at a record: at the earliest that fails (R355). -/
def stopAt (c : EngCmd) (record sub : Nat) : EngCmd :=
  if c.stop.isSome && decide (c.step ≤ record) then c else { c with stop := some sub, step := record }

/-- A record that fails before its linearisation: a miss counts and is performed, anything else stops the command at it. -/
def recordFails (s : State) (r : GReq) (status : Nat) : State :=
  let s := { unitDone s r.id with greqs := s.greqs.filter (fun y => decide (y.id ≠ r.id)) }
  setCmd s r.grp r.op (fun c =>
    match recordStop status with
    | none => { c with asked := false, step := if c.stop.isSome then c.step else c.step + 1, aux := c.aux + 1, count := c.count + 1 }
    | some sub => { stopAt c r.cur sub with asked := false })

/-- A record's in-list step is over; a CORRUPT one stops the command at the record. -/
def recordDone (s : State) (r : GReq) (status : Nat) : State :=
  let s := { unitDone s r.id with greqs := s.greqs.filter (fun y => decide (y.id ≠ r.id)) }
  setCmd s r.grp r.op (fun c =>
    let c := { c with inflight := c.inflight - 1 }
    if status = gOk then { c with count := c.count + 1 } else stopAt c r.cur 8)

/-- A request fails with a status: its lane or its record is answered. -/
def failReq (r : GReq) (status : Nat) (s : State) : State :=
  if isBulk r then recordFails s r status else replyGraph s r ⟨status, 0, 0, none⟩

/-- A request that is due fails at its unit. -/
def failDue (r : GReq) (status : Nat) (s : State) : State := failReq r status (passNum s r)

/-- A read, a cursor word's step or the last step of an add or removal ends. -/
def finishReq (r : GReq) (status v0 : Nat) (s : State) : State :=
  if isBulk r then recordDone s r status else replyGraph s r ⟨status, v0, 0, none⟩

/-! ## Reads (R187, R347) -/

/-- GRAPH_RANK_READ: the degree or the entry of a rank of request b. -/
def execGraphRankRead (s : State) : Out :=
  atStage s .sent fun r =>
    if !due s r then .next (notOffered s)
    else match r.kind with
      | .degree d =>
        graphStep s r ((placeOf s r r.gid r.vertex).bind (fun p s => readView s p)) (failDue r) fun x s =>
          replyGraph (passNum s r) r ⟨gOk, if d then x.vert.inDeg else x.vert.outDeg, 0, none⟩
      | .rank d =>
        graphStep s r
          ((placeOf s r r.gid r.vertex).bind fun p s =>
            (readView s p).bind fun x s =>
              match (liveSlots (x.list d))[r.rank]? with
              | some e => .ok e s
              | none => .status gBadrank s)
          (failDue r) fun e s => replyGraph (passNum s r) r ⟨gOk, e.other, e.attr, none⟩
      | _ => .next (notOffered s)

/-! ## Adds (R195) -/

def isAdd (r : GReq) : Bool :=
  match r.kind with
  | .add | .bulkAdd => true
  | _ => false

/-- What the source unit checks before it asks for a reservation. -/
def checkAdd (s : State) (r : GReq) : GRes Unit :=
  (graphEntry s (graphUnit r.srcUnit r.id r.grp) r.asid r.gid).bind fun e s =>
    if !e.bound then .status gUnbound s
    else if r.vertex = nullVertex || r.other = nullVertex then .status gNullv s
    else if e.vcount ≤ r.vertex || e.vcount ≤ r.other then .status gBadv s
    else
      (placeOf s r r.gid r.vertex).bind fun p s =>
        (readView s p).bind fun x s => if seqTop - 1 ≤ x.vert.outDeg then .status gFull s else .ok () s

/-- Step 1 at the destination: a slot of d's in-list, and the request with its place. -/
def reserveAt (s : State) (r : GReq) : GRes Appended :=
  (placeOf s r r.gid r.other).bind fun p s =>
    (readView s p).bind fun x s =>
      if seqTop - 1 ≤ x.vert.inDeg + (reservations s p).length then .status gFull s
      else
        (appendSlot s p x.ins ⟨0, 0, 0, 0, false⟩).bind fun a s =>
          (writeView s p (x.setList true a.list)).bind fun _ s =>
            (if a.took then countResv s p true else .ok () s).bind fun _ s => .ok a s

/-- RESERVE_IN_SLOT: request b, an add due at its source unit, is checked there and asks for its in-list slot; at the destination's
unit, in the order of R197, the slot is reserved, and the outcome goes back. -/
def execReserveInSlot (s : State) : Out :=
  atUnit s fun r =>
    let dest := graphOwner r.gid r.other
    match r.stage with
    | .sent =>
      if !isAdd r || !due s r then .next (notOffered s)
      else
        graphStep s r (checkAdd s r) (failDue r) fun _ s =>
          let (s, n) := numberIn s r.asid r.gid r.srcUnit r.other
          hopGraph (setReq s r.id (fun r => { r with inNum := n })) r.id r.srcUnit dest .asked
    | .asked =>
      if !inDue s r then .next (notOffered s)
      else
        let back (f : GReq → GReq) (s : State) : State := hopGraph (setReq (passIn s r) r.id f) r.id dest r.srcUnit .reserved
        graphStep s r (reserveAt s r) (fun c s => back (fun r => { r with status := c }) s) fun a s =>
          back (fun r => { r with rseg := a.seg, rslot := a.slot, took := a.took }) s
    | _ => .next (notOffered s)

/-- Step 2: the out-entry at the source; the rank it takes. -/
def insertOut (s : State) (r : GReq) : GRes Nat :=
  (placeOf s r r.gid r.vertex).bind fun p s =>
    (readView s p).bind fun x s =>
      (bumpSeq s p x true).bind fun x s =>
        (appendSlot s p x.outs ⟨r.other, r.attr, x.vert.seq, 0, true⟩).bind fun a s =>
          (writeView s p (x.setList false a.list)).bind fun _ s => .ok x.vert.outDeg s

/-- OUT_INSERT: the linearisation point of request b; a failure sends a cancel, and an add without a reservation fails here. -/
def execOutInsert (s : State) : Out :=
  atStage s .reserved fun r =>
    if r.status ≠ gOk then .next (failDue r r.status s)
    else
      let on (s : State) (stage : GStage) (f : GReq → GReq) : State :=
        let (s, n) := numberIn (passNum s r) r.asid r.gid r.srcUnit r.other
        hopGraph (setReq s r.id (fun r => { f r with inNum := n })) r.id r.srcUnit (graphOwner r.gid r.other) stage
      graphStep s r (insertOut s r) (fun c s => on s .cancel (fun r => { r with status := c })) fun rank s =>
        recordLinear (on s .outDone (fun r => { r with rank := rank })) r

/-- Step 3: the in-entry in the reserved slot. -/
def insertIn (s : State) (r : GReq) : GRes Unit :=
  (placeOf s r r.gid r.other).bind fun p s =>
    (readView s p).bind fun x s =>
      (bumpSeq s p x false).bind fun x s =>
        let r' := (findReq s r.id).getD r
        match (slotsOf x.ins).find? (fun y => decide (y.1 = r'.rseg) && decide (y.2.1 = r'.rslot)) with
        | none => .status gCorrupt s
        | some y =>
          if y.2.2.live then .status gCorrupt s
          else
            (writeView s p (x.setList true (setSlot x.ins r'.rseg r'.rslot ⟨r.vertex, r.attr, x.vert.seq, 0, true⟩))).bind fun _ s =>
              if r.took then countResv s p false else .ok () s

/-- IN_INSERT: the in-entry of request b. -/
def execInInsert (s : State) : Out :=
  atStage s .outDone fun r =>
    if !isAdd r || !inDue s r then .next (notOffered s)
    else
      graphStep s r (insertIn s r) (fun _ s => finishReq r gCorrupt 0 (passIn s r)) fun _ s =>
        finishReq r gOk r.rank (passIn s r)

/-- The reserved slot is released: on a pinned vertex it stays as a slot that nothing yields (log 34). -/
def cancelAt (s : State) (r : GReq) : GRes Unit :=
  (placeOf s r r.gid r.other).bind fun p s =>
    (readView s p).bind fun x s =>
      (if r.took then countResv s p false else .ok () s).bind fun _ s =>
        if x.vert.pins = 0 then
          let t := { s with greqs := s.greqs.filter (fun y => decide (y.id ≠ r.id)) }
          (compact t p x).bind fun x s => writeView s p x
        else
          writeView s p { x with vert := { x.vert with tomb := true }, ins := setSlot x.ins r.rseg r.rslot ⟨0, 0, 1, 1, false⟩ }

/-- A cancelled add completes with a status, or is gone with a withdrawn lane. -/
def endCancel (r : GReq) (status : Nat) (s : State) : State :=
  let s := passIn s r
  let s := if (findReq s r.id).isSome then s else { s with greqs := s.greqs ++ [r] }
  if r.status = gWithdrawn then { s with greqs := s.greqs.filter (fun y => decide (y.id ≠ r.id)) } else failReq r status s

/-- RESERVE_CANCEL: the reservation of request b is released, and its add completes with its status. -/
def execReserveCancel (s : State) : Out :=
  atStage s .cancel fun r =>
    if !inDue s r then .next (notOffered s)
    else graphStep s r (cancelAt s r) (fun _ s => endCancel r r.status s) fun _ s => endCancel r r.status s

/-! ## Removals (R196) -/

/-- The out-entry a request removes: by rank, or the lowest-ranked one to d with the attribute. -/
def outVictim (r : GReq) (x : GView) : Except Nat Nat :=
  match r.kind with
  | .del => if x.vert.outDeg ≤ r.rank then .error gBadrank else .ok r.rank
  | _ =>
    match findEntry x.outs r.other r.attr with
    | some k => .ok k
    | none => .error gNoedge

/-- Step 1 at the source unit. -/
def removeOut (s : State) (r : GReq) : GRes GSlot :=
  (placeOf s r r.gid r.vertex).bind fun p s =>
    (match r.kind with
     | .bulkDel =>
       if r.other = nullVertex then .status gNullv s else if p.e.vcount ≤ r.other then .status gBadv s else .ok () s
     | _ => .ok () s : GRes Unit).bind fun _ s =>
    (readView s p).bind fun x s =>
      match outVictim r x with
      | .error c => .status c s
      | .ok k => removeRank s p x false true k

/-- OUT_REMOVE: the linearisation point of request b's removal. -/
def execOutRemove (s : State) : Out :=
  match findReq s s.cur.b with
  | none => .next (notOffered s)
  | some r =>
    let fromRank := decide (r.stage = .inRank)
    let mine := match r.kind with
      | .del | .bulkDel => decide (r.stage = .sent) && due s r
      | .delIn => fromRank
      | _ => false
    if !mine || r.moving || r.waitPage.isSome then .next (notOffered s)
    else
      let pass (s : State) : State := if fromRank then s else passNum s r
      let code (c : Nat) : Nat := if fromRank && decide (c ≠ gNoedge) && decide (c ≠ gSeqend) then gCorrupt else c
      graphStep s r (removeOut s r) (fun c s => failReq r (code c) (pass s)) fun e s =>
        let d := match r.kind with | .del => e.other | _ => r.other
        let (s, n) := numberIn (pass s) r.asid r.gid r.srcUnit d
        let s := setReq s r.id (fun r => { r with inNum := n, other := d, attr := e.attr })
        recordLinear (hopGraph s r.id r.srcUnit (graphOwner r.gid d) .outDone) r

/-- IN_RANK_REMOVE: request b's in-entry is read at its in-rank, and the removal goes to its source's unit. -/
def execInRankRemove (s : State) : Out :=
  atStage s .sent fun r =>
    match r.kind with
    | .delIn =>
      if !due s r then .next (notOffered s)
      else
        graphStep s r
          ((placeOf s r r.gid r.vertex).bind fun p s =>
            (readView s p).bind fun x s =>
              match (liveSlots x.ins)[r.rank]? with
              | some e => .ok e s
              | none => .status gBadrank s)
          (failDue r) fun e s =>
            let s := setReq (passNum s r) r.id (fun r => { r with vertex := e.other, other := r.vertex, attr := e.attr })
            hopGraph s r.id r.srcUnit (graphOwner r.gid e.other) .inRank
    | _ => .next (notOffered s)

/-- Step 2 at the destination unit: the lowest-ranked live in-entry with the source and attribute. -/
def removeIn (s : State) (r : GReq) : GRes GSlot :=
  (placeOf s r r.gid r.other).bind fun p s =>
    (readView s p).bind fun x s =>
      match findEntry x.ins r.vertex r.attr with
      | none => .status gCorrupt s
      | some k => removeRank s p x true false k

/-- What a removal reports: GDEL the destination, GDEL.IN the source (R349). -/
def removedVertex (r : GReq) : Nat :=
  match r.kind with
  | .delIn => r.vertex
  | _ => r.other

/-- IN_REMOVE: the in-entry of request b's removal. -/
def execInRemove (s : State) : Out :=
  atStage s .outDone fun r =>
    if isAdd r || !inDue s r then .next (notOffered s)
    else
      graphStep s r (removeIn s r) (fun _ s => finishReq r gCorrupt 0 (passIn s r)) fun _ s =>
        finishReq r gOk (removedVertex r) (passIn s r)

/-! ## Cursors (R201–R204, R350–R353) -/

/-- A pin: PINS rises by one. -/
def pinAt (s : State) (p : Place) (snapshot : Bool) : GRes GVert :=
  (readVert s p).bind fun v s =>
    if v.pins = 65535 then .status gPinmax s
    else if snapshot && decide (v.seq = seqTop) then .status gSeqend s
    else (writeVert s p { v with pins := v.pins + 1 }).bind fun _ s => .ok v s

/-- The loaded lanes of a CREST: a poisoned sector is signalled and the word has no effect; else each lane goes on. -/
def takeCrest (s : State) (k : Nat) (pl : PendLoad) : State :=
  let s := dropLoad s k pl.op
  let bytes (p : LoadPiece) : List PByte := p.got.map (fun b => b.getD ⟨0, false⟩)
  if pl.pieces.any (fun p => ppoison (bytes p)) then
    let info := opInfo (s.grp k) pl.op
    let bad := maskOf ((pl.pieces.filter (fun p => ppoison (bytes p))).map (·.lane))
    let s := { s with greqs := s.greqs.filter (fun r => decide (r.op ≠ pl.op)), gops := s.gops.filter (fun x => decide (x.op ≠ pl.op)) }
    pumpCursors (signalPoison (endIfEmpty s k pl.op) k 4 { info with lanes := bad }) k
  else
    let s := pl.pieces.foldl (fun s p =>
      { s with greqs := s.greqs.map (fun r =>
          if r.op = pl.op && decide (r.lane = p.lane) then { r with stage := .unsent, kind := .restCur (cursorOfBytes (bytes p)) } else r) }) s
    pumpCursors s k

/-- CURSOR_OPEN: the owner performs the open or the restore of request b (R201, R350, R353); or, with group a, the CREST b
has its bytes. -/
def execCursorOpen (s : State) : Out :=
  match findReq s s.cur.b with
  | none =>
    match wholeLoad (s.grp s.cur.a) s.cur.b with
    | some pl =>
      match pl.dest with
      | .cursor _ => .next (takeCrest s s.cur.a pl)
      | _ => .next (notOffered s)
    | none => .next (notOffered s)
  | some r =>
    if r.stage ≠ .sent || !due s r || r.moving || r.waitPage.isSome then .next (notOffered s)
    else match r.kind with
      | .openCur live d =>
        graphStep s r ((placeOf s r r.gid r.vertex).bind (fun p s => pinAt s p (!live))) (failDue r) fun v s =>
          let c : Cursor := { closedCursor with gid := BitVec.ofNat 16 r.gid, isOpen := true, live := live, inList := d,
                                                seqs := if live then 0 else BitVec.ofNat 32 v.seq, vertex := BitVec.ofNat 32 r.vertex }
          replyGraph (passNum s r) r ⟨r.status, 0, 0, some c⟩
      | .restCur c =>
        let bad (x : Nat) : Nat := if x = gNullv then gBadv else x
        graphStep s r ((placeOf s r c.gid.toNat c.vertex.toNat).bind (fun p s => pinAt s p false))
          (fun x s => failDue r (bad x) s) fun _ s =>
            replyGraph (passNum s r) r ⟨r.status, 0, 0, some c⟩
      | _ => .next (notOffered s)

/-- Slots of a list after a cursor's position; `none` where the position is not in the list. -/
def afterPosition (l : List GSeg) (c : Cursor) : Option (List (Nat × Nat × GSlot)) :=
  let all := slotsOf l
  if c.segpos = 0 then some all
  else if !(l.any (fun t => decide (t.idx + 1 = c.segpos.toNat))) then none
  else
    match all.findIdx? (fun y => decide (y.1 + 1 = c.segpos.toNat) && decide (y.2.1 = c.slot.toNat)) with
    | some i => some (all.drop (i + 1))
    | none => none

/-- A snapshot yields entries added by S and not removed by it; a live cursor yields live entries (R202, R203). -/
def yields (c : Cursor) (x : GSlot) : Bool :=
  if c.live then x.live
  else decide (0 < x.add) && decide (x.add ≤ c.seqs.toNat) && (decide (x.rem = 0) || decide (c.seqs.toNat < x.rem))

/-- CURSOR_NEXT: the owner yields the next entry of request b's cursor. -/
def execCursorNext (s : State) : Out :=
  atStage s .sent fun r =>
    match r.kind with
    | .nextCur =>
      if !due s r then .next (notOffered s)
      else
        let c := (s.grp r.grp).cursor r.cur r.lane
        if c.atEnd then .next (replyGraph (passNum s r) r ⟨gOk, nullVertex, 0, none⟩)
        else
          graphStep s r
            ((placeOf s r c.gid.toNat c.vertex.toNat).bind fun p s =>
              (readView s p).bind fun x s =>
                match afterPosition (x.list c.inList) c with
                | none => .status gCorrupt s
                | some l => .ok (l.find? (fun y => yields c y.2.2)) s)
            (fun _ s => failDue r gCorrupt s) fun e s =>
              let s := passNum s r
              match e with
              | none => replyGraph s r ⟨gOk, nullVertex, 0, some { c with atEnd := true }⟩
              | some y =>
                let c' := { c with segpos := BitVec.ofNat 32 (y.1 + 1), slot := BitVec.ofNat 4 y.2.1 }
                replyGraph s r ⟨gOk, y.2.2.other, y.2.2.attr, some c'⟩
    | _ => .next (notOffered s)

/-- A pin of a vertex is taken off; a vertex that no pin can be taken off is inconsistent. -/
def unpinAt (s : State) (r : GReq) (c : Cursor) : GRes Unit :=
  (placeOf s r c.gid.toNat c.vertex.toNat).bind fun p s =>
    (readVert s p).bind fun v s => if v.pins = 0 then .status gCorrupt s else unpin s p

/-- The lane is cleared whatever its close reports (R350, R352). -/
def closedWith (r : GReq) (status : Nat) (s : State) : State := replyGraph (passNum s r) r ⟨status, 0, 0, some closedCursor⟩

/-- Request r is a close at its unit: a CCLOSE, or that of the old cursor of an open or restore. -/
def isClose (r : GReq) : Bool := decide (r.stage = .closing) || (decide (r.kind = .closeCur) && decide (r.stage = .sent))

/-- CURSOR_CLOSE: the owner closes the cursor of request b (R350, R352). -/
def execCursorClose (s : State) : Out :=
  atUnit s fun r =>
    if !isClose r || !due s r then .next (notOffered s)
    else graphStep s r (unpinAt s r ((s.grp r.grp).cursor r.cur r.lane)) (fun _ s => closedWith r gCorrupt s) fun _ s => closedWith r gOk s

/-! ## Write-back (R194) -/

/-- Bytes of graph storage that a unit holds of one line, as addresses: of the first whose page no fault keeps away. -/
def heldGraph (s : State) (asid : Nat) : Option (Nat × List (Nat × PByte)) :=
  match (s.ctx asid).gstore.find? (fun p => !pagePending s asid (p.1 % 2 ^ 56)) with
  | none => none
  | some p =>
    some (p.1 / 2 ^ 56, ((s.ctx asid).gstore.filter (fun q => decide (q.1 / 128 = p.1 / 128))).map
      (fun q => (q.1 % 2 ^ 56, ⟨q.2, (s.ctx asid).gbad.contains (q.1 / 32)⟩)))

/-- Bytes that have been written back are held no more, unless they have changed since. -/
def dropHeld (s : State) (asid unit : Nat) (bs : List (Nat × PByte)) : State :=
  s.modCtx asid (fun c =>
    let rest := c.gstore.filter (fun p => !bs.any (fun b => decide (p = (storeKey unit b.1, b.2.val))))
    { c with gstore := rest, gbad := c.gbad.filter (fun k => rest.any (fun p => decide (p.1 / 32 = k))) })

/-- GRAPH_WRITEBACK: a unit writes back bytes of context a's graph storage that it holds, a line of them at a time. -/
def execGraphWriteback (s : State) : Out :=
  let a := s.cur.a
  match heldGraph s a with
  | none => .next (notOffered s)
  | some (unit, bs) =>
    let u := { graphUnit unit 0 0 with part := a * 2 ^ 45 + lineOf ((bs.head?.map (·.1)).getD 0) + 1 }
    match unitPokeBytes s u a bs with
    | .ok _ s => .next (dropHeld (unitPartDone s 0 u.part) a unit bs)
    | .away s => .next (notOffered s)
    | .fault kind va s =>
      if kind = walkError then .next (walkFatal s a va)
      else match reportPage s a va kind nobody with
        | some s => .next (notOffered s)
        | none => .next (notOffered s)

end Sys2Proof.Machine
end

