-- ==== Sys2Proof/Machine/EngineEnds.lean ====
section
/-!
DEFINITION. How engine commands start and end (R165, R166, R314, R318, R335, R337, R340, R341) and the records of GBULK
(R354, R355).
-/
namespace Sys2Proof.Machine

/-! ## The bulk block (R354) -/

structure BulkBlock where
  list : Nat
  count : Nat
  gid : Nat
  remove : Bool
  cursor : Nat

/-- The block's fields, when each is in range. -/
def parseBulk (bs : List PByte) : Option BulkBlock :=
  let b : BulkBlock := ⟨blockField bs 0 8, blockField bs 8 4, blockField bs 0x0C 2, decide (blockField bs 0x0E 1 = 1), blockField bs 0x10 4⟩
  if b.list % 4 ≠ 0 || b.count = 0 || decide (2 ^ 24 < b.count) || decide (1 < blockField bs 0x0E 1) || blockField bs 0x0F 1 ≠ 0
      || blockField bs 0x20 32 ≠ 0 || decide (b.count ≤ b.cursor) || !inLinear b.list (12 * b.count) then none
  else some b

/-- Words of a block raised by a count each: at offsets 0x14 and 0x18 of a bulk block. -/
def writeBulk (s : State) (k : Nat) (c : EngCmd) (status : Option Nat) : Access Unit :=
  let asid := s.asidOf k
  let a := c.opv1.toNat + 0x10
  let u := engineOf s k c.op
  match unitPeek s u asid a 16 false with
  | .ok bs s =>
    let old (o : Nat) : Nat := pvalue ((bs.drop o).take 4)
    unitPoke s u asid a (cleanBytes 4 c.step ++ cleanBytes 4 ((old 4 + c.count) % 2 ^ 32) ++ cleanBytes 4 ((old 8 + c.aux) % 2 ^ 32)
      ++ (match status with | some x => cleanBytes 4 x | none => []))
  | .fault kd va s => .fault kd va s
  | .away s => .away s

/-! ## Starting -/

/-- A remote store of the group to its own team's scratch that is not performed yet and came before an operation (R165). -/
def scratchStoreDue (s : State) (k op : Nat) : Bool :=
  s.remotes.any (fun r => decide (r.grp = k) && decide (r.op < op)
    && (match r.body with | .store _ | .push _ _ _ | .rel _ _ => true | _ => false))

/-- The command has started, at a step, with AUX. -/
def started (s : State) (k op step aux : Nat) (atEnd : Bool) : State :=
  setCmd s k op (fun c => { c with started := true, step := step, aux := aux, finished := atEnd })

/-- The start of a command with a block: its checks (R335, R337, R339, R355). -/
def startBlock (s : State) (k : Nat) (c : EngCmd) (op : LaneOp) : Out :=
  engAccess k c.op s (readBlock s k c) fun blk s =>
    if ppoison blk then poisonCmd s k c (statusOff op) 4
    else match op with
      | .encTc =>
        (match parseEnc blk with
         | none => stopCmd s k c 0x24 4
         | some _ => .next (started s k c.op 0 1 false))
      | .embG =>
        (match parseEmb s k false blk with
         | none => stopCmd s k c 0x3C 2
         | some b => .next (started s k c.op b.cursor 0 (decide (b.nidx ≤ b.cursor))))
      | .embR =>
        (match parseEmb s k true blk with
         | none => stopCmd s k c 0x3C 2
         | some b =>
           engAccess k c.op s (unitPeek s (engineOf s k c.op) (s.asidOf k) (b.offs + 4 * b.cursor) (4 * (b.nbags - b.cursor + 1)) false) fun ob s =>
             if ppoison ob then poisonCmd s k c 0x3C 4
             else if badBags b.nidx (words ob (b.nbags - b.cursor + 1)) then stopCmd s k c 0x3C 3
             else .next (started s k c.op b.cursor 0 (decide (b.nbags ≤ b.cursor))))
      | _ =>
        match parseBulk blk with
        | none => stopCmd s k c 0x1C 6
        | some b => .next (started s k c.op b.cursor 0 false)

/-- ENGINE_CMD_START: the command at the head of group a's queue performs its acquire, then starts. -/
def execEngineCmdStart (s : State) : Out :=
  let k := s.cur.a
  match headCmd s k with
  | none => .next (notOffered s)
  | some c =>
    unitStep c.op <| match c.part with
    | none => .next (notOffered s)
    | some (op, f) =>
      let block := match op with | .encTc | .embG | .embR | .gbulk => true | _ => false
      if c.started || movesOn (s.grp k) c.tiles || scratchStoreDue s k c.op then .next (notOffered s)
      else if block && immAcq f && !c.acqdone then
        engAccess k c.op s (unitAcquire s (engineOf s k c.op) c.opv2.toNat) fun r _ =>
          match r with
          | .done s => .next (setCmd s k c.op (fun c => { c with acqdone := true }))
          | .poisoned s => poisonCmd s k c (statusOff op) 2
      else if block then startBlock s k c op
      else .next (started s k c.op c.step c.aux false)

/-! ## GBULK -/

/-- GBULK_RECORD: group a's GBULK sends its next record (R355). -/
def execGbulkRecord (s : State) : Out :=
  let k := s.cur.a
  match headCmd s k with
  | none => .next (notOffered s)
  | some c =>
    unitStep c.op <| match c.part with
    | some (.gbulk, _) =>
      if !c.started || c.finished || c.asked || c.stop.isSome then .next (notOffered s)
      else
        let asid := s.asidOf k
        engAccess k c.op s (readBlock s k c) fun blk s =>
          if ppoison blk then .next (setCmd s k c.op (fun c => { c with stop := some 0x104 }))
          else match parseBulk blk with
            | none => .next (setCmd s k c.op (fun c => { c with stop := some 6 }))
            | some b =>
              if b.count ≤ c.step then .next (setCmd s k c.op (fun c => { c with finished := true }))
              else
                engAccess k c.op s (unitPeek s (engineOf s k c.op) asid (b.list + 12 * c.step) 12 false) fun rb s =>
                  if ppoison rb then .next (setCmd s k c.op (fun c => { c with stop := some 0x104 }))
                  else
                    let u := blockField rb 0 4
                    let id := s.nextId
                    let s := addReq s { blankReq with core := s.coreOf k, grp := k, op := c.op, asid := asid, gid := b.gid, vertex := u,
                                                      other := blockField rb 4 4, attr := blockField rb 8 4, cur := c.step,
                                                      kind := if b.remove then .bulkDel else .bulkAdd }
                    let s := sendGraph s id (graphOwner b.gid u) .sent
                    .next (setCmd s k c.op (fun c => { c with asked := true }))
    | _ => .next (notOffered s)

/-! ## Ending -/

/-- The fields a finished command writes (R336, R340, R355); what the issuing core holds of EMB.G's destination is dropped
(R338). -/
def writeEnd (s : State) (k : Nat) (c : EngCmd) (op : LaneOp) : Access Unit :=
  match op with
  | .encTc =>
    (match readBlock s k c with
     | .ok blk s =>
       (match parseEnc blk with
        | some b => finishEnc s k c b
        | none => .ok () s)
     | .fault kd va s => .fault kd va s
     | .away s => .away s)
  | .embG =>
    (match readBlock s k c with
     | .ok blk s =>
       let s := match parseEmb s k false blk with
         | some b => if b.dst < windowBase then dropDest s k (linesOf b.dst (b.out false)) else s
         | none => s
       writeEmb s k c c.step (some 0)
     | .fault kd va s => .fault kd va s
     | .away s => .away s)
  | .embR => writeEmb s k c c.step (some 0)
  | .gbulk => writeBulk s k c (some 0)
  | _ => .ok () s

/-- Whether a group's commands may end: its team is on a core. -/
def teamHere (s : State) (k : Nat) : Bool :=
  match (s.teamOf k).state with
  | .running | .halting | .handler | .saving => true
  | _ => false

/-- A GBULK that has met a stop, once its records in flight are done (R355). -/
def stopBulk (s : State) (k : Nat) (c : EngCmd) (sub : Nat) : Out :=
  if c.asked || c.inflight ≠ 0 then .next (notOffered s)
  else
    let poison := decide (0x100 ≤ sub)
    engAccess k c.op s (writeBulk s k c (some (sub % 0x100))) fun _ s => .next (dropCmd s k c poison (sub % 0x100))

/-- ENGINE_CMD_END: the command at the head of group a's queue, all its steps done, writes its block's fields, releases,
and EN falls (R166, R314, R341). -/
def execEngineCmdEnd (s : State) : Out :=
  let k := s.cur.a
  match (s.grp k).engq with
  | [] => .next (notOffered s)
  | c :: _ =>
    unitStep c.op <| match c.part with
    | none => .next (notOffered s)
    | some (op, f) =>
      if c.waitPage.isSome || !teamHere s k then .next (notOffered s)
      else match c.stop with
        | some sub => stopBulk s k c sub
        | none =>
          let block := match op with | .encTc | .embG | .embR | .gbulk => true | _ => false
          if !c.finished || c.inflight ≠ 0 then .next (notOffered s)
          else if block && !c.wrote then
            engAccess k c.op s (writeEnd s k c op) fun _ s =>
              .next (setCmd s k c.op (fun c => { c with wrote := true, aux := 0, count := 0 }))
          else if block && immRel f then
            let system := decide (immScope f = 3)
            let release (s : State) : Out :=
              engAccess k c.op s (unitRelease s (engineOf s k c.op) c.opv2.toNat system) fun r _ =>
                match r with
                | .done s => .next (s.modGrp k (fun g => g.endCmd c.op))
                | .poisoned s => poisonCmd s k c (statusOff op) 2
            if system then afterFlush s (s.asidOf k) (fun _ => true) (release s) else release s
          else .next (s.modGrp k (fun g => g.endCmd c.op))

end Sys2Proof.Machine
end

