-- ==== Sys2Proof/Machine/Exchange.lean ====
section
/-!
DEFINITION. The shuffle between clusters (R308, R309) and the message queues in scratch (R310–R313), with the steps that
carry them.
-/
namespace Sys2Proof.Machine

/-- Where a team holds its scratch and its groups are on a core. -/
def residentTeam (t : Team) : Bool :=
  decide (t.state = .placed) || decide (t.state = .running) || decide (t.state = .halting) || decide (t.state = .handler)

/-! ## XSHFL -/

def xTeam (w : DWord) : Nat := w.toNat % 2 ^ 24
def xGrp (w : DWord) : Nat := w.toNat / 2 ^ 24 % 16
def xTag (w : DWord) : Nat := w.toNat / 2 ^ 28 % 256

/-- R308: the partner lies in the grid, in another cluster, and its GRPID exists. -/
def partnerOk (s : State) (k : Nat) (w : DWord) : Bool :=
  let kn := s.kernelOf k
  decide (w.toNat < 2 ^ 36) && decide (xTeam w < kn.teams) && decide (xTeam w / kn.csize ≠ (s.teamOf k).clusid)
    && decide (xGrp w < kn.groups)

/-- (TEAMID, GRPID) of a group. -/
def teamGrp (s : State) (k : Nat) : Nat × Nat := ((s.teamOf k).teamid, (s.grp k).grpid)

/-- Offers made to the group that its own outstanding XSHFL x may match, the first issued first. -/
def matching (s : State) (x : Offer) : Option Offer :=
  s.offers.find? (fun y => decide (y.kernel = x.kernel) && decide (y.partner = teamGrp s x.grp)
    && decide (teamGrp s y.grp = x.partner) && decide (y.tag = x.tag) && decide (y.place ≠ 3))

def setOffer (s : State) (op : Nat) (f : Offer → Offer) : State :=
  { s with offers := (s.offers.map (fun y => if y.op = op then f y else y)).filter (fun y =>
      !(decide (y.place = 3) && y.completed)) }

/-- A side whose matching offer is held at its core completes: vd is written where both sides act, and the word leaves
the lane queue (R308, R309). -/
def completeShuffle (s : State) (x : Offer) : State :=
  match matching s x with
  | some y =>
    if y.place ≠ 1 then s
    else
      let both := lanesOf (x.act &&& y.act)
      let s := s.modGrp x.grp (fun g =>
        let g := both.foldl (fun g l => g.setVelt x.vd l (y.vals[l]?.getD zeroElt)) g
        { g.finish x.op with laneStall := none })
      let s := takeLaneWord s x.grp
      setOffer (setOffer s y.op (fun y => { y with place := 3 })) x.op (fun x => { x with completed := true })
  | none => s

/-- The group a partner word names, and its team. -/
def partnerGroup (s : State) (x : Offer) : Option (Nat × Nat) :=
  (s.teams.find? (fun p => decide (p.2.kernel = x.kernel) && decide (p.2.teamid = x.partner.1)
      && decide (p.2.state ≠ .absent) && decide (p.2.state ≠ .retired))).map (fun p => (p.1, groupKey p.1 x.partner.2))

/-- A core's packet to another. -/
def corePacket (s : State) (c : Nat) (b : MsgBody) : State := packet s (1000 + c) (c / 2 % 96) 0 0 b

/-- An offer goes to the core its partner is on, or was on last. -/
def sendOffer (s : State) (x : Offer) : State :=
  let c := s.coreOf x.grp
  corePacket s c (.offer x.op (match partnerGroup s x with | some (t, _) => (s.team t).core | none => c))

/-- XSHFL issues even when no lane acts; its word stays at the head of the lane queue until it is answered. -/
def execXshfl (f : LaneFields) (s : State) : Out :=
  issueLane .xshfl f s fun act s =>
    let k := s.cur.grp
    let g := s.grp k
    let w := laneScalar s f.vb
    if laneHeld g s.cur.blk true then .next (notOffered s)
    else if 63 ≤ g.count .ld then .next (laneCounter s .ld)
    else if w.poison then poisonLane s 4 act
    else if !partnerOk s k w.val then memTrapLane s ⟨memXpartner, act, 0⟩
    else
      let (s, op) := startOp (countIssue s) .ld true
      let x : Offer := { grp := k, op := op, vd := f.vd.toNat, act := act, vals := allLanes.map (laneElt s f.va),
                         kernel := (s.teamOf k).kernel, partner := (xTeam w.val, xGrp w.val), tag := xTag w.val, place := 0,
                         completed := false }
      let s := sendOffer (s.modGrp k (fun g => { g with laneStall := some op })) x
      .next (completeShuffle { s with offers := s.offers ++ [x] } x)

/-- Offers held at a core. -/
def heldOffers (s : State) (c : Nat) : Nat :=
  (s.offers.filter (fun y => decide (y.place = 1)
    && (match partnerGroup s y with | some (t, _) => decide ((s.team t).core = c) | none => false))).length

/-- A group that is being saved still awaits an offer: its own has been taken by that partner (R309). -/
def owedOffer (s : State) (k : Nat) (y : Offer) : Bool :=
  s.offers.any (fun x => decide (x.grp = k) && !x.completed && decide (x.place = 3) && decide (x.kernel = y.kernel)
    && decide (x.partner = teamGrp s y.grp) && decide (x.tag = y.tag))

/-- XSHFL_OFFER_ARRIVAL: the offer b reaches the core it was sent to: held, or refused when the partner is not resident there or 64
are held; a partner that has issued the match completes. -/
def execXshflOfferArrival (s : State) : Out :=
  match s.fabric.find? (fun m => (match m.body with | .offer op _ => decide (op = s.cur.b) | _ => false)) with
  | none => .next (notOffered s)
  | some m =>
    match m.body, s.offers.find? (fun y => decide (y.op = s.cur.b) && decide (y.place = 0)) with
    | .offer _ c, some y =>
      if !ejects s m then .next (notOffered s)
      else
        let s := takeMsg s m.id
        let refuse : Out := .next (corePacket (setOffer s y.op (fun y => { y with place := 4 })) c (.refusal y.op (s.coreOf y.grp)))
        match partnerGroup s y with
        | none => refuse
        | some (t, k) =>
          let x := s.team t
          if !(residentTeam x || decide (x.state = .saving) && owedOffer s k y) || decide (x.core ≠ c) || decide (64 ≤ heldOffers s c) then refuse
          else
            let s := setOffer s y.op (fun y => { y with place := 1 })
            match s.offers.find? (fun x => decide (x.grp = k) && !x.completed) with
            | some x => .next (completeShuffle s x)
            | none => .next s
    | _, _ => if ejects s m then .next (takeMsg s m.id) else .next (notOffered s)

/-- XSHFL_OFFER_RETRY: the refused offer b is sent again. -/
def execXshflOfferRetry (s : State) : Out :=
  match s.offers.find? (fun y => decide (y.op = s.cur.b) && decide (y.place = 2)) with
  | none => .next (notOffered s)
  | some y => .next (sendOffer (setOffer s y.op (fun y => { y with place := 0 })) y)

/-! ## Queue words (R311, R312) -/

/-- The last target has answered: registers are written and the counter falls; a refused word waits for its return. -/
def settleQueue (s : State) (q : QueueOp) : State :=
  let k := q.grp
  if q.left ≠ 0 then { s with queueOps := s.queueOps.map (fun x => if x.op = q.op then q else x) }
  else if q.refused then { s with queueOps := s.queueOps.map (fun x => if x.op = q.op then q else x) }
  else
    let s := { s with queueOps := s.queueOps.filter (fun x => decide (x.op ≠ q.op)) }
    let s := s.modGrp k (fun g =>
      let g := q.got.foldl (fun g m => g.setVelt q.vd m.1 m.2) g
      let g := if q.nb then g.setPred q.pd ((g.pred q.pd).merge q.act q.placed 0) else g
      g.finish q.op)
    if q.nb then s else takeLaneWord (s.modGrp k (fun g => { g with laneStall := none })) k

/-- A queue word's checks and issue: its request goes to each target's array, its counter rises; a blocking word stays at
the head of the lane queue. -/
def queueWord (op : LaneOp) (f : LaneFields) (cls : CtrClass) (s : State)
    (mk : Nat → Lanes → QueueOp) (body : Nat → Lanes → RemBody) : Out :=
  issueMemLane op f cls true s fun act s =>
    let k := s.cur.grp
    let nb := f.xmod.getLsbD 0
    let mc := f.xmod.getLsbD 1
    let a := laneScalar s f.vb
    let m := laneScalar s f.vc
    let csize := (s.kernelOf k).csize
    if a.poison then poisonLane s 1 act
    else if mc && m.poison then poisonLane s 4 act
    else
      let addr := a.val.toNat
      let bits := (List.range 12).filter (fun i => m.val.getLsbD i)
      let places := if mc then
          if (addr - windowBase) / 2 ^ 20 ≠ 0 || decide (addr < windowBase) then [(0, addr, .error memBadaddr)]
          else bits.map (fun i => (i, addr, if csize ≤ i then Except.error memRscratch
                                            else locate s (s.grp k).team acceptsRemote (addr + i * 2 ^ 20) 16))
        else [(0, addr, locate s (s.grp k).team acceptsRemote addr 16)]
      match allLanesOk places with
      | .error e => memTrapLane s { e with lanes := act }
      | .ok ps =>
        if addr % 16 ≠ 0 then memTrapLane s ⟨memAlign, act, addr⟩
        else if mshrFree s (s.coreOf k) < ps.length then .next (reject s ps.length 0)
        else
          let (s, id) := startOp (if nb then issueLaneWord s else countIssue s) cls true
          let q := { mk id act with left := ps.length }
          let s := if nb then s else s.modGrp k (fun g => { g with laneStall := some id })
          let s := { s with queueOps := s.queueOps ++ [q] }
          let s := ps.foldl (fun s p =>
            match p.2 with
            | .win m o => sendRemote s k id m (o / 128) (body o act)
            | _ => s) s
          .next (if ps.isEmpty then settleQueue s q else s)

def execQpush (f : LaneFields) (s : State) : Out :=
  let nb := f.xmod.getLsbD 0
  let vals (act : Lanes) : List (Nat × LElt) := (lanesOf act).map (fun l => (l, (s.grp s.cur.grp).velt f.va.toNat l))
  queueWord .qpush f .st s
    (fun id act => { op := id, grp := s.cur.grp, push := true, nb := nb, pd := f.vd.toNat, vd := 0, act := act, placed := act,
                     got := [], left := 0, refused := false })
    (fun o act => .push o (vals act) nb)

def execQpop (f : LaneFields) (s : State) : Out :=
  let nb := f.xmod.getLsbD 0
  queueWord .qpop f .ld s
    (fun id act => { op := id, grp := s.cur.grp, push := false, nb := nb, pd := f.vc.toNat, vd := f.vd.toNat, act := act,
                     placed := 0, got := [], left := 0, refused := false })
    (fun o act => .pop o (lanesOf act) nb)

/-! ## At the holding array (R310) -/

/-- A queue's descriptor: head, tail, number of slots, messages held. -/
structure QDesc where
  head : Nat
  tail : Nat
  slots : Nat
  held : Nat
deriving DecidableEq, Repr

/-- The descriptor at offset d of a team's scratch, checked. -/
def readQueue (s : State) (t d : Nat) : Option QDesc :=
  let bs := scratchRead s t d 16
  let n (o w : Nat) : Nat := pvalue ((bs.drop o).take w)
  let head := n 0 4
  let tail := n 4 4
  let slots := 2 ^ (n 8 1)
  let held := (tail + 2 ^ 32 - head) % 2 ^ 32
  if decide (n 8 1 ≤ 14) && decide (n 9 7 = 0) && decide (held ≤ slots) && decide (d + 16 + 4 * slots ≤ scratchBytes s t) then
    some ⟨head, tail, slots, held⟩
  else none

/-- Messages placed at the tail, from the first; HEAD and TAIL are written back. -/
def placeMessages (s : State) (t d : Nat) (q : QDesc) (ms : List (Nat × LElt)) : State :=
  let bytes := ((List.range ms.length).zip ms).flatMap (fun p =>
    bytesAt (d + 16 + 4 * ((q.tail + p.1) % q.slots)) ((leBytes 4 p.2.2.val.toNat).map (fun b => (⟨b, p.2.2.poison⟩ : PByte))))
  let s := if ms.isEmpty then s else scratchWrite s t bytes
  if ms.isEmpty then s else scratchWrite s t (bytesAt (d + 4) (cleanBytes 4 ((q.tail + ms.length) % 2 ^ 32)))

/-- The i-th message from the head. -/
def messageAt (s : State) (t d : Nat) (q : QDesc) (i : Nat) : LElt :=
  let bs := scratchRead s t (d + 16 + 4 * ((q.head + i) % q.slots)) 4
  ⟨BitVec.ofNat 32 (pvalue bs), ppoison bs⟩

def takeMessages (s : State) (t d : Nat) (q : QDesc) (n : Nat) : State :=
  if n = 0 then s else scratchWrite s t (bytesAt d (cleanBytes 4 ((q.head + n) % 2 ^ 32)))

/-- What one target answers: a trap's sub-code, a refusal, or the lanes served with their messages. -/
inductive QueueAnswer where
  | trap (sub : Nat)
  | refused
  | served (lanes : List Nat) (got : List (Nat × LElt)) (s : State)

def pushAt (s : State) (t d : Nat) (ms : List (Nat × LElt)) (nb : Bool) : QueueAnswer :=
  match readQueue s t d with
  | none => .trap memQdesc
  | some q =>
    if nb then
      let ok := ms.take (q.slots - q.held)
      .served (ok.map (·.1)) [] (placeMessages s t d q ok)
    else if q.slots < ms.length then .trap memQsize
    else if q.slots - q.held < ms.length then .refused
    else .served (ms.map (·.1)) [] (placeMessages s t d q ms)

def popAt (s : State) (t d : Nat) (lanes : List Nat) (nb : Bool) : QueueAnswer :=
  match readQueue s t d with
  | none => .trap memQdesc
  | some q =>
    let give (n : Nat) : QueueAnswer :=
      let ls := lanes.take n
      .served ls (((List.range n).zip ls).map (fun p => (p.2, messageAt s t d q p.1))) (takeMessages s t d q (min n ls.length))
    if nb then give (min q.held lanes.length)
    else if q.slots < lanes.length then .trap memQsize
    else if q.held < lanes.length then .refused
    else give lanes.length

/-! ## Answers -/

/-- A target's answer to a queue word. -/
def answerQueue (s : State) (op : Nat) (a : ArrayAns) : State :=
  match s.queueOps.find? (fun q => decide (q.op = op)) with
  | none => s
  | some q =>
    match a with
    | .lanes ls got =>
      settleQueue s { q with placed := if q.push then q.placed &&& maskOf ls else maskOf ls, got := q.got ++ got, left := q.left - 1 }
    | .refused => settleQueue s { q with left := q.left - 1, refused := true }
    | .trap sub =>
      let k := q.grp
      let x := { opInfo (s.grp k) op with lanes := q.act }
      let s := { s with queueOps := s.queueOps.filter (fun x => decide (x.op ≠ op)) }
      let s := s.modGrp k (fun g => { g.finish op with laneStall := none })
      takeTrap (if q.nb then s else takeLaneWord s k) k .mem sub x
    | _ => s

/-- QUEUE_REFUSAL_RETURN: the refused word b of group a is offered again; its counter falls (R313). -/
def execQueueRefusalReturn (s : State) : Out :=
  let k := s.cur.a
  match s.queueOps.find? (fun q => decide (q.op = s.cur.b) && q.refused && decide (q.left = 0)) with
  | none => .next (notOffered s)
  | some q =>
    let s := { s with queueOps := s.queueOps.filter (fun x => decide (x.op ≠ q.op)) }
    .next (s.modGrp k (fun g => { g.finish q.op with laneStall := none }))

end Sys2Proof.Machine
end

