-- ==== Sys2Proof/Machine/Slices.lean ====
section
/-!
DEFINITION. The steps of the abstract machine (R150–R152): results written, drains, fetches, fills, write-backs, drops,
messages delivered and performed; the holding arrays (R294); translation and HBM (R358–R362, R369).
-/
namespace Sys2Proof.Machine

/-! ## Results and L1 -/

/-- SCALAR_RESULT_WRITE: the latency of the result in register b of group a has passed (R232). -/
def execScalarResultWrite (s : State) : Out :=
  let k := s.cur.a
  let r := s.cur.b
  let hit (x : SBusy) : Bool := decide (x.op = 0) && decide (x.reg.toNat = r)
  if (s.grp k).sbusy.any hit then .next (s.modGrp k (fun g => { g with sbusy := g.sbusy.filter (fun x => !hit x) }))
  else .next (notOffered s)

/-- LANE_RESULT_WRITE: the results b of a lane word of group a have been written (R257). -/
def execLaneResultWrite (s : State) : Out :=
  let k := s.cur.a
  if (s.grp k).lbusy.any (fun x => decide (x.id = s.cur.b)) then
    .next (s.modGrp k (fun g => { g with lbusy := g.lbusy.filter (fun x => decide (x.id ≠ s.cur.b)) }))
  else .next (notOffered s)

/-- DRAIN: the oldest entry of group a's FIFO is written into L1. -/
def execDrain (s : State) : Out :=
  let k := s.cur.a
  match (s.grp k).fifo with
  | [] => .next (notOffered s)
  | e :: rest =>
    if !((linesTouched e.bytes).all (fun l => l1Room s (s.coreOf k) e.asid l e.spall)) then .next (notOffered s) else
    let s := s.modGrp k (fun g => { g with fifo := rest })
    let s := (linesTouched e.bytes).foldl (fun s l => l1Store s (s.coreOf k) e.asid l (bytesIn l e.bytes) e.spall) s
    .next (endIfEmpty s k e.op)

/-- FETCH: the first request of group a that can be sent enters the fabric. -/
def execFetch (s : State) : Out :=
  let k := s.cur.a
  match (s.grp k).fetches.find? (fun f => f.sent.isNone && f.faulted.isNone && (readyToSend s k f).isSome) with
  | some f => .next (sendFetch s k f)
  | none => .next (notOffered s)

/-- WRITEBACK: the dirty bytes of line c of context b leave core a's L1. -/
def execWriteback (s : State) : Out :=
  match l1Line s s.cur.a s.cur.b s.cur.c with
  | some x => if x.dirty = 0 || x.wb then .next (notOffered s) else .next (sendWriteBack s s.cur.a s.cur.b s.cur.c)
  | none => .next (notOffered s)

/-- DROP: line c of context b, without a dirty byte, leaves core a's L1. -/
def execDrop (s : State) : Out :=
  match l1Line s s.cur.a s.cur.b s.cur.c with
  | some x => if x.dirty ≠ 0 then .next (notOffered s) else .next (dropL1 s s.cur.a s.cur.b s.cur.c)
  | none => .next (notOffered s)

/-! ## Delivery -/

/-- The request of a group that a reply answers. -/
def fetchOf (s : State) (m : Msg) : Option Fetch := (s.grp m.grp).fetches.find? (fun f => decide (f.sent = some m.id))

def dropFetch (s : State) (m : Msg) : State :=
  s.modGrp m.grp (fun g => { g with fetches := g.fetches.filter (fun f => decide (f.sent ≠ some m.id)) })

/-- The bytes of a sector at a, with those the core has written back since in place of older ones (R153). -/
def withNewer (a : Nat) (bs : List PByte) (newer : List (Nat × PByte)) : List PByte :=
  ((List.range 32).zip bs).map (fun p => ((newer.reverse.find? (fun x => decide (x.1 = a + p.1))).map (·.2)).getD p.2)

/-- Bytes of a sector as a waiting load takes them: dirty bytes from L1, every other from the reply (R151 Fill). -/
def fillBytes (s : State) (c asid line sector : Nat) (bs : List PByte) : List (Nat × PByte) :=
  ((List.range 32).zip bs).map (fun p =>
    let a := line * 128 + 32 * sector + p.1
    if l1Dirty s c asid a then (a, (l1Byte s c asid a).getD p.2) else (a, p.2))

/-- FILL: the sector reply b reaches its core. -/
def execFill (s : State) : Out :=
  match findMsg s.fabric s.cur.b with
  | none => .next (notOffered s)
  | some m =>
    match m.body with
    | .rep (.sector sector bs) =>
      let spall := match fetchOf s m with
        | some f => (match f.body with | .fetch _ sp => sp | _ => false)
        | none => false
      if !ejects s m || !l1Room s m.requester m.asid m.line spall then .next (notOffered s)
      else
        let k := m.grp
        let c := m.requester
        let s := takeMsg s m.id
        match fetchOf s m with
        | none => .next s
        | some f =>
          let got := fillBytes s c m.asid m.line sector (withNewer (m.line * 128 + 32 * sector) bs f.newer)
          let s := if f.stale then s else l1Fill s c m.asid m.line sector bs spall f.newer
          let s := dropFetch s m
          let s := s.modGrp k (fun g =>
            { g with loads := g.loads.map (fun l => if l.op = f.op then takeBytes l got else l) })
          .next (endIfEmpty (settleLoad s k f.op) k f.op)
    | _ => .next (notOffered s)

/-- The answer of an atomic, an ACQ or a REL reaches its group (R286). -/
def takeValue (s : State) (m : Msg) (v : DWord) (poison : Bool) (lane : Nat) : State :=
  let k := m.grp
  match fetchOf s m with
  | none => s
  | some f =>
    let s := dropFetch s m
    match f.body with
    | .atomic _ n _ _ _ _ =>
      let s := answerLane s k f.op lane ((cleanBytes n v.toNat).map (fun b => { b with poison := poison }))
      let s := endIfEmpty (settleLoad s k f.op) k f.op
      if poison then poisonAnswer s k f.op else s
    | .acq _ => s.modGrp k (fun g => g.setSync f.op (fun y => { y with answer := some ⟨v, poison⟩ }))
    | _ =>
      let s := if poison then poisonAnswer s k f.op else s
      s.modGrp k (fun g => g.endSync f.op)

/-! ### What a slice awaits (R152) -/

/-- A due request of its requester. -/
def numbered (s : State) (m : Msg) : Bool :=
  (match m.body with | .req _ => true | _ => false) && decide (m.num = AMap.get 0 s.expect (numKey m.requester m.asid m.line))

/-- The request that its slice takes next for a line: the first to arrive whose number is due. -/
def nextFor (s : State) (asid line : Nat) : Option Msg :=
  s.arrived.find? (fun m => decide (m.asid = asid) && decide (m.line = line) && numbered s m)

/-- The request is performed: the next number is due, and the reply goes out. -/
def performed (s : State) (m : Msg) (r : RepBody) : State :=
  let key := numKey m.requester m.asid m.line
  sendReply { s with expect := AMap.put s.expect key (m.num + 1), arrived := s.arrived.filter (fun x => decide (x.id ≠ m.id)) } m r

/-- The fate of a request whose page faults (R360): the slice holds a write's bytes, any other is answered with the fault. -/
def faultRequest (s : State) (m : Msg) (kind : Nat) : State :=
  match m.body with
  | .req b =>
    match b, decide (m.requester < 1000) with
    | .write bs, true => performed { s with heldWrites := s.heldWrites ++ [⟨m.asid, m.line, bs, none, kind⟩] } m .ack
    | _, _ => performed s m (.faulted kind (m.line * 128 / 2 ^ 16 * 2 ^ 16) b)
  | _ => s

def dropDemand (s : State) (asid line : Nat) : State := { s with demands := s.demands.filter (fun d => decide (d ≠ (asid, line))) }

/-- A translation has failed: bytes written back become held (R360), a request has its fate, a unit looks again. -/
def takeFault (s : State) (m : Msg) (kind : Nat) (bs : List (Nat × PByte)) : State :=
  if !bs.isEmpty then { s with heldWrites := s.heldWrites ++ [⟨m.asid, m.line, bs, none, kind⟩] }
  else
    let s := dropDemand s m.asid m.line
    match nextFor s m.asid m.line with
    | some r => faultRequest s r kind
    | none => s

/-- One half of a line reaches its slice; with both, the line is there. -/
def takeHalf (s : State) (m : Msg) (id : Nat) (hi : Bool) (d : BitVec 512) (p : BitVec 2) : State :=
  match s.hbmReqs.find? (fun r => decide (r.id = id)) with
  | none => s
  | some r =>
    let r := if hi then { r with hi := some (d, p) } else { r with lo := some (d, p) }
    match r.lo, r.hi with
    | some a, some b =>
      let leaf : Leaf := ⟨r.pa - m.line * 128 % 2 ^ 16, 2 ^ 16, 0, r.writable⟩
      let x := joinHalves a b
      let s := { s with hbmReqs := s.hbmReqs.filter (fun x => decide (x.id ≠ id)) }
      dropDemand (installL2 s m.asid m.line x.1 x.2 leaf r.spall) m.asid m.line
    | _, _ => { s with hbmReqs := s.hbmReqs.map (fun x => if x.id = id then r else x) }

/-- The answer of a holding array reaches the word that asked (R294, R310–R313). -/
def takeArray (s : State) (id : Nat) (a : ArrayAns) : State :=
  match s.remotes.find? (fun r => decide (r.id = id)) with
  | none => s
  | some r =>
    let k := r.grp
    let s := { s with remotes := s.remotes.filter (fun x => decide (x.id ≠ id)) }
    match a with
    | .bytes bs =>
      let s := s.modGrp k (fun g => { g with loads := g.loads.map (fun l => if l.op = r.op then takeBytes l bs else l) })
      endIfEmpty (settleLoad s k r.op) k r.op
    | .word v => s.modGrp k (fun g => g.setSync r.op (fun y => { y with answer := some v }))
    | .poisoned => (poisonAnswer s k r.op).modGrp k (fun g => g.endSync r.op)
    | .done =>
      (match r.body with
       | .rel _ _ => s.modGrp k (fun g => g.endSync r.op)
       | _ => endIfEmpty s k r.op)
    | a => answerQueue s r.op a

/-- A reply other than a sector reaches its core: a value, the end of a write-back, a fault, which parks the word while its page is
pending (R361, R362). -/
def takeReply (s : State) (m : Msg) (r : RepBody) : State :=
  match r with
  | .value v p lane => takeValue s m v p lane
  | .ack =>
    match l1Line s m.requester m.asid m.line with
    | some x => setL1 s m.requester m.asid m.line { x with wb := false }
    | none => s
  | .faulted kind _ _ =>
    let pend := pagePending s m.asid (m.line * 128)
    s.modGrp m.grp (fun g =>
      { (if pend then g.setParked m.op true else g) with fetches := g.fetches.map (fun f =>
          if f.sent = some m.id then { f with sent := none, faulted := if pend then some kind else none, newer := [] } else f) })
  | .sector _ _ | .bytes _ => s

/-- DELIVER: the message b reaches its slice, its controller or its unit, or a reply other than a sector its requester. -/
def execDeliver (s : State) : Out :=
  match findMsg s.fabric s.cur.b with
  | none => .next (notOffered s)
  | some m =>
    if !ejects s m then .next (notOffered s)
    else
      let t := takeMsg s m.id
      match m.body with
      | .req _ | .line _ | .dirty _ | .access _ _ _ | .store _ _ => .next { t with arrived := t.arrived ++ [m] }
      | .rep (.sector _ _) | .offer _ _ => .next (notOffered s)
      | .rep r =>
        if 1000 ≤ m.requester then
          .next { t with unitReqs := t.unitReqs.map (fun x => if x.msg = m.id then { x with answer := some r } else x) }
        else .next (takeReply t m r)
      | .walked kind bs => .next (takeFault t m kind bs)
      | .half id hi d p => if l2Full s m.asid m.line then .next (notOffered s) else .next (takeHalf t m id hi d p)
      | .array id _ => .next { t with remotes := t.remotes.map (fun r => if r.id = id then { r with here := true } else r) }
      | .arrayAns id _ a => .next (takeArray t id a)
      | .graph id _ => .next { t with greqs := t.greqs.map (fun r => if r.id = id then { r with moving := false } else r) }
      | .graphAns id _ => .next (takeGraph t id)
      | .refusal op _ => .next (setOffer t op (fun y => { y with place := if y.place = 4 then 2 else y.place }))

/-! ## At the slice (R152) -/

/-- n bytes of a line at its slice. -/
def sliceBytes (s : State) (asid a n : Nat) : List PByte := l2Bytes s asid a n

def sliceWrite (s : State) (asid a n v : Nat) : State :=
  l2Write s asid (lineOf a) (bytesAt (a % 128) (cleanBytes n v))

/-- A line that a peer does not give: its data is open, every sector poisoned (R394). -/
def lostLine (s : State) (asid line : Nat) : BitVec 1024 :=
  (List.range 128).foldl (fun d i => setByte d i (Config.lostByte s.steps (lineKey asid line * 128 + i))) 0

/-- A peer's read ends without data. -/
def readLost (s : State) (r : PeerReq) : State :=
  let s := hingeLoss s r.link r.asid r.line
  let leaf : Leaf := ⟨r.pa - r.line * 128 % 2 ^ 16, 2 ^ 16, 2, r.writable⟩
  dropDemand (installL2 s r.asid r.line (lostLine s r.asid r.line) 15 leaf r.spall) r.asid r.line

/-- A line needs room that its slice does not have. -/
def noRoom (s : State) (asid line : Nat) : Bool := (l2Line s asid line).isNone && l2Full s asid line

/-- The atomic is with the peer already. -/
def atPeer (s : State) (m : Msg) : Bool := s.peerReqs.any (fun r => decide (r.msg = some m.id))

/-- A word that a release writes in a host or peer page goes out at once, behind what the release has cleaned and without
Relaxed Ordering (R390): its bytes are not dirty at the slice any more. -/
def publishWord (s : State) (asid a n : Nat) (system : Bool) : State :=
  match l2Line s asid (lineOf a) with
  | none => s
  | some x =>
    if !system || x.tgt = 0 then s
    else
      let bs := bytesAt (a % 128) ((byteAddrs a n).map (l2Byte s asid))
      let clean (s : State) : State := { s with l2 := AMap.put s.l2 (lineKey asid (lineOf a)) { x with dirty := x.dirty &&& ~~~byteMask bs } }
      if x.tgt = 1 then clean (s.emit (.write (x.pa + a % 128) (bs.map (·.2.val)) false))
      else match sendPeer s { id := 0, slice := 0, link := 0, asid := asid, line := lineOf a, pa := x.pa, body := .write bs,
                              writable := true, spall := false, msg := none } with
        | .sent s => clean s
        | .lost => clean (hingeLoss s 0 asid (lineOf a))
        | .wait => s

/-- A held write is performed as its slice performs any: the bytes, or the increment of DONE unless its word is poisoned (R286). -/
def heldApply (s : State) (w : HeldWrite) : Access Unit :=
  let bytes (bs : List (Nat × PByte)) : List (Nat × PByte) := bs.map (fun b => (w.line * 128 + b.1, b.2))
  match w.add with
  | some (o, system) =>
    let a := w.line * 128 + o
    match peek s w.asid a 8 with
    | .ok bs s =>
      if ppoison bs then .ok () s
      else (match pokeBytes s w.asid (bytes (bytesAt o (cleanBytes 8 ((pvalue bs + 1) % 2 ^ 64)))) with
        | .ok _ s => .ok () (publishWord s w.asid a 8 system)
        | r => r)
    | .fault kind va s => .fault kind va s
    | .away s => .away s
  | none => pokeBytes s w.asid (bytes w.bytes)

/-- Write b of those held is performed once its page is mapped (R360). -/
def performHeld (s : State) : Out :=
  match s.heldWrites[s.cur.b]? with
  | none => .next (notOffered s)
  | some w =>
    if pagePending s w.asid (w.line * 128) then .next (notOffered s)
    else
      match heldApply s w with
      | .ok _ t => .next { t with heldWrites := t.heldWrites.erase w }
      | .away t => .next (notOffered t)
      | .fault kind va t =>
        if kind = walkError then .next { walkFatal t w.asid va with heldWrites := s.heldWrites.erase w }
        else match reportPage t w.asid va kind nobody with
          | some t => .next t
          | none => .next (notOffered t)

/-- A line someone waits for: a request due at its slice, or a unit's demand. -/
def wantedLine (s : State) (asid line : Nat) : Bool := (nextFor s asid line).isSome || s.demands.contains (asid, line)

/-- The line is on its way to its slice, or its home controller is asked for it. -/
def lineComing (s : State) (asid line : Nat) : Bool :=
  (messages s).any (fun m => decide (m.asid = asid) && decide (m.line = line) && (match m.body with
      | .line _ => true
      | .walked _ bs => bs.isEmpty
      | _ => false))
    || s.hbmReqs.any (fun r => decide (r.asid = asid) && decide (r.line = line))
    || s.hostWait.any (fun w => match w with | .sliceFill _ a l => decide (a = asid) && decide (l = line) | _ => false)
    || s.peerReqs.any (fun r => decide (r.asid = asid) && decide (r.line = line) && decide (r.body = .read))

/-- The slice needs the home controller for a line: to bring it, or for what its page allows (R358). -/
def askHome (s : State) (asid line : Nat) (spall : Bool) : Out :=
  if lineComing s asid line || noRoom s asid line then .next (notOffered s) else .next (slicePacket s asid line (.line spall))

/-- PERFORM: the request b, due and with its line at the slice, is applied to the line's current value; a line that is not there, or
that the page it came from does not let be written, is asked of its home controller. With flag set, write b of those the slices
hold; with c = 1, line b of context a that a unit waits for. -/
def execPerform (s : State) : Out :=
  if s.cur.flag then performHeld s
  else if s.cur.c = 1 then
    (if s.demands.contains (s.cur.a, s.cur.b) && (l2Line s s.cur.a s.cur.b).isNone then askHome s s.cur.a s.cur.b false else .next (notOffered s))
  else match findMsg s.arrived s.cur.b with
  | none => .next (notOffered s)
  | some m =>
    if (nextFor s m.asid m.line).map (·.id) ≠ some m.id || owner s (bucketOf m.asid m.line) ≠ m.slice || atPeer s m then .next (notOffered s)
    else
      let spall := match m.body with | .req (.fetch _ sp) | .req (.read _ _ sp) => sp | _ => false
      match l2Line s m.asid m.line with
      | none => askHome s m.asid m.line spall
      | some x =>
        let hit := touchL2 s m.asid m.line spall
        match m.body with
        | .req (.fetch sec _) => .next (performed hit m (.sector sec (sliceBytes s m.asid (m.line * 128 + 32 * sec) 32)))
        | .req (.write bs) =>
          if !x.writable then askHome s m.asid m.line false else .next (performed (l2Write hit m.asid m.line bs) m .ack)
        | .req (.granule bs clears) =>
          if !x.writable then askHome s m.asid m.line false
          else
            let s := l2Write hit m.asid m.line bs
            .next (performed (if clears then l2Clean s m.asid m.line ((bs.head?.map (·.1)).getD 0 / 32) else s) m .ack)
        | .req (.atomic op n a v cmp lane) =>
          if !x.writable || x.tgt = 2 then askHome s m.asid m.line false
          else
            let old := sliceBytes s m.asid a n
            let o : DWord := BitVec.ofNat 64 (pvalue old)
            let s := if ppoison old then hit else sliceWrite hit m.asid a n (atomicValue op n o v cmp).toNat
            .next (performed s m (.value o (ppoison old) lane))
        | .req (.read o n _) => .next (performed hit m (.bytes (sliceBytes s m.asid (m.line * 128 + o) n)))
        | .req (.acq a) =>
          let old := sliceBytes s m.asid a 8
          .next (performed hit m (.value (BitVec.ofNat 64 (pvalue old)) (ppoison old) 0))
        | .req (.bump a system) =>
          if !x.writable then askHome s m.asid m.line false
          else
            let old := sliceBytes s m.asid a 8
            let s := if ppoison old then hit else publishWord (sliceWrite hit m.asid a 8 ((pvalue old + 1) % 2 ^ 64)) m.asid a 8 system
            .next (performed s m (.value (BitVec.ofNat 64 (pvalue old)) (ppoison old) 0))
        | .req (.rel a v system) =>
          if !x.writable then askHome s m.asid m.line false
          else
            let old := sliceBytes s m.asid a 8
            let s := if ppoison old then hit else publishWord (sliceWrite hit m.asid a 8 v.toNat) m.asid a 8 system
            .next (performed s m (.value v (ppoison old) 0))
        | _ => .next (notOffered s)

/-! ## At the holding array (R294) -/

/-- REMOTE_SCRATCH_PERFORM: the request b is performed at its array in its requester's order, and answered. -/
def execRemoteScratchPerform (s : State) : Out :=
  match s.remotes.find? (fun r => decide (r.id = s.cur.b)) with
  | none => .next (notOffered s)
  | some r =>
    let key := remKey r.requester r.kernel r.cluster r.member r.block
    match memberTeam s (s.grp r.grp).team r.member with
    | none => .next (notOffered s)
    | some t =>
      let st := (s.team t).state
      let before := match r.body with
        | .push _ _ _ => s.remotes.any (fun x => decide (x.op = r.op) && decide (x.grp = r.grp) && decide (x.member < r.member) && !x.done)
        | _ => false
      if before || !r.here || r.done || r.num ≠ AMap.get 0 s.remExpect key || st = .saved || st = .restoring then .next (notOffered s)
      else
        let s := { s with remExpect := AMap.put s.remExpect key (r.num + 1),
                          remotes := s.remotes.map (fun x => if x.id = r.id then { x with done := true } else x) }
        let c := (s.team t).core
        let answer (s : State) (a : ArrayAns) : Out :=
          .next (packet s (1000 + c) (c / 2 % 96) 0 0 (.arrayAns r.id r.requester a))
        let queue (q : QueueAnswer) : Out :=
          match q with
          | .served ls got s => answer s (.lanes ls got)
          | .refused => answer s .refused
          | .trap sub => answer s (.trap sub)
        match r.body with
        | .load offs => answer s (.bytes (offs.map (fun o => ((Loc.win r.member o).addr, scratchGet s t o))))
        | .store bs => answer (scratchWrite s t bs) .done
        | .acq o =>
          let bs := scratchRead s t o 8
          answer s (.word ⟨BitVec.ofNat 64 (pvalue bs), ppoison bs⟩)
        | .rel o v =>
          if ppoison (scratchRead s t o 8) then answer s .poisoned
          else answer (scratchWrite s t (bytesAt o (cleanBytes 8 v.toNat))) .done
        | .push d ms nb => queue (pushAt s t d ms nb)
        | .pop d ls nb => queue (popAt s t d ls nb)

/-! ## Translation and HBM (R358–R362, R369) -/

/-- The next request of a line asks for a write its page must allow (R360). -/
def wantsWrite (m : Msg) : Bool :=
  match m.body with
  | .req (.write _) | .req (.granule _ _) | .req (.atomic _ _ _ _ _ _) | .req (.rel _ _ _) | .req (.bump _ _) => true
  | _ => false

/-- A line is asked of the memory its page names; `none` while it cannot be. -/
def askLine (s : State) (asid line : Nat) (l : Leaf) (spall : Bool) : Option State :=
  let pa := l.base + line * 128 % l.size
  let home := ctrlRouter (homeCtrl asid (line * 128))
  match l.tgt with
  | 0 =>
    let id := s.nextId
    let s := { s with nextId := id + 1, hbmReqs := s.hbmReqs ++ [⟨id, asid, line, pa, l.writable, spall, none, none⟩] }
    some ([false, true].foldl (fun s hi =>
      packet s (memoryPort home) home asid line (.access id (pa + if hi then 64 else 0) hi)) s)
  | 1 =>
    if s.link ≠ .up then none
    else some { s with hostOut := s.hostOut ++ [.readReq 0 pa 128], hostWait := s.hostWait ++ [.sliceFill s.nextId asid line], nextId := s.nextId + 1 }
  | _ =>
    let r : PeerReq := ⟨0, 0, 0, asid, line, pa, .read, l.writable, spall, none⟩
    match sendPeer s r with
    | .sent s => some s
    | .lost => some (readLost s r)
    | .wait => none

/-- An atomic on a peer page is sent to the peer (R393); with no link its old value comes back poisoned. -/
def sendPeerAtomic (s : State) (m : Msg) (pa : Nat) (op n a : Nat) (v cmp : DWord) (lane : Nat) : Option State :=
  match sendPeer s ⟨0, 0, 0, m.asid, m.line, pa, .atomic op n (a % 128) v cmp, false, false, some m.id⟩ with
  | .sent s => some s
  | .lost => some (performed (hingeLoss s 0 m.asid m.line) m (.value (Config.lostWord s.steps) true lane))
  | .wait => none

/-- Dirty bytes of a line go to the memory its page names now: to HBM by an access for each half, to the host posted with Relaxed
Ordering (R390), to a peer. -/
def storeLine (s : State) (asid line : Nat) (l : Leaf) (bs : List (Nat × PByte)) : Option State :=
  let pa := l.base + line * 128 % l.size
  let home := ctrlRouter (homeCtrl asid (line * 128))
  match l.tgt with
  | 0 =>
    some ([false, true].foldl (fun s hi =>
      let w := halfBytes bs hi
      if w.isEmpty then s else packet s (memoryPort home) home asid line (.store (pa + if hi then 64 else 0) w)) s)
  | 1 => if s.link ≠ .up then none else some (bs.foldl (fun s b => s.emit (.write (pa + b.1) [b.2.val] true)) s)
  | _ =>
    match sendPeer s ⟨0, 0, 0, asid, line, pa, .write bs, l.writable, false, none⟩ with
    | .sent s => some s
    | .lost => some (hingeLoss s 0 asid line)
    | .wait => none

/-- The controller sends its answer to the slice that asked. -/
def homeAnswer (s : State) (m : Msg) (b : MsgBody) : State :=
  let home := ctrlRouter (homeCtrl m.asid (m.line * 128))
  packet s (memoryPort home) home m.asid m.line b

/-- The controller has dealt with a message. -/
def dealtWith (s : State) (m : Msg) : State := { s with arrived := s.arrived.filter (fun x => decide (x.id ≠ m.id)) }

/-- A translation that fails is reported (R360, R362), and the slice is told; with no entry free for its report the message stays. A
unit's own access reports its fault itself. -/
def homeFails (s : State) (m : Msg) (kind : Nat) (bs : List (Nat × PByte)) : Out :=
  let done (s : State) : Out := .next (homeAnswer (dealtWith s m) m (.walked kind bs))
  if kind = walkError then .next (walkFatal (dealtWith s m) m.asid (m.line * 128))
  else
    let who : Option PageWho :=
      if !bs.isEmpty then some nobody
      else match nextFor s m.asid m.line with
        | some r =>
          if r.requester < 1000 then some (match r.body with | .req (.write _) => nobody | _ => pageWho s r.grp)
          else if r.requester < 3000 then none
          else some (pageWho s r.grp)
        | none => none
    match who with
    | none => done s
    | some w =>
      match reportPage s m.asid (m.line * 128) kind w with
      | some s => done s
      | none => .next (notOffered s)

/-- What the home controller does with a leaf for a line its slice needs: an atomic on a peer page goes there; a write its page does
not allow faults; a line that is at its slice takes what the page allows; any other is asked for. -/
def homeLine (s : State) (m : Msg) (l : Leaf) (spall : Bool) : Option State ⊕ Nat :=
  match nextFor s m.asid m.line with
  | some r =>
    if wantsWrite r && !l.writable then .inr noWrite
    else match l.tgt, r.body with
      | 2, .req (.atomic op n a v cmp lane) =>
        .inl (if atPeer s r then some s else sendPeerAtomic s r (l.base + m.line * 128 % l.size) op n a v cmp lane)
      | _, _ => .inl (if (l2Line s m.asid m.line).isSome then some (refreshL2 s m.asid m.line l) else askLine s m.asid m.line l spall)
  | none => .inl (if (l2Line s m.asid m.line).isSome then some s else askLine s m.asid m.line l spall)

/-- Dirty bytes of the line before those of a message are still away (R151). -/
def earlierAway (s : State) (m : Msg) : Bool :=
  (messages s).any (fun x => decide (x.asid = m.asid) && decide (x.line = m.line) && (match x.body with
    | .dirty _ => decide (x.id < m.id)
    | .store _ _ => true
    | .walked _ bs => !bs.isEmpty
    | _ => false))

/-- Dirty bytes on their way take along those of the line that are held, which are older. -/
def withHeld (s : State) (m : Msg) (bs : List (Nat × PByte)) : State × List (Nat × PByte) :=
  let old := (heldAt s m.asid m.line).filter (·.add.isNone)
  ({ s with heldWrites := s.heldWrites.filter (fun w => !old.contains w) }, lastBytes (old.flatMap (·.bytes) ++ bs))

/-- TRANSLATE: the home controller translates for message b, which has reached it: a line its slice needs, or a line's dirty bytes;
a line is not read while bytes of it are away, nor are later bytes written before earlier ones (R151). -/
def execTranslate (s : State) : Out :=
  match findMsg s.arrived s.cur.b with
  | none => .next (notOffered s)
  | some m =>
    let orWait (s : State) (t : Option State) : Out := match t with
      | some t => .next t
      | none => .next (notOffered s)
    match m.body with
    | .line spall =>
      if bytesAway s m.asid m.line then .next (notOffered s)
      else match lookup s m.asid (m.line * 128) with
        | (s, .error kind) => homeFails s m kind []
        | (s, .ok l) =>
          match homeLine (dealtWith s m) m l spall with
          | .inl t => orWait s t
          | .inr kind => homeFails s m kind []
    | .dirty bs =>
      if earlierAway s m then .next (notOffered s)
      else match lookup s m.asid (m.line * 128) with
        | (s, .error kind) => homeFails s m kind bs
        | (s, .ok l) =>
          if !l.writable then homeFails s m noWrite bs
          else
            let x := withHeld (dealtWith s m) m bs
            orWait s (storeLine x.1 m.asid m.line l x.2)
    | _ => .next (notOffered s)

/-- A write of the frame's bytes that has not been performed. -/
def storeAway (s : State) (pa : Nat) : Bool :=
  (messages s).any (fun m => match m.body with | .store p _ => decide (p / 64 = pa / 64) | _ => false)

/-- HBM_ACCESS: the 64-byte access b is performed at the controller that holds it (R357, R369, R467): a read, answered to the slice,
behind every write of its bytes on the way; or a write. -/
def execHbmAccess (s : State) : Out :=
  match findMsg s.arrived s.cur.b with
  | none => .next (notOffered s)
  | some m =>
    match m.body with
    | .access id pa hi =>
      if storeAway s pa then .next (notOffered s)
      else
        let d := accessData s pa
        let r := ctrlRouter (holdCtrl pa)
        .next (packet (readEffects (dealtWith s m) pa) (memoryPort r) r m.asid m.line (.half id hi d.1 d.2))
    | .store pa bs => .next (writeAccess (dealtWith s m) pa bs)
    | _ => .next (notOffered s)

end Sys2Proof.Machine
end

