-- ==== Sys2Proof/Machine/Special.lean ====
section
/-!
DEFINITION. SRD and SWR (R227, R249, R250) over the special registers: TEAMID, GRPID, CLUSID, GRIDDIM (R27, R127),
PLACE (R29), CTXID (R71), OPCNT (R177), FPST (R47), SATF0–2 (R48), SIGACC (R119), DSTK (R115), IDEMPC (R398) and
ACTBANK (R278).
-/
namespace Sys2Proof.Machine

/-- PLACE (R29): CORE, PART, COLX, ROWY, PORT, DIE, CHIP of the group's core (R15). -/
def placeWord (core part : Nat) : DWord :=
  let r := core / 2
  let x := r % 12
  let y := r / 12
  BitVec.ofNat 64 (core * 2 ^ 24 + part * 2 ^ 20 + x * 2 ^ 16 + y * 2 ^ 13 + core % 2 * 2 ^ 12 + y / 2 * 2 ^ 10 + y % 2 * 2 ^ 9)

/-- ACTBANK (R278): TAGOK, BANK. -/
def actbankWord (c : Core) (asid : Nat) : DWord :=
  let b := if c.actCur then c.act1 else c.act0
  BitVec.ofNat 64 ((if b.tag = asid then 2 else 0) + (if c.actCur then 1 else 0))

/-- Read/write bits of IDEMPC: all but [49:45] (R398). -/
def idemMask : DWord := ~~~(0x1F <<< 45 : DWord)

/-- DSTK (R115): ROOM, PTR. -/
def dstkWord (g : Group) : DWord := BitVec.ofNat 64 (g.room.toNat * 2 ^ 52 + g.ptr.toNat * 16)

/-- The value of special register n for a group (R227). -/
def sregRead (s : State) (k n : Nat) : DWord :=
  let g := s.grp k
  let t := s.teamOf k
  match n with
  | 1 => BitVec.ofNat 64 t.teamid
  | 2 => BitVec.ofNat 64 g.grpid
  | 3 => BitVec.ofNat 64 t.clusid
  | 4 => BitVec.ofNat 64 (s.kernelOf k).teams
  | 5 => placeWord t.core g.partition
  | 6 => BitVec.ofNat 64 (t.asid % 2 ^ 12)
  | 7 => opcnt g
  | 0x10 => g.fpst.setWidth 64
  | 0x11 => (maskWord g.satf 0).setWidth 64
  | 0x12 => (maskWord g.satf 1).setWidth 64
  | 0x13 => (maskWord g.satf 2).setWidth 64
  | 0x14 => g.slot1.acc ++ g.slot0.acc
  | 0x15 => dstkWord g
  | 0x16 => g.idempc &&& idemMask
  | 0x17 => actbankWord (s.core t.core) t.asid
  | _ => 0

/-- What a special register shares with queued lane words (R31). -/
def sregNeeds (n : Nat) (reg : Nat) (write : Bool) : Needs :=
  { rd := if write then [reg] else [], wr := if write then [] else [reg],
    fp := decide (n = 0x10), sat := decide (0x11 ≤ n) && decide (n ≤ 0x13),
    ctr := if n = 7 then allClasses else [] }

/-- The read/write bits of special register n take a value (R250). -/
def sregWrite (g : Group) (n : Nat) (x : DWord) : Group :=
  match n with
  | 0x10 => { g with fpst := x.setWidth 5 }
  | 0x11 => { g with satf := setMaskWord g.satf 0 (x.setWidth 32) }
  | 0x12 => { g with satf := setMaskWord g.satf 1 (x.setWidth 32) }
  | 0x13 => { g with satf := setMaskWord g.satf 2 (x.setWidth 32) }
  | 0x14 => { g with slot0 := { g.slot0 with acc := x.setWidth 32 }, slot1 := { g.slot1 with acc := x.extractLsb' 32 32 } }
  | 0x15 => { g with room := x.extractLsb' 52 12, ptr := x.extractLsb' 4 48 }
  | 0x16 => { g with idempc := x &&& idemMask }
  | _ => g

/-- SRD: the value as it stands when the word issues; its own word is folded. -/
def execSrd (d : SIndex) (n : BitVec 14) (s : State) : Out :=
  issueScalar (.srd d n) (sregNeeds n.toNat d.toNat false) s fun s =>
    .next (writeResult s d ⟨sregRead (foldWord s) s.cur.grp n.toNat, false⟩ none)

/-- SWR: POISON, then the DIVG check of DSTK (R115), then the write; it takes effect after its own folding. -/
def execSwr (a : SIndex) (n : BitVec 14) (s : State) : Out :=
  issueScalar (.swr a n) (sregNeeds n.toNat a.toNat true) s fun s =>
    let k := s.cur.grp
    let g := s.grp k
    let x := rs s a
    if x.poison then poisonScalar s 4
    else if decide (n = 0x15) && (!g.drecs.isEmpty || decide (0 < g.dbelow)) then trapIssued s .divg 5 (issueInfo s)
    else .next (advance ((foldWord s).modGrp k (fun g => sregWrite g n.toNat x.val)))

end Sys2Proof.Machine
end

