-- ==== Sys2Proof/Machine/Image.lean ====
section
/-!
DEFINITION. The save image of a team (R82, R83, R116, R122, R178, R204, R316, R329, R363): its size and place, its bytes
with their poison (R397), and the fields of a group, a barrier, a bank record and a command read back from it (R84).
-/
namespace Sys2Proof.Machine

/-! ## Layout (R82) -/

def tileBytes : Nat := 48 * 1024
def wayBytes : Nat := 16384

/-- H. -/
def bankAreas (n : Kernel) : Nat := if n.spec then 4 else 0

def bankArea (n : Kernel) : Nat := 0x2000 + n.tiles * tileBytes
def scratchArea (n : Kernel) : Nat := bankArea n + bankAreas n * tileBytes
def groupArea (n : Kernel) : Nat := scratchArea n + n.ways * wayBytes
def groupBytes (n : Kernel) : Nat := 16384 + 384 * n.regs

/-- IMGSIZE: rounded up to 4 KiB. -/
def imgSize (n : Kernel) : Nat := (groupArea n + n.groups * groupBytes n + 4095) / 4096 * 4096

/-- Where a team's image lies. -/
def imageAddr (n : Kernel) (teamid : Nat) : Nat := n.ksave + teamid * imgSize n

def imageOf (s : State) (t : Nat) : Nat := imageAddr (s.kernel (s.team t).kernel) (s.team t).teamid

/-- The kernel is COOP, or its clusters have more than one team (R80, R185). -/
def gang (n : Kernel) : Bool := n.coop || decide (1 < n.csize)

/-! ## Bytes -/

def zeros (n : Nat) : List PByte := List.replicate n ⟨0, false⟩

/-- n little-endian bytes of one element. -/
def pelt (n v : Nat) (poison : Bool) : List PByte := (leBytes n v).map (fun b => ⟨b, poison⟩)

/-- A list cut or filled up to n bytes. -/
def fitTo (n : Nat) (bs : List PByte) : List PByte := (bs ++ zeros n).take n

/-- The value of n bytes at an offset. -/
def field (bs : List PByte) (off n : Nat) : Nat := pvalue ((bs.drop off).take n)
def fieldPoison (bs : List PByte) (off n : Nat) : Bool := ppoison ((bs.drop off).take n)

/-! ## The team's part (R82, R178, R329, R316) -/

/-- The lowest GRPID of R121, 0xFF when none. -/
def primByte (t : Team) : Nat := t.primgrp.getD 0xFF

def kstate (t : Team) : Nat :=
  (if t.kHalt then 1 else 0) + (if t.kHandler then 2 else 0) + (if t.kGang then 4 else 0)

def headerBytes (t : Team) (n : Kernel) : List PByte :=
  fitTo 256 (cleanBytes 4 0x5A435449 ++ cleanBytes 4 (t.teamid % 2 ^ 24) ++ cleanBytes 4 (t.clusid % 2 ^ 24) ++ cleanBytes 1 n.groups
    ++ cleanBytes 1 n.tiles ++ cleanBytes 2 n.regs ++ cleanBytes 1 n.ways ++ cleanBytes 1 (bankAreas n) ++ cleanBytes 2 (kstate t)
    ++ cleanBytes 1 (primByte t) ++ cleanBytes 3 0 ++ cleanBytes 4 (imgSize n))

def barCode : BState → Nat
  | .unarmed => 0
  | .opened => 1
  | .forwarded => 2

def barBytes (b : Barrier) : List PByte :=
  cleanBytes 1 (barCode b.state) ++ cleanBytes 1 b.scope ++ cleanBytes 2 b.expect ++ cleanBytes 2 b.arrived ++ cleanBytes 2 b.phase.toNat
    ++ cleanBytes 4 b.waiters.toNat ++ cleanBytes 4 b.waitn.toNat

def barOf (bs : List PByte) : Barrier :=
  { state := match field bs 0 1 with | 0 => .unarmed | 1 => .opened | _ => .forwarded
    scope := field bs 1 1, expect := field bs 2 2, arrived := field bs 4 2, phase := BitVec.ofNat 16 (field bs 6 2),
    waiters := BitVec.ofNat 32 (field bs 8 4), waitn := BitVec.ofNat 32 (field bs 12 4) }

/-- Banks a team holds: bank, group, team tile. -/
def teamBanks (s : State) (t : Nat) : List (Nat × Nat × Nat) :=
  let c := s.core (s.team t).core
  [16, 17, 18, 19].filterMap (fun b =>
    match (c.bank b).owner with
    | some (k, tile) => if (s.grp k).team = t then some (b, k, tile) else none
    | none => none)

/-- A TRES for the group's bank is queued and not performed. -/
def tresQueued (g : Group) (tile : Nat) : Bool :=
  g.engq.any (fun c => match c.part with
    | some (.tres, f) => decide (f.vd.toNat % 16 = tile)
    | _ => false)

def bankBytes (s : State) (t : Nat) (b : Nat × Nat × Nat) : List PByte :=
  let g := s.grp b.2.1
  fitTo 64 (cleanBytes 1 1 ++ cleanBytes 1 b.2.2 ++ cleanBytes 1 g.grpid ++ cleanBytes 1 (if tresQueued g b.2.2 then 1 else 0)
    ++ cleanBytes 1 (if ((s.core (s.team t).core).bank b.1).init then 1 else 0))

/-- A command's 64-byte entry (R316). -/
def cmdBytes (c : EngCmd) : List PByte :=
  cleanBytes 12 c.word.toNat ++ cleanBytes 12 c.act.toNat ++ cleanBytes 8 c.opv1.toNat ++ cleanBytes 8 c.opv2.toNat
    ++ cleanBytes 8 c.opv3.toNat ++ cleanBytes 4 c.step ++ cleanBytes 4 c.aux ++ cleanBytes 4 c.aux2
    ++ cleanBytes 4 ((if c.started then 1 else 0) + (if c.acqdone then 2 else 0))

/-- An entry read back; an entry whose WORD is zero holds no command. What the image has no place for comes from beside it. -/
def cmdOf (bs : List PByte) (op : Nat) (kept : Option EngCmd) : Option EngCmd :=
  if field bs 0 12 = 0 then none
  else
    some { op := op, word := BitVec.ofNat 96 (field bs 0 12), act := BitVec.ofNat 96 (field bs 12 12), opv1 := BitVec.ofNat 64 (field bs 24 8),
           opv2 := BitVec.ofNat 64 (field bs 32 8), opv3 := BitVec.ofNat 64 (field bs 40 8), step := field bs 48 4, aux := field bs 52 4,
           aux2 := field bs 56 4, started := decide (field bs 60 1 % 2 = 1), acqdone := decide (field bs 60 1 / 2 % 2 = 1),
           finished := false, wrote := false, count := (kept.map (·.count)).getD 0, inflight := 0, asked := false, stop := none,
           waitPage := none }

/-- A tile's or bank's 48 KiB: row m at 512·m, FP32 column after column. -/
def tileImage (c : Core) (t : Nat) : List PByte :=
  (List.range 96).flatMap (fun r => (List.range 128).flatMap (fun q => pelt 4 (c.tile t r q).toNat (c.granule t r q)))

/-- A tile takes the elements and poison of 48 KiB of image. -/
def setTile (c : Core) (t : Nat) (bs : List PByte) : Core :=
  (List.range 96).foldl (fun c r => (List.range 128).foldl (fun (c : Core) q =>
    { c with tiles := AMap.set 0 c.tiles (tileKey t r q) (BitVec.ofNat 32 (field bs (512 * r + 4 * q) 4)),
             tilePoison := if fieldPoison bs (512 * r + 4 * q) 4 then AMap.set false c.tilePoison (granuleKey t r q) true else c.tilePoison })
    c) (c.clearTile t)

/-! ## A group's record (R83, R122) -/

/-- The word at the head of the lane queue can be offered (R109): it has not issued, no earlier result, ACQ, FENCE, full counter
or full engine queue keeps it back. -/
def headOffered (s : State) (k : Nat) : Bool :=
  let g := s.grp k
  match headBlock s k with
  | none => false
  | some b =>
    g.laneStall.isNone && g.laneRej.isNone && decide (b.islot < 32)
      && (match decodeLane (blockWord s k b) with
        | .error _ => true
        | .ok i =>
          let ps := laneParts i
          !laneBusy g ps && ps.all (fun p =>
            match laneClass p.1 with
            | none => true
            | some c =>
              !laneHeld g b.id (decide (c ≠ .cp) && decide (c ≠ .en) && decide (c ≠ .tl)) && decide (g.count c < 63)
                && (decide (c ≠ .en) || decide (g.engq.length < 4))))

/-- R108. -/
def groupState (s : State) (k : Nat) : Nat :=
  let g := s.grp k
  let live := (if g.slot0.live then [g.slot0] else []) ++ (if g.slot1.live then [g.slot1] else [])
  match g.phase with
  | .exited => 4
  | .halted => 3
  | _ =>
    if live.any (fun x => decide (x.reason = .none)) || headOffered s k then 0
    else if live.any (fun x => !x.reason.isParked) || !g.laneq.isEmpty then 1 else 2

/-- CVALID. -/
def cvalid (g : Group) : Nat :=
  ((List.range 8).map (fun k => if allLanes.any (fun l => (g.cursor k l).isOpen) then 2 ^ k else 0)).sum

def groupHeader (s : State) (k : Nat) : List PByte :=
  let g := s.grp k
  let pc := match g.haltpc with
    | some (o, f) => (ctrlForm 1 o f).toNat
    | none => 0
  fitTo 64 (cleanBytes 1 g.grpid ++ cleanBytes 1 (groupState s k) ++ cleanBytes 1 g.slot0.reason.code ++ cleanBytes 1 g.slot1.reason.code
    ++ cleanBytes 2 g.grant ++ cleanBytes 1 (cvalid g) ++ cleanBytes 1 g.wvalid.toNat ++ cleanBytes 1 g.rstack.length
    ++ cleanBytes 1 g.skid ++ cleanBytes 1 (if g.haltslot then 1 else 0) ++ cleanBytes 1 0 ++ cleanBytes 4 pc ++ cleanBytes 1 g.trapcls
    ++ cleanBytes 1 g.trapsub ++ cleanBytes 1 (if g.primary then 1 else 0))

def predBytes (p : Pred) : List PByte := pelt 16 p.bits.toNat (decide (p.poison ≠ 0))

/-- A program-counter slot: MASK and CTRL with TYPE 0b00 not live, 0b01 live, 0b10 live with SIGSKIP (R116). -/
def slotBytes (x : PcSlot) : List PByte :=
  cleanBytes 12 x.mask.toNat ++ cleanBytes 4 (ctrlForm (if !x.live then 0 else if x.sigskip then 2 else 1) x.ovlid x.pc).toNat

/-- A queued block: overlay identifier, offset, count, next word, four bytes each (log 35). -/
def blockBytes (b : LaneBlock) : List PByte :=
  cleanBytes 4 b.ovlid.toNat ++ cleanBytes 4 b.off ++ cleanBytes 4 b.count ++ cleanBytes 4 b.next

/-- The replay record (R363): lanes; then CTRL form, index in the block, slot (log 35). -/
def replayBytes (r : Option (Lanes × (BitVec 16 × Nat) × Nat × Bool)) : List PByte :=
  match r with
  | none => zeros 32
  | some (m, pos, w, z) =>
    fitTo 32 (cleanBytes 16 m.toNat ++ cleanBytes 4 (ctrlForm 1 pos.1 pos.2).toNat ++ cleanBytes 2 w ++ cleanBytes 1 (if z then 1 else 0))

/-- A return word's 8 bytes (R240), the oldest entry first (log 35). -/
def rstackBytes (l : List RetEnt) : List PByte := fitTo 64 (l.reverse.flatMap (fun e => cleanBytes 8 (e.ovlid.toNat * 2 ^ 32 + e.off)))

def windowBytes (g : Group) : List PByte :=
  (List.range 4).flatMap (fun k => allLanes.flatMap (fun l =>
    if g.wvalid.getLsbD k then pelt 8 (g.win k l).val.toNat (g.win k l).poison else zeros 8))

def cursorsBytes (g : Group) : List PByte :=
  (List.range 8).flatMap (fun k => allLanes.flatMap (fun l => (cursorBytes (g.cursor k l)).map (fun b => ⟨b, false⟩)))

/-- The slot whose own m0–m2 and ok the s field holds: slot 0, or slot 1 where slot 0 is not live (log 35). -/
def imageSlot (g : Group) : Bool := !g.slot0.live && g.slot1.live

def groupRecord (s : State) (k : Nat) (regs : Nat) : List PByte :=
  let g := s.grp k
  let z := imageSlot g
  groupHeader s k
    ++ (List.range 64).flatMap (fun r => pelt 8 (readS s k z r).val.toNat (readS s k z r).poison)
    ++ (List.range 8).flatMap (fun p => predBytes (g.pred p))
    ++ cleanBytes 8 g.fpst.toNat
    ++ (List.range 3).flatMap (fun i => cleanBytes 8 (maskWord g.satf i).toNat)
    ++ cleanBytes 8 (sregRead s k 0x14).toNat ++ cleanBytes 8 g.idempc.toNat ++ cleanBytes 8 (opcnt g).toNat ++ cleanBytes 8 (dstkWord g).toNat
    ++ slotBytes g.slot0 ++ slotBytes g.slot1
    ++ fitTo 64 ((g.laneq.take 4).flatMap blockBytes)
    ++ replayBytes g.replay ++ rstackBytes g.rstack ++ zeros 64 ++ windowBytes g ++ cursorsBytes g
    ++ (List.range regs).flatMap (fun r => allLanes.flatMap (fun l => pelt 4 (g.velt r l).val.toNat (g.velt r l).poison))

/-! ## The whole image -/

def engineArea (s : State) (t : Nat) : List PByte :=
  (List.range 16).flatMap (fun i =>
    if i < (s.team t).groups then fitTo 256 (((s.grp (groupKey t i)).engq.take 4).flatMap cmdBytes) else zeros 256)

def imageBytes (s : State) (t : Nat) : List PByte :=
  let x := s.team t
  let n := s.kernel x.kernel
  let c := s.core x.core
  let banks := teamBanks s t
  headerBytes x n ++ (List.range 16).flatMap (fun b => barBytes (x.bar b)) ++ fitTo 256 (banks.flatMap (bankBytes s t)) ++ zeros 3328
    ++ engineArea s t
    ++ x.tiles.flatMap (tileImage c)
    ++ (List.range (bankAreas n)).flatMap (fun i =>
         match banks[i]? with
         | some b => tileImage c b.1
         | none => zeros tileBytes)
    ++ scratchRead s t 0 (n.ways * wayBytes)
    ++ (teamGroups s t).flatMap (fun k => groupRecord s k n.regs)

/-! ## Reading a group back (R84, R123, R397) -/

def reasonOf : Nat → Reason
  | 1 => .counter | 2 => .barrier | 3 => .lxfull | 4 => .hazard | 6 => .retry | 7 => .dsfill | 8 => .exitdrain | 9 => .spillwait
  | 0x10 => .pagefault | 0x11 => .ovlcall | 0x12 => .ovlret | 0x13 => .ovlrestore | _ => .none

/-- Barrier and phase a slot of a group waits for by the restored WAITERS and WAITN (R123, R181). -/
def restoredWait (t : Team) (grpid : Nat) (second : Bool) : Option (Nat × BitVec 16) :=
  let i := 2 * grpid + (if second then 1 else 0)
  (List.range 16).findSome? (fun b =>
    let x := t.bar b
    if x.waiters.getLsbD i then some (b, x.phase) else if x.waitn.getLsbD i then some (b, x.phase + 1) else none)

/-- A slot takes its record; its overlay is resolved before it offers a word (R140). A slot parked on an overlay resolves
it again. A side that waits for its WAITB sets no bit; the device kept its phase (DESIGN CHOICE, log 47). -/
def slotOf (bs : List PByte) (acc : Nat) (reason : Nat) (t : Team) (grpid : Nat) (second : Bool) (kept : PcSlot) : PcSlot :=
  let c := field bs 12 4
  let type := c / 2 ^ 30
  let r := reasonOf reason
  { deadSlot with
    live := decide (type ≠ 0), pc := c % 2 ^ 14, ovlid := BitVec.ofNat 16 (c / 2 ^ 14), entered := false, resumeAs := .ovlrestore,
    mask := BitVec.ofNat 96 (field bs 0 12), acc := BitVec.ofNat 32 acc, sigskip := decide (type = 2), reason := r, issued := kept.issued, ok := kept.ok, prior := kept.prior,
    waitPhase := if r = .barrier then (restoredWait t grpid second).orElse (fun _ => kept.waitPhase) else none,
    acqHold := kept.acqHold, fenceHold := kept.fenceHold, bindHold := kept.bindHold }

/-- A queued block; an overlay slot of 32 stands for one still to be resolved. Mask, LX and slot come from beside the
image. -/
def blockOf (bs : List PByte) (kept : Option LaneBlock) (mask : Lanes) : Option LaneBlock :=
  if field bs 8 4 = 0 then none
  else
    let b := kept.getD { id := 0, acqHold := [], fenceHold := [], ovlid := 0, islot := 0, off := 0, count := 0, next := 0, mask := mask, second := false, lxpc := 0 }
    some { b with ovlid := BitVec.ofNat 16 (field bs 0 4), islot := 32, off := field bs 4 4, count := field bs 8 4, next := field bs 12 4 }

def replayOf (bs : List PByte) : Option (Lanes × (BitVec 16 × Nat) × Nat × Bool) :=
  let c := field bs 16 4
  if c = 0 then none
  else some (BitVec.ofNat 96 (field bs 0 12), (BitVec.ofNat 16 (c / 2 ^ 14), c % 2 ^ 14), field bs 20 2, decide (field bs 22 1 = 1))

/-- Operations the restored counters count: the kept ones, and as many more as the field says. -/
def opsOf (counters : Nat) (kept : List OutOp) (fresh : Nat) : List OutOp :=
  let cls : List CtrClass := [.ld, .st, .cp, .tl, .gr, .en]
  (cls.zip (List.range 6)).flatMap (fun (c : CtrClass × Nat) =>
    let n := counters / 2 ^ (6 * c.2) % 64
    let mine := kept.filter (fun o => decide (o.cls = c.1))
    mine.take n ++ (List.range (n - mine.length)).map (fun i =>
      ⟨fresh + 64 * c.2 + i, c.1, false, false, false, false, 0, 0, 0, 0xFFFF, 0⟩))

/-- A restored register map: each of n elements with its poison. -/
def eltsOf {α : Type} [DecidableEq α] (d : α) (mk : Nat → Bool → α) (bs : List PByte) (size n : Nat) : AMap α :=
  (List.range n).foldl (fun m i => AMap.set d m i (mk (field bs (size * i) size) (fieldPoison bs (size * i) size))) []

def keptOf (g : Group) : Beside := g.beside.getD ⟨deadSlot, deadSlot, [], [], [], 0, [], [], none⟩

/-- The group of a record: its place stays as placed; everything else is as the record holds it (R84). The lane masks of the slot that
the s field speaks for are those of s60–s62 there, which software may have changed. -/
def groupOf (g : Group) (t : Team) (bs eng : List PByte) (regs fresh : Nat) : Group :=
  let at0 (o : Nat) : List PByte := bs.drop o
  let kept := keptOf g
  let acc := field bs 0x2E0 8
  let grpid := field bs 0 1 % 16
  let s0 := slotOf (at0 0x300) (acc % 2 ^ 32) (field bs 2 1) t grpid false kept.slot0
  let s1 := slotOf (at0 0x310) (acc / 2 ^ 32) (field bs 3 1) t grpid true kept.slot1
  let z := !s0.live && s1.live
  let mask : Lanes := BitVec.ofNat 96 (field bs (0x040 + 8 * 60) 4 + 2 ^ 32 * field bs (0x040 + 8 * 61) 4 + 2 ^ 64 * field bs (0x040 + 8 * 62) 4)
  let s0 := if z then s0 else { s0 with mask := mask }
  let s1 := if z then { s1 with mask := mask } else s1
  let ops := opsOf (field bs 0x2F0 8) kept.ops fresh
  let en := ops.filter (fun o => decide (o.cls = .en))
  let halt := field bs 0x0C 4
  let sregs := (eltsOf zeroReg (fun v p => ⟨BitVec.ofNat 64 v, p⟩) (at0 0x40) 8 64).filterMap (fun (p : Nat × SReg) =>
    if p.1 = 0 || p.1 = 58 then none
    else if 60 ≤ p.1 && decide (p.1 ≤ 62) then some (p.1, ⟨p.2.val.extractLsb' 32 32 ++ (0 : Word), p.2.poison⟩) else some p)
  let preds := (List.range 8).foldl (fun m i =>
    AMap.set zeroPred m i ⟨BitVec.ofNat 96 (field bs (0x240 + 16 * i) 12),
      if fieldPoison bs (0x240 + 16 * i) 16 then BitVec.allOnes 96 else 0⟩) []
  { absentGroup with
    team := g.team, grpid := grpid, grant := field bs 4 2, partition := g.partition, age := g.age, vbase := g.vbase,
    phase := if field bs 1 1 = 4 then .exited else .waiting,
    s := sregs.filter (fun p => decide (p.2 ≠ zeroReg)), p := preds,
    v := eltsOf zeroElt (fun v p => ⟨BitVec.ofNat 32 v, p⟩) (at0 0x4000) 4 (96 * regs),
    w := eltsOf zeroWin (fun v p => ⟨BitVec.ofNat 64 v, p⟩) (at0 0x400) 8 (96 * 4),
    wvalid := BitVec.ofNat 4 (field bs 7 1),
    c := (List.range (96 * 8)).foldl (fun m i => AMap.set closedCursor m i (if (field bs 6 1).testBit (i / 96) then cursorOfBytes ((at0 (0x1000 + 16 * i)).take 16) else closedCursor)) [],
    fpst := BitVec.ofNat 5 (field bs 0x2C0 8),
    satf := setMaskWord (setMaskWord (setMaskWord 0 0 (BitVec.ofNat 32 (field bs 0x2C8 4))) 1 (BitVec.ofNat 32 (field bs 0x2D0 4))) 2
      (BitVec.ofNat 32 (field bs 0x2D8 4)),
    idempc := BitVec.ofNat 64 (field bs 0x2E8 8) &&& idemMask,
    room := BitVec.ofNat 12 (field bs 0x2F8 8 / 2 ^ 52), ptr := BitVec.ofNat 48 (field bs 0x2F8 8 / 16),
    drecs := [], dbelow := kept.recs, dmeta := kept.dmeta, slot0 := s0, slot1 := s1,
    rstack := ((List.range (min 8 (field bs 8 1))).map (fun i =>
      (⟨BitVec.ofNat 16 (field bs (0x384 + 8 * i) 2), field bs (0x380 + 8 * i) 4⟩ : RetEnt))).reverse,
    laneq := (List.range 4).filterMap (fun i => blockOf (at0 (0x320 + 16 * i)) kept.blocks[i]? s0.mask)
      ++ (kept.blocks.drop 4).map (fun b => { b with islot := 32 }),
    ops := ops,
    engq := (List.range 4).filterMap (fun i => cmdOf (eng.drop (64 * i)) ((en[i]?.map (·.id)).getD 0) kept.engq[i]?),
    skid := field bs 9 1, haltslot := decide (field bs 0x0A 1 = 1),
    haltpc := if halt = 0 then none else some (BitVec.ofNat 16 (halt / 2 ^ 14), halt % 2 ^ 14),
    trapcls := field bs 0x10 1, trapsub := field bs 0x11 1, primary := decide (field bs 0x12 1 = 1),
    lastpos := g.lastpos, lastslot := g.lastslot, replay := replayOf (at0 0x360),
    restart := kept.restart }

end Sys2Proof.Machine
end

