-- ==== Sys2Proof/Machine/Traps.lean ====
section
/-!
DEFINITION. How a group stops and ends (R105, R121, R125), restarts at its region entry (R399), and leaves a trap
handler (R253, R401).
-/
namespace Sys2Proof.Machine

/-! ## RETT (R253) -/

/-- The group that runs its team's handler (R402). -/
def inHandler (s : State) (k : Nat) : Bool :=
  decide ((s.teamOf k).state = .handler) && decide ((s.teamOf k).primgrp = some (s.grp k).grpid)

/-- RETT: ILLOP, UNDEFVAL outside a handler and for any other action, before the poison of its register (R255). -/
def execRett (a : SIndex) (s : State) : Out :=
  issueScalar (.rett a) { rd := [a.toNat] } s fun s =>
    let k := s.cur.grp
    let x := rs s a
    let undef : Out := .next (trapScalar s .illop (illopCode .undefval) { illopInfo s with data := s.cur.word.setWidth 64 &&& 0xFFFFFFFF })
    if !inHandler s k || decide (2 < x.val.toNat) then undef
    else if !(s.grp k).quiet then .next (waitFor s .counter)
    else if x.poison then poisonScalar s 4
    else match x.val.toNat with
      | 0 => .next (returnFromTrap (advance (foldWord s)) k false)
      | 1 => .next (returnFromTrap (advance (foldWord s)) k true)
      | _ => .next (abortFromTrap (advance (foldWord s)) k)

/-! ## Stopping and ending -/

/-- GROUP_HALT: group a, in its skid, stops; its header names its last instruction (R121). -/
def execGroupHalt (s : State) : Out :=
  let k := s.cur.a
  let g := s.grp k
  if g.phase = .stopping then
    .next (s.setGrp k { g with phase := .halted, haltpc := some g.lastpos, haltslot := g.lastslot })
  else .next (notOffered s)

/-- The slot of a group that waits with EXITDRAIN. -/
def draining (g : Group) : Bool :=
  (g.slot0.live && decide (g.slot0.reason = .exitdrain)) || (g.slot1.live && decide (g.slot1.reason = .exitdrain))

/-- A group that has ended: its place and registers are free. -/
def exitedGroup (g : Group) : Group :=
  { absentGroup with phase := .exited, team := g.team, grpid := g.grpid, partition := g.partition, age := g.age }

/-- EXIT_COMPLETE: the EXIT of group a completes once its lane queue is empty and its counters are zero (R105). -/
def execExitComplete (s : State) : Out :=
  let k := s.cur.a
  let g := s.grp k
  let t := s.teamOf k
  let here := match t.state with
    | .running | .halting | .handler => decide (g.phase = .running) && !t.preempt
    | _ => false
  if here && draining g && g.laneq.isEmpty && g.quiet then .next (s.setGrp k (exitedGroup g)) else .next (notOffered s)

/-- Every live slot of the group waits, and in `parked` whether all of them are parked. -/
def slotsWait (g : Group) (test : Reason → Bool) : Bool :=
  (!g.slot0.live || test g.slot0.reason) && (!g.slot1.live || test g.slot1.reason)

/-- No group of those issues: every slot waits, has its word kept back or is parked, and no lane word can be offered. -/
def noneIssues (s : State) (ks : List Nat) : Bool :=
  ks.all (fun k =>
    let g := s.grp k
    let idle (sl : PcSlot) : Bool := !sl.live || decide (sl.reason ≠ .none) || sl.kept
    idle g.slot0 && idle g.slot1 && !headOffered s k)

/-- A team's watchdog may have run out: no group of it issues, and not every slot is parked (R125; log 3). A team that is placed or
pre-empted issues nothing. -/
def watchdogDue (s : State) (t : Nat) : Bool :=
  let ks := liveGroups s t
  let x := s.team t
  let ks := if x.state = .handler then ks.filter (fun k => decide (x.primgrp = some (s.grp k).grpid)) else ks
  let still := match x.state with
    | .placed => true
    | .running => x.preempt || noneIssues s ks
    | .handler => noneIssues s ks
    | _ => false
  s.regs.wdogEn && still && !ks.isEmpty && !(ks.all (fun k => slotsWait (s.grp k) Reason.isParked))

/-- The position of a group's last instruction. -/
def lastInfo (s : State) (k : Nat) : TrapInfo :=
  let g := s.grp k
  { ovlid := g.lastpos.1, off := g.lastpos.2, second := g.lastslot, widx := 0xFFFF, addr := 0, data := 0, dpois := false, lanes := 0 }

/-- WATCHDOG_EXPIRE: team a traps WATCHDOG; the lowest GRPID that has not exited is primary (R125). -/
def execWatchdogExpire (s : State) : Out :=
  let t := s.cur.a
  let x := s.team t
  if !watchdogDue s t then .next (notOffered s)
  else match liveGroups s t with
    | [] => .next (notOffered s)
    | p :: _ =>
      if x.state = .handler then
        let k := groupKey t (x.primgrp.getD 0)
        .next (takeTrap s k .watchdog 0 (lastInfo s k))
      else
        let s := s.report (trapRec s p 3 9 0 (lastInfo s p) true)
        let s := (liveGroups s t).foldl (fun s k => s.modGrp k (fun g =>
          { g with phase := .halted, haltpc := some g.lastpos, haltslot := g.lastslot, skid := 0, trapcls := 9, trapsub := 0,
                   primary := decide (k = p) })) s
        .next (s.modTeam t (fun x => { x with state := .halting, primgrp := some (s.grp p).grpid }))

/-! ## Restart (R399) -/

/-- MASK of a record (R116). -/
def recMask : DRec → Lanes
  | .side m _ _ | .joinM m _ _ | .joinA m _ => m
  | .waitB t b => (b.setWidth 80 : BitVec 80) ++ t

/-- The records a restart pops. -/
def restartPops (g : Group) : Nat := (idemEroom g.idempc).toNat - g.room.toNat

/-- The entry mask (R399 step 3): the mask of the lowest popped record, from chip or from memory; with none popped, the
live slot's. -/
def entryMask (s : State) (k : Nat) : Access Lanes :=
  let g := s.grp k
  let n := restartPops g
  if n = 0 then .ok (if g.slot0.live then g.slot0.mask else g.slot1.mask) s
  else match g.drecs[n - 1]? with
    | some r => .ok (recMask r) s
    | none =>
      match peek s (s.asidOf k) (ptrAddr (g.ptr - BitVec.ofNat 48 n)) 12 with
      | .ok bs s => .ok (BitVec.ofNat 96 (pvalue bs)) s
      | .fault kind va s => .fault kind va s
      | .away s => .away s

/-- Steps 3 to 5: the stack at entry depth, slot 0 alone at ENTRY; a restart of R399, unlike one of RETT, sets USED and
writes its record. -/
def enterRegion (s : State) (k : Nat) (m : Lanes) : State :=
  let g := s.grp k
  let n := restartPops g
  let s := match g.restart with
    | some r => s.report r
    | none => s
  s.setGrp k
    { g with
      phase := .running, restart := none, stackHeld := false, drecs := g.drecs.drop n, dmeta := g.dmeta.drop n, dbelow := g.dbelow - (n - g.drecs.length),
      room := idemEroom g.idempc, ptr := g.ptr - BitVec.ofNat 48 n,
      idempc := if g.restart.isSome then g.idempc ||| ((1 : DWord) <<< 62) else g.idempc,
      slot0 := { deadSlot with live := true, mask := m, ovlid := idemOvlid g.idempc, pc := idemOff g.idempc, entered := false,
                               resumeAs := .ovlrestore, sigskip := true },
      slot1 := deadSlot }

/-- RESTART_ENTRY: group a, its counters zero, resumes at its region's entry (R399). -/
def execRestartEntry (s : State) : Out :=
  let k := s.cur.a
  let g := s.grp k
  let z := !g.slot0.live
  if g.phase ≠ .restarting || decide ((s.teamOf k).state ≠ .running) || g.stackWait.isSome || (g.restart.isSome && !g.quiet) then
    .next (notOffered s)
  else match entryMask s k with
    | .ok m s => .next (enterRegion s k m)
    | .away s =>
      let fill (sl : PcSlot) : PcSlot := if sl.live then { sl with reason := .dsfill } else sl
      .next (notOffered (s.modGrp k (fun g => { g with slot0 := fill g.slot0, slot1 := fill g.slot1 })))
    | .fault kind va s =>
      match stackFault s k kind va with
      | .later s => .next (notOffered s)
      | .full s => .next (notOffered (settleStack (.full s) k z (lastInfo s k)))
      | r => .next (settleStack r k z { lastInfo s k with ovlid := (g.slot z).ovlid, off := (g.slot z).pc, second := z })

end Sys2Proof.Machine
end

