-- ==== Sys2Proof/Machine/Save.lean ====
section
/-!
DEFINITION. Stopping a team for pre-emption, writing its image, and what follows (R80, R81, R115, R121–R124, R144, R171,
R309, R363–R365, R401, R402, R404).
-/
namespace Sys2Proof.Machine

/-! ## What has to end before an image is written (R81, R123, R363) -/

/-- Operations other than engine commands that have not retired. -/
def openOps (g : Group) : List OutOp := g.ops.filter (fun o => decide (o.cls ≠ .en))

/-- The command stands at an interrupt point (R316). -/
def atInterrupt (c : EngCmd) : Bool :=
  !c.finished && !c.asked && decide (c.inflight = 0) && c.stop.isNone && !(c.started && (match c.part with
    | some (.tzero, _) | some (.tres, _) => true
    | _ => false))

/-- The one word that may stay parked, or wait to be issued again from a replay record. -/
def parkedOp (g : Group) : Option OutOp :=
  match openOps g with
  | [o] => if (o.parked && decide (o.cls ≠ .cp)) || g.replay.isSome then some o else none
  | _ => none

/-- Nothing of the parked word is left in flight: its faulted lanes are withdrawn. -/
def withdrawn (s : State) (k op : Nat) : Bool :=
  let g := s.grp k
  !(g.loads.any (fun l => decide (l.op = op))) && !(g.fetches.any (fun f => decide (f.op = op)))
    && !(g.syncs.any (fun y => decide (y.op = op))) && !(s.greqs.any (fun r => decide (r.grp = k) && decide (r.op = op)))

/-- The group has come to rest (R81): no operation left but commands at interrupt points and one withdrawn word. -/
def settled (s : State) (k : Nat) : Bool :=
  let g := s.grp k
  let word := match openOps g with
    | [] => true
    | _ => (match parkedOp g with | some o => withdrawn s k o.id | none => false)
  word && g.engq.all (fun c => atInterrupt c && (c.waitPage.isSome || !s.unitReqs.any (fun r => decide (r.key = c.op))))
    && g.stackWait.isNone && !g.stackHeld
    && slotsWait g (fun r => decide (r ≠ .dsfill)) && g.sbusy.all (fun b => decide (b.op = 0) || g.ops.any (fun o => decide (o.id = b.op)))
    && !(s.queueOps.any (fun q => decide (q.grp = k)))

/-! ## Withdrawing (R309, R363) -/

/-- The replay record takes lanes of the parked word. -/
def addReplay (g : Group) (o : OutOp) (m : Lanes) : Group :=
  let old := match g.replay with
    | some (n, _, _, _) => n
    | none => 0
  { g with replay := some (old ||| m, (o.ovlid, o.off), o.widx, o.second) }

/-- A graph request withdrawn before its linearisation; a reservation it holds is cancelled first. -/
def withdrawReq (s : State) (r : GReq) : State :=
  let s := unitDone s r.id
  match r.stage with
  | .reserved =>
    let (s, n) := numberIn (passNum s r) r.asid r.gid r.srcUnit r.other
    hopGraph (setReq s r.id (fun r => { r with inNum := n, status := gWithdrawn, waitPage := none })) r.id r.srcUnit
      (graphOwner r.gid r.other) .cancel
  | .outDone | .cancel => s
  | .inRank => { s with greqs := s.greqs.filter (fun y => decide (y.id ≠ r.id)) }
  | .asked => { passIn (passNum s r) r with greqs := s.greqs.filter (fun y => decide (y.id ≠ r.id)) }
  | _ => { passNum s r with greqs := s.greqs.filter (fun y => decide (y.id ≠ r.id)) }

/-- The faulted lanes of a parked word go into the replay record, once every other part of it is answered; `none` when
there is nothing to withdraw now. -/
def withdraw (s : State) (k : Nat) : Option State :=
  let g := s.grp k
  match parkedOp g with
  | none => none
  | some o =>
    let reqs := s.greqs.filter (fun r => decide (r.grp = k) && decide (r.op = o.id) && r.waitPage.isSome
      && decide (r.stage ≠ .outDone) && decide (r.stage ≠ .cancel))
    let fs := g.fetches.filter (fun f => decide (f.op = o.id))
    let lds := g.loads.filter (fun l => decide (l.op = o.id))
    let sys := g.syncs.filter (fun y => decide (y.op = o.id))
    if !reqs.isEmpty then
      some (reqs.foldl withdrawReq (s.setGrp k (addReplay g o (maskOf (reqs.map (·.lane))))))
    else if fs.isEmpty || !(fs.all (fun f => f.faulted.isSome)) then none
    else if !(s.greqs.any (fun r => decide (r.grp = k) && decide (r.op = o.id))) || !lds.isEmpty || !sys.isEmpty then
      let m := maskOf (lds.flatMap (fun l => l.pieces.filterMap (fun p => if p.whole && !l.dest.byStep then none else some p.lane)))
      let g := addReplay g o m
      let s := s.setGrp k { g with fetches := g.fetches.filter (fun f => decide (f.op ≠ o.id)), loads := g.loads.filter (fun l => decide (l.op ≠ o.id)),
                                   syncs := g.syncs.filter (fun y => decide (y.op ≠ o.id)) }
      let s := { s with greqs := s.greqs.filter (fun r => !(decide (r.grp = k) && decide (r.op = o.id))) }
      some (s.modCore (s.coreOf k) (fun c => { c with actReqs := c.actReqs.filter (fun a => decide (a.2.1 ≠ o.id)) }))
    else none

/-- Offers of the team's XSHFLs that no partner has taken are withdrawn, and their words are not issued; offers held for
the team are refused (R309). -/
def withdrawOffers (s : State) (t : Nat) : Option State :=
  let mine := s.offers.filter (fun y => decide ((s.grp y.grp).team = t) && !y.completed && decide (y.place ≠ 3))
  let held := s.offers.filter (fun y => decide (y.place = 1)
    && (match partnerGroup s y with | some (u, _) => decide (u = t) | none => false))
  if mine.isEmpty && held.isEmpty then none
  else
    let s := mine.foldl (fun s y => s.modGrp y.grp (fun g =>
      { g with ops := g.ops.filter (fun o => decide (o.id ≠ y.op)), laneStall := none, lbusy := g.lbusy.filter (fun b => decide (b.id ≠ y.op)) })) s
    let gone := mine.map (·.op)
    let refused := held.map (·.op)
    some { s with offers := (s.offers.filter (fun y => !gone.contains y.op)).map (fun y => if refused.contains y.op then { y with place := 2 } else y) }

/-! ## Writing the image -/

/-- Divergence records on chip go to their places (R115). -/
def flushRecs (s : State) (k : Nat) : StackRes :=
  let g := s.grp k
  let n := g.drecs.length
  (List.range n).foldl (fun r i =>
    match r with
    | .ok s =>
      (match poke s (s.asidOf k) (ptrAddr (g.ptr - BitVec.ofNat 48 (i + 1))) ((recordBytes (g.drecs[i]?.getD (.joinA 0 false))).map (fun b => ⟨b, false⟩)) with
       | .ok _ s => .ok s
       | .away s => .later s
       | .fault kind va s => stackFault s k kind va)
    | r => r) (.ok s)

/-- A record that cannot be stored is lost: the group traps DIVG, sub-code 8 (R364). -/
def loseRecs (s : State) (k : Nat) : State :=
  takeTrap (s.modGrp k (fun g => { g with drecs := [] })) k .divg 8 (lastInfo s k)

/-- The image of a team cannot be written or read (R365): its context faults, SUB 0x08. -/
def imageFails (s : State) (t : Nat) : State :=
  let x := s.team t
  contextFault s x.asid 8 x.teamid 0

/-- A group keeps beside its image what the image has no place for (log 35). -/
def besideOf (g : Group) : Beside :=
  { slot0 := g.slot0, slot1 := g.slot1, blocks := g.laneq, ops := g.ops.map (fun o => { o with parked := false }), engq := g.engq,
    recs := g.drecs.length + g.dbelow, dmeta := g.dmeta, cursors := g.c, restart := g.restart }

/-- Slots whose phase is complete are ready before the image is written (R181). -/
def releaseWaiters (s : State) (t : Nat) : State :=
  (liveGroups s t).foldl (fun s k => releaseWaiter (releaseWaiter s k false) k true) s

def keepBeside (s : State) (t : Nat) : State :=
  (teamGroups s t).foldl (fun s k => s.modGrp k (fun g => if g.phase = .exited then g else { g with beside := some (besideOf g) })) s

/-- A team's tiles, banks, ways and pins are free; its groups' registers and places are (R22, R105, R144). -/
def freeTeam (s : State) (t : Nat) : State :=
  let x := s.team t
  let bs := (teamBanks s t).map (·.1)
  let s := s.modCore x.core (fun c =>
    bs.foldl (fun (c : Core) b => { (c.clearTile b) with banks := AMap.put c.banks b freeBank }) c)
  s.setTeam t { x with tiles := [], pins := 0 }

/-- What the engines have asked for commands of the team, which stop at a page, is given up (R318). -/
def dropAsked (s : State) (t : Nat) : State :=
  { s with unitReqs := s.unitReqs.filter (fun r => !(decide (4000 ≤ r.who) && decide ((s.grp r.grp).team = t))) }

/-- The saved team leaves its core; what is left of it is its image, and what is kept beside it. -/
def leaveCore (s : State) (t : Nat) : State :=
  let s := freeTeam (dropAsked s t) t
  let s := (teamGroups s t).foldl (fun s k => s.modGrp k (fun g =>
    { absentGroup with phase := if g.phase = .exited then .exited else .saved, team := g.team, grpid := g.grpid, beside := g.beside,
                       lastpos := g.lastpos, lastslot := g.lastslot })) s
  s.modTeam t (fun x => { x with state := .saved, ways := [], preempt := false, waitPage := none })

/-- A fault of an access of the team's image (R365). -/
def imageFault (s : State) (t kind va : Nat) (fails : State → State) : Out :=
  let x := s.team t
  if kind = walkError then .next (walkFatal s x.asid va)
  else if kind = notMapped then
    match reportPage s x.asid va kind ⟨x.teamid, 0⟩ with
    | some s => .next (s.modTeam t (fun x => { x with waitPage := some (va / 2 ^ 16 * 2 ^ 16) }))
    | none => .next (notOffered s)
  else .next (fails s)

/-- Dirty lines of the team's context that the core has still to write back (R171). -/
def linesToClean (s : State) (c asid : Nat) : List Nat := (linesAt s c asid (fun _ => true)).filter (unclean s c asid)

/-- The records of the team's groups are stored, one group after another. -/
def flushTeam (s : State) : List Nat → Out ⊕ State
  | [] => .inr s
  | k :: ks =>
    match flushRecs s k with
    | .ok s => flushTeam s ks
    | .later s | .full s => .inl (.next (notOffered s))
    | .page p s => .inl (.next (s.modGrp k (fun g => { g with stackWait := some p })))
    | .lost s => .inl (.next (loseRecs s k))

/-- The team's image is written once everything is at rest: withdrawals, then the core's dirty lines, then the divergence
records, then the image; `fin` is what follows. -/
def saveTeam (s : State) (t : Nat) (fin : State → State) : Out :=
  let x := s.team t
  let ks := liveGroups s t
  if ks.isEmpty || x.waitPage.isSome || ks.any (fun k => decide ((s.grp k).phase = .stopping)) then .next (notOffered s)
  else match withdrawOffers s t with
    | some s => .next s
    | none =>
      match ks.findSome? (withdraw s) with
      | some s => .next s
      | none =>
        if !(ks.all (settled s)) then .next (notOffered s)
        else
          let ls := linesToClean s x.core x.asid
          if !ls.isEmpty then
            let (s, _, sent) := cleanStep s x.core x.asid ls
            if sent then .next s else .next (notOffered s)
          else match flushTeam s ks with
            | .inl o => o
            | .inr s =>
              let s := releaseWaiters s t
              match poke s x.asid (imageOf s t) (imageBytes s t) with
              | .ok _ s => .next (fin (keepBeside s t))
              | .away s => .next (notOffered s)
              | .fault kind va s =>
                imageFault s t kind va (fun s => imageFails (leaveCore (keepBeside s t) t) t)

/-- TEAM_IMAGE_WRITE: team a, pre-empted or of a faulting context, has its image written and leaves its core (R81). -/
def execTeamImageWrite (s : State) : Out :=
  let t := s.cur.a
  let x := s.team t
  match x.state with
  | .saving => saveTeam s t (fun s => leaveCore s t)
  | .running => if x.preempt then saveTeam s t (fun s => leaveCore s t) else .next (notOffered s)
  | _ => .next (notOffered s)

/-! ## The halted team (R401, R402) -/

/-- The key of a team's primary group. -/
def primaryOf (s : State) (t : Nat) : Nat := groupKey t ((s.team t).primgrp.getD 0)

/-- Clean lines of an address range leave a core's L1. -/
def dropRange (s : State) (c asid a n : Nat) : State :=
  (linesOf a n).foldl (fun s l => dropClean s c asid l) s

/-- HANDLER_ENTRY (R402): the primary group starts the handler where it halted. -/
def enterHandler (s : State) (t : Nat) : State :=
  let x := s.team t
  let n := s.kernel x.kernel
  let k := primaryOf s t
  let g := s.grp k
  let s := dropRange (dropAsked s t) x.core x.asid (imageOf s t) (imgSize n)
  let g := { g with
    phase := .running, restart := none, replay := none, laneq := [], laneStall := none, laneRej := none, ops := [], engq := [], sbusy := [], lbusy := [],
    slot0 := { deadSlot with live := true, mask := BitVec.allOnes 96, ovlid := n.entovl, pc := idemHoff g.idempc, entered := false,
                             resumeAs := .ovlrestore, sigskip := true },
    slot1 := { deadSlot with sigskip := true } }
  let g := g.writeS false 2 ⟨BitVec.ofNat 64 (imageOf s t), false⟩
  let g := g.writeS false 3 ⟨BitVec.ofNat 64 (g.trapcls + 2 ^ 8 * g.trapsub + 2 ^ 16 * g.grpid), false⟩
  (s.setGrp k g).modTeam t (fun x => { x with state := .handler, kHalt := false })

/-- HEN of the team's primary group. -/
def hasHandler (s : State) (t : Nat) : Bool := idemHen (s.grp (primaryOf s t)).idempc

/-- TEAM_HALT_COMPLETE: the image of halted team a is complete: the handler is entered, or the context faults; a team
that a pre-emption request has reached is saved and leaves for its handler when it is restored (R124, R401). -/
def execTeamHaltComplete (s : State) : Out :=
  let t := s.cur.a
  let x := s.team t
  if x.state ≠ .halting then .next (notOffered s)
  else
    let s := if x.preempt then s.setTeam t { x with kHalt := true } else s
    saveTeam s t fun s =>
      if !hasHandler s t then
        contextFault (leaveCore s t) x.asid 2 x.teamid (x.primgrp.getD 0)
      else if x.preempt then leaveCore s t
      else enterHandler s t

/-! ## Pre-emption requests (R123, R124) -/

/-- A placed team gives its place back before its gang start: it is unplaced again, or as saved as it was. -/
def unplace (s : State) (t : Nat) : State :=
  let x := s.team t
  if (teamGroups s t).any (fun k => (s.grp k).beside.isSome) then
    (leaveCore s t).modTeam t (fun x => { x with asked := false })
  else
    let s := freeTeam s t
    { s with groups := s.groups.filter (fun p => decide (p.2.team ≠ t)), teams := AMap.del s.teams t }.modKernel x.kernel
      (fun n => { n with placed := n.placed - 1, back := if n.back.contains x.clusid then n.back else n.back ++ [x.clusid] })

/-- Placed teams of the same cluster. -/
def placedMembers (s : State) (t : Nat) : List Nat :=
  let x := s.team t
  (s.teams.filter (fun p => decide (p.2.kernel = x.kernel) && decide (p.2.clusid = x.clusid) && decide (p.2.state = .placed))).map (·.1)

/-- PREEMPT_REQUEST: the request reaches team a's partitions: its groups issue no more, or its cluster's placement is
withdrawn; in Handler it waits for RETT. -/
def execPreemptRequest (s : State) : Out :=
  let t := s.cur.a
  let x := s.team t
  if !x.asked then .next (notOffered s)
  else match x.state with
    | .running | .halting => .next (s.setTeam t { x with preempt := true, asked := false })
    | .placed => .next ((placedMembers s t).foldl unplace s)
    | _ => .next (notOffered s)

end Sys2Proof.Machine
end

