-- ==== Sys2Proof/Machine/Place.lean ====
section
/-!
DEFINITION. Placing teams and clusters on cores (R22, R28, R98, R102–R106), the split of a core's array (R372–R374), the
gang start (R96, R104), and the end of teams (R105).
-/
namespace Sys2Proof.Machine

/-! ## What a core holds -/

/-- Teams whose registers, places and tiles are on a core. -/
def teamsOn (s : State) (c : Nat) : List (Nat × Team) :=
  s.teams.filter (fun p => decide (p.2.core = c) && decide (p.2.state ≠ .absent) && decide (p.2.state ≠ .saved) && decide (p.2.state ≠ .retired))

/-- Scratch ways in use on a core: retired teams keep theirs until their cluster retires (R105). -/
def waysUsed (s : State) (c : Nat) : List Nat := (s.teams.filter (fun p => decide (p.2.core = c))).flatMap (fun p => p.2.ways)

def tilesGranted (s : State) (c : Nat) : List Nat := (teamsOn s c).flatMap (fun p => p.2.tiles)

/-- No team, and no scratch of a cluster that has not retired (R373). -/
def coreEmpty (s : State) (c : Nat) : Bool := (teamsOn s c).isEmpty && (waysUsed s c).isEmpty

def residentGroups (s : State) (c : Nat) : Nat := ((List.range 16).map (fun p => (residents s (16 * c + p)).length)).sum

/-- Ways a context's teams hold on a core (R73). -/
def scratchHeld (s : State) (c asid : Nat) : Nat := ((s.teams.filter (fun p => decide (p.2.core = c) && decide (p.2.asid = asid))).flatMap (fun p => p.2.ways)).length

def liveCores (s : State) : List Nat := (List.range 192).filter (fun c => !(s.core c).offline)

/-! ## How many teams fit (R98, R373) -/

/-- The group and tile terms of R98. -/
def groupTerm (n : Kernel) : Nat :=
  let g := 16 * min 8 (512 / n.regs) / n.groups
  if n.tiles = 0 then g else min g (16 / n.tiles)

/-- C. -/
def teamsPerCore (n : Kernel) (scrq : Nat) : Nat :=
  if n.ways = 0 then groupTerm n else min (groupTerm n) (min 18 scrq / n.ways)

/-- W for a team placed on an empty core (R373). -/
def splitOf (n : Kernel) : Nat := min 18 (n.ways * groupTerm n)

/-! ## One team on one core (R102) -/

/-- Occupied register runs of a partition. -/
def runsIn (s : State) (p : Nat) : List (Nat × Nat) := (residents s p).map (fun k => ((s.grp k).vbase, (s.grp k).grant))

/-- The lowest free run of n registers. -/
def freeRun (rs : List (Nat × Nat)) (n : Nat) : Option Nat :=
  let ok (b : Nat) : Bool := decide (b + n ≤ 512) && rs.all (fun r => decide (b + n ≤ r.1) || decide (r.1 + r.2 ≤ b))
  (sortBy (fun x y => decide (x < y)) ((0 :: rs.map (fun r => r.1 + r.2)).filter ok)).head?

/-- The partition for a group: most free registers among those with a place and a run; the lowest number wins a tie. -/
def partitionFor (s : State) (c n : Nat) : Option (Nat × Nat) :=
  let cands := (List.range 16).filterMap (fun p =>
    if 8 ≤ (residents s (16 * c + p)).length then none
    else (freeRun (runsIn s (16 * c + p)) n).map (fun b => (((runsIn s (16 * c + p)).map (·.2)).sum, p, b)))
  (cands.foldl (fun (best : Option (Nat × Nat × Nat)) x =>
    match best with
    | none => some x
    | some y => if x.1 < y.1 then some x else some y) none).map (·.2)

/-- The groups of a team take their places in ascending GRPID; `mk` makes the group of a place. -/
def placeGroups (s : State) (c n : Nat) (mk : Nat → Group) : List Nat → Option State
  | [] => some s
  | k :: ks =>
    match partitionFor s c n with
    | none => none
    | some (p, b) =>
      let age := (s.core c).ageNext
      let g := { mk k with partition := p, age := age, vbase := b, grant := n, skip := 0 }
      placeGroups ((s.setGrp k g).modCore c (fun q => { q with ageNext := age + 1 })) c n mk ks

/-- The state of R96. -/
def freshGroup (n : Kernel) (t grpid : Nat) : Group :=
  { absentGroup with
    phase := .waiting, team := t, grpid := grpid,
    s := if n.karg = 0 then [] else [(1, ⟨n.karg, false⟩)],
    slot0 := { deadSlot with live := true, mask := BitVec.allOnes 96, pc := n.entoff, ovlid := n.entovl, entered := false,
                             resumeAs := .ovlrestore } }

/-- Free scratch ways of a core under a split: ways 20 − W to 19. -/
def freeWays (s : State) (c w : Nat) : List Nat := ((List.range w).map (fun i => 20 - w + i)).filter (fun x => !(waysUsed s c).contains x)

/-- The split a team needs on a core: a new one where the core is empty. -/
def splitFor (s : State) (c : Nat) (n : Kernel) : Nat := if coreEmpty s c then splitOf n else (s.core c).split

/-- Shadow banks of a core no group holds. -/
def freeBanks (s : State) (c : Nat) : List Nat := [16, 17, 18, 19].filter (fun b => decide (((s.core c).bank b).owner = none))

/-- Team t of a kernel on core c (R22, R102): its groups' places, T tiles, S ways; `none` where the core cannot take it.
`claimed` banks must be free; groups that exited before a save stay so. -/
def placeTeam (s : State) (n : Kernel) (t : Nat) (x : Team) (claimed : Nat) (mk : Nat → Group) (c : Nat) : Option State :=
  let q := s.core c
  let w := splitFor s c n
  let tiles := (List.range 16).filter (fun i => !(tilesGranted s c).contains i)
  let ways := freeWays s c w
  if q.offline || (q.draining && !coreEmpty s c) || tiles.length < n.tiles || ways.length < n.ways
      || decide ((s.ctx n.asid).scrq < scratchHeld s c n.asid + n.ways) || decide ((freeBanks s c).length < claimed)
      || (match q.newSplit with | some v => decide (v ≠ w) || !coreEmpty s c | none => false) then none
  else
    let ks := ((List.range n.groups).map (groupKey t)).filter (fun k => decide ((mk k).phase ≠ .exited))
    let gone := ((List.range n.groups).map (groupKey t)).filter (fun k => decide ((mk k).phase = .exited))
    match placeGroups (s.setTeam t { x with core := c }) c n.regs mk ks with
    | none => none
    | some s =>
      let s := gone.foldl (fun s k => s.setGrp k (mk k)) s
      let ts := tiles.take n.tiles
      let s := s.modCore c (fun q => { ts.foldl (fun (q : Core) i => q.clearTile i) q with draining := false })
      some (s.setTeam t { x with state := .placed, core := c, tiles := ts, ways := ways.take n.ways, stamp := s.steps })

/-! ## Clusters (R103) -/

/-- Rectangles of at most 6 routers, in the order of choice: fewest routers, then north-west router, then widest; each
with the cores of its routers. -/
def rectangles : List (List Nat) :=
  [1, 2, 3, 4, 5, 6].flatMap (fun area => (List.range 96).flatMap (fun r =>
    let x := r % 12
    let y := r / 12
    [6, 5, 4, 3, 2, 1].filterMap (fun w =>
      if area % w ≠ 0 then none
      else
        let h := area / w
        if 12 < x + w || 8 < y + h then none
        else some ((List.range h).flatMap (fun j => (List.range w).flatMap (fun i =>
          let q := (y + j) * 12 + x + i
          [2 * q, 2 * q + 1])))))
  )

/-- The members of a cluster, each with what it needs. -/
structure Member where
  team : Nat
  rec0 : Team
  claimed : Nat
  make : Nat → Group

def fits (s : State) (n : Kernel) (m : Member) (c : Nat) : Bool := (placeTeam s n m.team m.rec0 m.claimed m.make c).isSome

/-- Members on the cores of a rectangle, ascending TEAMID on ascending cores that can take them. -/
def placeAlong (s : State) (n : Kernel) : List Member → List Nat → Option State
  | [], _ => some s
  | _ :: _, [] => none
  | m :: ms, c :: cs =>
    match placeTeam s n m.team m.rec0 m.claimed m.make c with
    | some s => placeAlong s n ms cs
    | none => placeAlong s n (m :: ms) cs

/-- R103: a cluster's place. -/
def placeCluster (s : State) (n : Kernel) (ms : List Member) : Option State :=
  match ms with
  | [m] =>
    if n.csize = 1 then
      let cs := (liveCores s).filter (fits s n m)
      match minBy (fun w => w.stamp) (cs.map (fun c => ⟨c, false, false, residentGroups s c * 256 + c, 0⟩)) with
      | some w => placeTeam s n m.team m.rec0 m.claimed m.make w.key
      | none => none
    else rectangles.findSome? (fun cs => placeAlong s n ms (sortBy (fun x y => decide (x < y)) cs))
  | ms => rectangles.findSome? (fun cs => placeAlong s n ms (sortBy (fun x y => decide (x < y)) cs))

def placeAll (s : State) (n : Kernel) : List (List Member) → Option State
  | [] => some s
  | ms :: rest =>
    match placeCluster s n ms with
    | some s => placeAll s n rest
    | none => none

/-! ## What a placement waits for -/

/-- Cores the teams went to. -/
def coresOf (s : State) (mss : List (List Member)) : List Nat := (mss.flatMap (fun ms => ms.map (fun m => (s.team m.team).core))).eraseDups

/-- Cores whose split has first to change (R373, R374): asked for, if not yet. -/
def askSplits (s : State) (n : Kernel) (cs : List Nat) : Option State :=
  let wrong := cs.filter (fun c => decide ((s.core c).split ≠ splitFor s c n))
  if wrong.isEmpty then none
  else some (wrong.foldl (fun s c => s.modCore c (fun q => { q with newSplit := some (splitFor s c n) })) s)

/-- A placement on cores goes on once their splits are right; until then the changes are asked for. -/
def withSplits (s : State) (n : Kernel) (cs : List Nat) (go : Out) : Out :=
  match askSplits s n cs with
  | none => go
  | some q =>
    if cs.all (fun c => (s.core c).newSplit.isSome || decide ((s.core c).split = splitFor s c n)) then .next (notOffered s) else .next q

/-- No core can take the team, and S exceeds the split of every core that is not offline: the core with the fewest
resident groups stops taking teams (R373). -/
def startDrain (s : State) (n : Kernel) : Option State :=
  let cs := liveCores s
  if cs.all (fun c => decide ((s.core c).split < n.ways)) && !(cs.any (fun c => (s.core c).draining)) && !(cs.any (fun c => coreEmpty s c)) then
    match minBy (fun w => w.stamp) (cs.map (fun c => ⟨c, false, false, residentGroups s c * 256 + c, 0⟩)) with
    | some w => some (s.modCore w.key (fun q => { q with draining := true }))
    | none => none
  else none

/-- Another COOP kernel is being dispatched: the cores it was admitted for are kept for it (R98). -/
def placementReserved (s : State) (kh : Nat) : Bool :=
  s.kernels.any (fun p => decide (p.1 ≠ kh) && p.2.coop && decide (p.2.state = .dispatching)
    && decide ((s.ctx p.2.asid).state = .active)
    && (let q := s.queue p.2.queue
        decide (q.kernel = p.1) && q.slot.isSome && !q.taken))

/-! ## Kernels' clusters -/

/-- Clusters placed so far, those withdrawn included. -/
def clustersBegun (n : Kernel) : Nat := n.placed / n.csize + n.back.length

/-- The next cluster to place: a withdrawn one first, the lowest number. -/
def nextCluster (n : Kernel) : Option Nat :=
  match (sortBy (fun x y => decide (x < y)) n.back).head? with
  | some c => some c
  | none => if clustersBegun n * n.csize < n.teams then some (clustersBegun n) else none

/-- A cluster's fresh teams. -/
def freshMembers (s : State) (kh : Nat) (clus : Nat) : List Member :=
  let n := s.kernel kh
  (List.range n.csize).map (fun i =>
    let teamid := clus * n.csize + i
    let t := s.nextId + teamid
    { team := t, claimed := 0, make := fun k => freshGroup n t (k % 16),
      rec0 := { absentTeam with asid := n.asid, kernel := kh, teamid := teamid, clusid := clus, groups := n.groups, grant := n.regs, kGang := gang n } })

/-- The clusters a placement takes at once: all of a COOP kernel, else the next (R98). -/
def clustersNow (n : Kernel) : List Nat :=
  if n.coop then
    n.back ++ (List.range (n.teams / n.csize)).filter (fun c => decide (clustersBegun n ≤ c))
  else (nextCluster n).toList

def membersNow (s : State) (kh : Nat) : List (List Member) := (clustersNow (s.kernel kh)).map (freshMembers s kh)

/-- The entry overlay's slot on a core, when it is there. -/
def entrySlot (s : State) (c : Nat) (n : Kernel) : Option Nat := heldSlot s c n.asid n.entovl .resident

/-! ## WAY_CONVERSION (R374) -/

/-- Every line of a context in core c, or on its way. -/
def allLines (s : State) (c : Nat) : List (Nat × Nat) :=
  ((s.core c).l1.map (fun (p : Nat × L1Line) => (p.1 / 2 ^ 45, p.1 % 2 ^ 45))
    ++ (s.fabric ++ s.arrived).filterMap (fun (m : Msg) => if m.requester = c then some (m.asid, m.line) else none)).eraseDups

/-- WAY_CONVERSION: core a's split changes once no copy writes a changing way: lines of ways that become scratch are
written back and dropped, scratch of ways that become L1 is discarded. -/
def execWayConversion (s : State) : Out :=
  let c := s.cur.a
  let q := s.core c
  match q.newSplit with
  | none => .next (notOffered s)
  | some w =>
    if !(teamsOn s c).isEmpty || (groupsOn s c).any (fun k => !(s.grp k).copies.isEmpty) then .next (notOffered s)
    else if q.split < w then
      let leaves (p : Nat × Nat) : Bool := match l1Line s c p.1 p.2 with | some x => decide (20 - w ≤ x.way) | none => true
      let ls := (allLines s c).filter (fun p => leaves p && unclean s c p.1 p.2)
      if ls.isEmpty then
        .next (s.modCore c (fun q => { q with l1 := q.l1.filter (fun p => decide (p.2.way < 20 - w)), split := w, newSplit := none }))
      else
        let send := ls.filter (fun p => match l1Line s c p.1 p.2 with | some x => decide (x.dirty ≠ 0) && !x.wb | none => false)
        if send.isEmpty then .next (notOffered s) else .next (send.foldl (fun s p => sendWriteBack s c p.1 p.2) s)
    else
      let drop (k : Nat) : Bool := decide (k / wayBytes < 20 - w)
      .next (s.modCore c (fun q =>
        { q with scratch := q.scratch.filter (fun p => !(drop p.1)), scratchPoison := q.scratchPoison.filter (fun p => !(drop (p.1 * 32))),
                 split := w, newSplit := none }))

/-! ## CLUSTER_GANG_START (R104) -/

/-- Members of a team's cluster by handle. -/
def membersOf (s : State) (t : Nat) : List Nat :=
  let x := s.team t
  (s.teams.filter (fun p => decide (p.2.kernel = x.kernel) && decide (p.2.clusid = x.clusid) && decide (p.2.state ≠ .absent))).map (·.1)

/-- A group becomes eligible: it enters the entry overlay when it is new, goes on as it was saved, or restarts its region
(R142, R399). -/
def startGroup (s : State) (k : Nat) : State :=
  let g := s.grp k
  if g.phase ≠ .waiting then s
  else match g.beside with
    | some _ => s.setGrp k { g with phase := if g.restart.isSome then .restarting else .running, beside := none }
    | none =>
      let s := s.setGrp k { g with phase := .running }
      let sl := g.slot0
      if sl.entered then touchEntry (s.modSlot k false (fun x => { x with ok := okWord s k sl.islot sl.ovlid })) (s.coreOf k) sl.islot else s

/-- A team starts; one whose image recorded a halt enters its handler (R124, R401). -/
def startTeam (s : State) (t : Nat) : State :=
  let x := s.team t
  if x.kHalt then
    let s := (liveGroups s t).foldl (fun s k => s.modGrp k (fun g => { g with phase := .halted })) s
    enterHandler s t
  else (liveGroups s t).foldl startGroup (s.setTeam t { x with state := .running })

/-- CLUSTER_GANG_START: every team of team a's cluster is placed; all become eligible together. -/
def execClusterGangStart (s : State) : Out :=
  let t := s.cur.a
  let x := s.team t
  let n := s.kernel x.kernel
  let ms := membersOf s t
  if x.state = .placed && decide (ms.length = n.csize)
      && ms.all (fun m => decide ((s.team m).state = .placed) || decide ((s.team m).state = .retired)) then
    .next ((ms.filter (fun m => decide ((s.team m).state = .placed))).foldl startTeam s)
  else .next (notOffered s)

/-! ## TEAM_RETIRE (R105) -/

/-- TEAM_RETIRE: every group of team a has exited and its wider arrivals are sent: its tiles, banks and pins are free, its scratch when its whole cluster
has retired; the kernel's last team leads to Completing. -/
def execTeamRetire (s : State) : Out :=
  let t := s.cur.a
  let x := s.team t
  if (decide (x.state = .running) || decide (x.state = .halting)) && (liveGroups s t).isEmpty && x.widerOut.isEmpty then
    let s := (freeTeam s t).modTeam t (fun x => { x with state := .retired, asked := false, preempt := false })
    let ms := membersOf s t
    let s := if ms.length = (s.kernel x.kernel).csize && ms.all (fun m => decide ((s.team m).state = .retired)) then
        ms.foldl (fun s m => s.modTeam m (fun x => { x with ways := [] })) s
      else s
    .next (s.modKernel x.kernel (fun n =>
      { n with retired := n.retired + 1,
               state := if decide (n.retired + 1 = n.teams) && decide (n.state = .running) then .completing else n.state }))
  else .next (notOffered s)

end Sys2Proof.Machine
end

