-- ==== Sys2Proof/Machine/Restore.lean ====
section
/-!
DEFINITION. Restoring a team from its image: after RETT in place (R401, R403), and after a save when the scheduler places
it (R78, R80, R84, R102, R123, R171, R329, R365, R397).
-/
namespace Sys2Proof.Machine

/-! ## What an image must say (R84) -/

/-- The header's fields against the launch: MAGIC, N, T, G, S, H. -/
def headerOk (n : Kernel) (bs : List PByte) : Bool :=
  decide (field bs 0 4 = 0x5A435449) && decide (field bs 0x0C 1 = n.groups) && decide (field bs 0x0D 1 = n.tiles)
    && decide (field bs 0x0E 2 = n.regs) && decide (field bs 0x10 1 = n.ways) && decide (field bs 0x11 1 = bankAreas n)

/-- Shadow-bank records marked CLAIMED: record, group, team tile, INIT (R329). -/
def claimedIn (t : Nat) (bs : List PByte) : List (Nat × Nat × Nat × Bool) :=
  (List.range 4).filterMap (fun i =>
    let o := 0x200 + 64 * i
    if field bs o 1 = 1 then some (i, groupKey t (field bs (o + 2) 1), field bs (o + 1) 1 % 16, decide (field bs (o + 4) 1 = 1)) else none)

/-! ## Taking an image (R84, R123, R329, R397) -/

/-- The team's fields of its header and barriers. -/
def teamFields (x : Team) (bs : List PByte) : Team :=
  (List.range 16).foldl (fun (x : Team) b => x.setBar b (barOf (bs.drop (0x100 + 16 * b))))
    { x with kHalt := decide (field bs 0x12 2 % 2 = 1), kHandler := decide (field bs 0x12 2 / 2 % 2 = 1),
             kGang := decide (field bs 0x12 2 / 4 % 2 = 1),
             primgrp := if field bs 0x14 1 = 0xFF then none else some (field bs 0x14 1) }

/-- Tiles, banks and scratch take the image's data; the banks of CLAIMED records are claimed for their groups. -/
def restoreArrays (s : State) (t : Nat) (bs : List PByte) : State :=
  let x := s.team t
  let n := s.kernel x.kernel
  let mine := (teamBanks s t).map (·.1)
  let s := s.modCore x.core (fun c => mine.foldl (fun (c : Core) b => { c with banks := AMap.put c.banks b freeBank }) c)
  let s := s.modCore x.core (fun c =>
    ((List.range n.tiles).zip x.tiles).foldl (fun c p => setTile c p.2 (bs.drop (0x2000 + p.1 * tileBytes))) c)
  let banks := (claimedIn t bs).zip (freeBanks s x.core)
  let s := s.modCore x.core (fun c => banks.foldl (fun (c : Core) p =>
    let d := setTile c p.2 (bs.drop (bankArea n + p.1.1 * tileBytes))
    { d with banks := AMap.put d.banks p.2 ⟨some (p.1.2.1, p.1.2.2.1), p.1.2.2.2⟩ }) c)
  scratchWrite s t (bytesAt 0 ((bs.drop (scratchArea n)).take (n.ways * wayBytes)))

/-- The core drops its clean lines of the context, and fills on their way install nothing (R171). -/
def dropContext (s : State) (c asid : Nat) : State :=
  let s := (linesAt s c asid (fun _ => true)).foldl (fun s l => dropClean s c asid l) s
  staleWhere s c asid (fun _ => true)

/-- The team takes its image; each group comes from its record, with what was kept beside it. -/
def takeImage (s : State) (t : Nat) (bs : List PByte) (group : Group → Group → Group) : State :=
  let s := s.modTeam t (fun x => teamFields x bs)
  let s := restoreArrays s t bs
  let x := s.team t
  let n := s.kernel x.kernel
  let s := (List.range n.groups).foldl (fun s i =>
    let k := groupKey t i
    let g := s.grp k
    let r := groupOf g x (bs.drop (groupArea n + i * groupBytes n)) (bs.drop (0x1000 + 256 * i)) n.regs s.nextId
    { (if g.phase = .exited then s else s.setGrp k (group g r)) with nextId := s.nextId + 384 }) s
  dropContext s x.core x.asid

/-- A group restored after RETT runs on, or restarts its region (R253). -/
def resumed (restart : Bool) (r : Group) : Group :=
  let r := { r with skid := 0, haltpc := none, haltslot := false, trapcls := 0, trapsub := 0, primary := false }
  if r.phase = .exited then r
  else if restart && idemOpen r.idempc then { r with phase := .restarting, restart := none }
  else { r with phase := if r.restart.isSome then .restarting else .running }

/-- RETT's restore of team t in place. -/
def restoreHere (s : State) (t : Nat) : Out :=
  let x := s.team t
  let n := s.kernel x.kernel
  let size := imgSize n
  let (s, rest, sent) := cleanStep s x.core x.asid (linesOf (imageOf s t) size)
  if x.waitPage.isSome then .next (notOffered s)
  else if !rest.isEmpty then (if sent then .next s else .next (notOffered s))
  else match peek s x.asid (imageOf s t) size with
    | .away s => .next (notOffered s)
    | .fault kind va s => imageFault s t kind va (fun s => imageFails (leaveCore s t) t)
    | .ok bs s =>
      if !headerOk n bs then .next (contextFault (leaveCore s t) x.asid 1 x.teamid 0)
      else
        let s := takeImage s t bs (fun _ r => resumed x.restartAll r)
        .next (s.modTeam t (fun x => { x with state := .running, restartAll := false, kHalt := false, kHandler := false, primgrp := none }))

/-! ## Placing saved teams (R78, R80, R102, R185) -/

/-- Teams restored together with team t, by cluster. -/
def restoredWith (s : State) (t : Nat) : List (List Nat) :=
  let x := s.team t
  let ts := s.teams.filter (fun p => decide (p.2.kernel = x.kernel) && decide (p.2.state ≠ .absent) && decide (p.2.state ≠ .retired)
    && ((s.kernel x.kernel).coop || decide (p.2.clusid = x.clusid)))
  let cs := sortBy (fun a b => decide (a < b)) (ts.map (fun (p : Nat × Team) => p.2.clusid)).eraseDups
  cs.map (fun c => sortBy (fun a b => decide ((s.team a).teamid < (s.team b).teamid))
    ((ts.filter (fun p => decide (p.2.clusid = c))).map (·.1)))

inductive Images where
  | ready (bs : List (Nat × List PByte)) (s : State)
  | stop (o : Out)

/-- The images of teams, read whole and checked. -/
def readImages (s : State) : List Nat → Images
  | [] => .ready [] s
  | t :: ts =>
    let x := s.team t
    let n := s.kernel x.kernel
    if x.waitPage.isSome then .stop (.next (notOffered s))
    else match peek s x.asid (imageOf s t) (imgSize n) with
      | .away s => .stop (.next (notOffered s))
      | .fault kind va s => .stop (imageFault s t kind va (fun s => imageFails s t))
      | .ok bs s =>
        if !headerOk n bs then .stop (.next (contextFault s x.asid 1 x.teamid 0))
        else match readImages s ts with
          | .ready r s => .ready ((t, bs) :: r) s
          | .stop o => .stop o

/-- A saved team as a member to place. -/
def savedMember (s : State) (imgs : List (Nat × List PByte)) (t : Nat) : Member :=
  let bs := ((imgs.find? (fun p => decide (p.1 = t))).map (·.2)).getD []
  { team := t, rec0 := s.team t, claimed := (claimedIn t bs).length,
    make := fun k =>
      let g := s.grp k
      if g.phase = .exited then g else { g with phase := .waiting } }

/-- The scheduler places the saved teams that go with team t, once cores can take them all. -/
def restoreSaved (s : State) (t : Nat) : Out :=
  let x := s.team t
  let n := s.kernel x.kernel
  let css := restoredWith s t
  if (s.ctx x.asid).state ≠ .active || decide (s.link = .contained) || placementReserved s x.kernel
      || !(css.flatten.all (fun u => decide ((s.team u).state = .saved))) then .next (notOffered s)
  else whenAwake s <| match readImages s css.flatten with
    | .stop o => o
    | .ready imgs s =>
      let mss := css.map (fun c => c.map (savedMember s imgs))
      match placeAll s n mss with
      | none =>
        match startDrain s n with
        | some s => .next s
        | none => .next (notOffered s)
      | some p =>
        withSplits s n (coresOf p mss)
          (.next (imgs.foldl (fun s i => takeImage s i.1 i.2 (fun g r => { r with beside := some (keptOf g) })) p))

/-- TEAM_RESTORE: team a is restored from its image. -/
def execTeamRestore (s : State) : Out :=
  let t := s.cur.a
  match (s.team t).state with
  | .restoring => restoreHere s t
  | .saved => restoreSaved s t
  | _ => .next (notOffered s)

end Sys2Proof.Machine
end

