-- ==== Sys2Proof/Machine/Ports.lean ====
section
/-!
DEFINITION. How the host reaches the device (R388, R391, R457, R459), and the scheduler's own writes (R95, R360).
-/
namespace Sys2Proof.Machine

/-! ## Host accesses -/

/-- An access of the host reaches the device while the link is Up (R391); in S1–S3 it starts the exit and takes effect when
the exit completes (R457). -/
def hostAccess (i : Instr) (s : State) (body : State → Out) : Out :=
  if s.link ≠ .up then .next (notOffered s)
  else if s.power ≠ 0 then
    .next { wake s with agenda := (.powerExitComplete, noSubject) :: (i, s.cur) :: s.agenda }
  else body s

/-- A posted write of the host is discarded until READY (R459). -/
def hostPosted (i : Instr) (s : State) (body : State → Out) : Out :=
  hostAccess i s (fun s => if s.regs.ready then body s else .next s)

/-- An access at the host port with nothing in it yet. -/
def blankPort : PortReq :=
  { id := 0, link := none, ctl := none, win := none, phys := false, valid := false, canWrite := false, asid := 0, va := 0, write := false,
    len := 0, data := [], atomic := none, src := 0, tag := 0 }

/-- A posted write of the host that came before this one is not performed yet; one that has waited for its turn looks no more. -/
def postedAhead (s : State) : Bool := !s.cur.replay && s.ports.any (fun r => r.link.isNone && r.write)

/-- Posted writes are performed in their order of arrival (R170, R390), and a read does not pass them (the PCIe ordering of R388): an
access to a control register behind such a write waits for its turn. -/
def inTurn (i : Instr) (s : State) (body : State → Out) : Out :=
  if postedAhead s then .next { s with ports := s.ports ++ [{ blankPort with ctl := some (i, { s.cur with replay := true }), write := true }] }
  else body s

/-- A write of the host to BAR0. -/
def hostWrite (i : Instr) (s : State) (body : State → Out) : Out := hostPosted i s (fun s => inTurn i s body)

/-- A read's completion, while the link is Up (R391). -/
def hostReply (s : State) (bs : List Byte) : State := s.emit (.completion bs)

/-- A read of a register with fields that clear: 0 until READY (R459). -/
def hostReadClear (i : Instr) (s : State) (value : State → DWord) (clear : State → State) : Out :=
  hostAccess i s fun s => inTurn i s fun s =>
    .next (if s.regs.ready then clear (hostReply s (leBytes 8 (value s).toNat)) else hostReply s (leBytes 8 0))

/-! ## Faults of accesses that are no group's -/

/-- An uncorrectable error in a page-table walk is fatal whoever asked (R413). -/
def faultNote (s : State) (asid kind va : Nat) : State := if kind = walkError then walkFatal s asid va else s

/-! ## Writes of the scheduler -/

/-- A write of the scheduler's of n bytes of one line. -/
def schedWord (asid a n v : Nat) : HeldWrite := ⟨asid, lineOf a, bytesAt (a % 128) (cleanBytes n v), none, notMapped⟩

/-- The scheduler's write is performed, or held at its slice for its page; `none` with the state while its line is on its
way. -/
def schedWrite (s : State) (w : HeldWrite) : State × Bool :=
  match heldApply s w with
  | .ok _ s => (s, true)
  | .away s => (s, false)
  | .fault kind va s =>
    if kind = walkError then (walkFatal s w.asid va, true)
    else
      let w := { w with kind := kind }
      let s := if w.add.isNone && s.heldWrites.contains w then s else { s with heldWrites := s.heldWrites ++ [w] }
      ((reportPage s w.asid va kind nobody).getD s, true)

/-- As `schedWrite`, and a write whose line is on its way stays at its slice. -/
def schedWriteLater (s : State) (w : HeldWrite) : State :=
  match schedWrite s w with
  | (s, true) => s
  | (s, false) => if w.add.isNone && s.heldWrites.contains w then s else { s with heldWrites := s.heldWrites ++ [w] }

end Sys2Proof.Machine
end

