-- ==== Sys2Proof/Machine/Queues.lean ====
section
/-!
DEFINITION. Queues: descriptors and commands (R85–R92), the doorbell (R87, R90), the packet and its checks (R93–R95, R98),
hardware slots (R97), and launches from device code (R101).
-/
namespace Sys2Proof.Machine

/-! ## Eligibility (R97) -/

/-- The queue has something to do for the scheduler; one disabled while it dispatches finishes that first (R92). -/
def wantsSlot (s : State) (q : Queue) : Bool :=
  decide ((s.ctx q.asid).state = .active) && decide (s.link ≠ .contained)
    && (match q.state with
        | .enabled => decide (q.rd.toNat < q.wr.toNat) || decide (q.head ≠ .none)
        | .disabled => decide (q.head = .dispatching)
        | _ => false)

/-- Slots a context holds. -/
def slotsHeld (s : State) (asid : Nat) : Nat := (s.slots.filter (fun p => decide ((s.queue p.2).asid = asid))).length

/-- Eligible and not mapped. -/
def waitsForSlot (s : State) (q : Queue) : Bool :=
  wantsSlot s q && q.slot.isNone && decide (slotsHeld s q.asid < (s.ctx q.asid).qslotq)

/-- The queue at a slot gives it up; its wait counts from now. -/
def releaseSlot (s : State) (qid : Nat) : State :=
  let q := s.queue qid
  match q.slot with
  | none => s
  | some n => { s with slots := AMap.del s.slots n }.setQueue qid { q with slot := none, taken := false, since := s.steps }

/-! ## Commands (R88, R89, R92) -/

def qStateCode : QState → Nat
  | .free => 0 | .disabled => 1 | .enabled => 2 | .halted => 3

/-- Error codes of R89. -/
def qBadop : Nat := 1
def qBadstate : Nat := 2
def qBaddesc : Nat := 3
def qBadasid : Nat := 4

/-- A command has ended: QSTAT reports it. -/
def endQueueCmd (s : State) (qid err : Nat) : State :=
  let q := s.queue qid
  { s with qCmd := none }.modRegs (fun r =>
    { r with qBusy := false, qErr := err, qQid := qid, qState := qStateCode q.state, qMapped := q.slot.isSome, qSlot := q.slot.getD 0,
             qLastst := match q.state with | QState.halted => q.lastst | _ => 0 })

def cmdQid (v : DWord) : Nat := v.toNat / 16 % 4096
def cmdAsid (v : DWord) : Nat := v.toNat / 2 ^ 32 % 4096

/-- A write of QCMD: dropped while a command is in progress (R88). -/
def queueCommand (i : Instr) (s : State) (body : Nat → State → Out) : Out :=
  hostWrite i s fun s =>
    if s.regs.qBusy then .next (s.modRegs (fun r => { r with qLost := true })) else body (cmdQid s.cur.val) s

/-- A command that changes a queue in one of the states allowed. -/
def queueChange (i : Instr) (s : State) (from0 : QState → Bool) (change : Nat → State → State) : Out :=
  queueCommand i s fun qid s =>
    if from0 (s.queue qid).state then .next (endQueueCmd (change qid s) qid 0) else .next (endQueueCmd s qid qBadstate)

/-! ### REGISTER -/

/-- The descriptor's fields in range (R85). -/
def queueDescOk (c : Ctx) (bs : List PByte) : Bool :=
  decide (field bs 0 8 % 4096 = 0) && decide (4 ≤ field bs 8 1) && decide (field bs 8 1 ≤ 16) && decide (field bs 9 1 ≤ 3)
    && decide (field bs 9 1 ≤ c.priomax) && decide (field bs 0xA 2 < 2) && decide (field bs 0xC 4 = 0)
    && decide (field bs 0x10 8 % 8 = 0) && decide (field bs 0x18 8 % 8 = 0) && decide (field bs 0x20 32 = 0)
    && decide (field bs 0 8 + 128 * 2 ^ field bs 8 1 ≤ linearEnd) && decide (field bs 0x10 8 + 8 ≤ linearEnd)
    && decide (field bs 0x18 8 + 8 ≤ linearEnd)

/-- A QCMD value with the operation it was given for. -/
def qcmdOf (op : Nat) (v : DWord) : DWord := BitVec.ofNat 64 (v.toNat / 16 * 16 + op)

/-- The command that goes on, if it is the operation named. -/
def going (s : State) (op : Nat) : Option DWord := s.qCmd.filter (fun v => decide (v.toNat % 16 = op))

/-- A command has begun, and goes on. -/
def goOn (s : State) (op : Nat) (v : DWord) : State :=
  { s.modRegs (fun r => { r with qBusy := true }) with qCmd := some (qcmdOf op v) }

/-- REGISTER: the descriptor at QARG is read and checked, and RD is read; while a line is on its way the command goes on. Where
several causes hold, BADSTATE is reported before BADASID and BADASID before BADDESC: R92 gives the causes no order
(DESIGN CHOICE, log 47). -/
def registerQueue (s : State) (v : DWord) : Out :=
  let qid := cmdQid v
  let asid := cmdAsid v
  let a := s.regs.qarg.toNat
  let busy (s : State) : Out := .next (goOn s 1 v)
  let fails (s : State) (err : Nat) : Out := .next (endQueueCmd s qid err)
  let named := match (s.ctx asid).state with
    | .created | .active | .suspended => true
    | _ => false
  if (s.queue qid).state ≠ .free then fails s qBadstate
  else if !named then fails s qBadasid
  else if a % 64 ≠ 0 || decide (linearEnd < a + 64) then fails s qBaddesc
  else match peek s asid a 64 with
    | .away s => busy s
    | .fault kind va s => fails (faultNote s asid kind va) qBaddesc
    | .ok bs s =>
      if !queueDescOk (s.ctx asid) bs then fails s qBaddesc
      else match peek s asid (field bs 0x18 8) 8 with
        | .away s => busy s
        | .fault kind va s => fails (faultNote s asid kind va) qBaddesc
        | .ok rd s =>
          let q : Queue := { freeQueue with
            state := .disabled, asid := asid, ring := field bs 0 8, log2n := field bs 8 1, prio := field bs 9 1,
            devlaunch := decide (field bs 0xA 2 = 1), wraddr := field bs 0x10 8, rdaddr := field bs 0x18 8,
            wr := BitVec.ofNat 64 (pvalue rd), rd := BitVec.ofNat 64 (pvalue rd) }
          .next (endQueueCmd (s.setQueue qid q) qid 0)

/-- Q_REGISTER: QCMD with OP 1; with flag set, a REGISTER in progress goes on. -/
def execQRegister (s : State) : Out :=
  if s.cur.flag then
    match going s 1 with
    | none => .next (notOffered s)
    | some v =>
      match registerQueue s v with
      | .next t => if t.regs.qBusy then .next (notOffered t) else .next t
      | r => r
  else queueCommand .qRegister s (fun _ s => registerQueue s s.cur.val)

/-! ### The other commands -/

def isDisabled (q : QState) : Bool := decide (q = .disabled)
def isHalted (q : QState) : Bool := decide (q = .halted)

/-- Q_ENABLE: WR is read before anything uses it: no packet and no LAUNCH is looked at before. -/
def execQEnable (s : State) : Out :=
  queueChange .qEnable s isDisabled (fun qid s => s.modQueue qid (fun q => { q with state := .enabled, bell := true, since := s.steps }))

/-- A packet in Waiting goes back to being queued (R106): it is read again when it next comes to the head. -/
def dropWaiting (s : State) (qid : Nat) : State :=
  let q := s.queue qid
  if q.head = .waiting then { s with kernels := AMap.del s.kernels q.kernel }.setQueue qid { q with head := .none, kernel := 0 } else s

/-- Q_DISABLE: a packet in Dispatching finishes placing its teams first. -/
def execQDisable (s : State) : Out :=
  queueChange .qDisable s (fun q => decide (q = .enabled) || decide (q = .halted)) (fun qid s =>
    let s := (dropWaiting s qid).modQueue qid (fun q => { q with state := .disabled, lastst := 0, bell := false })
    if (s.queue qid).head = .dispatching then s else releaseSlot s qid)

def execQResume (s : State) : Out :=
  queueChange .qResume s isHalted (fun qid s => s.modQueue qid (fun q => { q with state := .enabled, lastst := 0, since := s.steps }))

/-- RD moves past a packet, and is written to RDADDR. -/
def advanceRd (s : State) (qid : Nat) : State × Bool :=
  let q := s.queue qid
  let (s, ok) := schedWrite s (schedWord q.asid q.rdaddr 8 (q.rd.toNat + 1))
  (if ok then s.setQueue qid { q with rd := q.rd + 1 } else s, ok)

/-- Q_SKIP: the rejected packet is passed; it counts as Complete for ORDER. -/
def execQSkip (s : State) : Out :=
  queueChange .qSkip s isHalted (fun qid s =>
    let q := s.queue qid
    let s := schedWriteLater s (schedWord q.asid q.rdaddr 8 (q.rd.toNat + 1))
    s.setQueue qid { q with state := .enabled, lastst := 0, rd := q.rd + 1, prevDone := true, kernel := 0, since := s.steps })

/-- The queue's number is free again. -/
def freeNumber (s : State) (qid : Nat) : State := endQueueCmd ((releaseSlot s qid).setQueue qid freeQueue) qid 0

/-- Q_UNREGISTER: a packet in Dispatching finishes placing its teams first (R92), and the command goes on until then; with flag set,
one that goes on. -/
def execQUnregister (s : State) : Out :=
  if s.cur.flag then
    match going s 6 with
    | none => .next (notOffered s)
    | some v =>
      if (s.queue (cmdQid v)).head = .dispatching then .next (notOffered s) else .next (freeNumber s (cmdQid v))
  else queueCommand .qUnregister s fun qid s =>
    if !isDisabled (s.queue qid).state then .next (endQueueCmd s qid qBadstate)
    else if (s.queue qid).head = .dispatching then .next (goOn s 6 s.cur.val)
    else .next (freeNumber s qid)

def execQQuery (s : State) : Out := queueCommand .qQuery s (fun qid s => .next (endQueueCmd s qid 0))

/-! ## The doorbell (R87, R90) -/

/-- WR is read again; a fault waits for its page, and a poisoned or lower value is ignored. -/
def rereadWr (s : State) (qid : Nat) : Out :=
  let q := s.queue qid
  if pagePending s q.asid q.wraddr then .next (notOffered s)
  else match peek s q.asid q.wraddr 8 with
    | .away s => .next (notOffered s)
    | .fault kind va s =>
      if kind = walkError then .next ((walkFatal s q.asid va).setQueue qid { q with bell := false })
      else match reportPage s q.asid va kind nobody with
        | some s => .next s
        | none => .next (notOffered s)
    | .ok bs s =>
      let v := pvalue bs
      .next (s.setQueue qid { q with bell := false, wr := if !ppoison bs && decide (q.wr.toNat < v) then BitVec.ofNat 64 v else q.wr })

/-- QBELL: the host's doorbell for the queue named; with flag set, the read that a doorbell, ENABLE or mapping has asked for
on queue a. -/
def execQbell (s : State) : Out :=
  if s.cur.flag then
    let q := s.queue s.cur.a
    if q.bell && decide (q.state = .enabled) then rereadWr s s.cur.a else .next (notOffered s)
  else hostWrite .qbell s fun s =>
    let qid := s.cur.val.toNat % 4096
    let q := s.queue qid
    if q.state = .enabled && !q.devlaunch then .next (s.setQueue qid { q with bell := true }) else .next s

/-! ## The packet (R93, R95, R98) -/

def packetAddr (q : Queue) (n : Nat) : Nat := q.ring + 128 * (n % 2 ^ q.log2n)

/-- The device's record of class LAUNCH (R407, R408). -/
def launchRec (asid sub addr : Nat) (rd : DWord) : Rec :=
  { blankRec with kind := 9, sev := 1, cls := 0x20, sub := sub, asid := asid, addr := addr, data := rd }

/-- A packet is rejected (R92, R95): STATUS, the record, Halted, the slot released. -/
def rejectPacket (s : State) (qid code : Nat) : State :=
  let q := s.queue qid
  let a := packetAddr q q.rd.toNat
  let s := schedWriteLater s (schedWord q.asid (a + 0x58) 4 code)
  let s := s.report (launchRec q.asid (code % 256) a q.rd)
  let s := if q.head = .none then s else { s with kernels := AMap.del s.kernels q.kernel }
  releaseSlot (s.setQueue qid { q with state := .halted, lastst := code, head := .none, kernel := 0, bell := false }) qid

/-- The page of an address is mapped; an address outside linear space has none. -/
def pageMapped (s : State) (asid va : Nat) : Bool × State :=
  if linearEnd ≤ va then (false, s)
  else match lookup s asid va with
    | (s, .ok _) => (true, s)
    | (s, .error kind) => (false, faultNote s asid kind va)

/-- Every address of a list lies in a mapped page. -/
def pagesMapped (s : State) (asid : Nat) : List Nat → Bool × State
  | [] => (true, s)
  | a :: as =>
    match pageMapped s asid a with
    | (true, s) => pagesMapped s asid as
    | (false, s) => (false, s)

/-- A packet's fields as a kernel. -/
def kernelOfPacket (q : Queue) (qid : Nat) (bs : List PByte) : Kernel :=
  let flags : Byte := BitVec.ofNat 8 (field bs 1 1)
  { absentKernel with
    state := .waiting, queue := qid, prio := q.prio, num := q.rd, asid := q.asid, marker := decide (field bs 0 1 = 2),
    coop := flags.getLsbD 0, spec := flags.getLsbD 1, order := flags.getLsbD 2, sys := flags.getLsbD 3,
    groups := field bs 2 1, tiles := field bs 3 1, regs := field bs 4 2, ways := (field bs 6 2 + 15) / 16, csize := field bs 8 1,
    teams := field bs 0xC 4, entry := field bs 0x10 8, entoff := field bs 0x18 4, karg := BitVec.ofNat 64 (field bs 0x20 8),
    ksave := field bs 0x28 8, dep0 := field bs 0x30 8, dep0v := BitVec.ofNat 64 (field bs 0x38 8), dep1 := field bs 0x40 8,
    dep1v := BitVec.ofNat 64 (field bs 0x48 8), done := field bs 0x50 8, packet := packetAddr q q.rd.toNat,
    met0 := decide (field bs 0x30 8 = 0), met1 := decide (field bs 0x40 8 = 0) }

/-- A kernel's dependence words. -/
def depsOf (n : Kernel) : List Nat := [n.dep0, n.dep1].filter (fun a => decide (a ≠ 0))

/-- Reserved bits and bytes are zero. -/
def packetReserved (bs : List PByte) : Bool :=
  decide (field bs 1 1 < 16) && decide (field bs 9 3 = 0) && decide (field bs 0x1C 4 = 0) && decide (field bs 0x5C 36 = 0)

/-- GROUPS, REGS and TILES in range, and a tile for SPEC. -/
def shapeOk (n : Kernel) : Bool :=
  decide (1 ≤ n.groups) && decide (n.groups ≤ 16) && decide (n.regs % 32 = 0) && decide (32 ≤ n.regs) && decide (n.regs ≤ 256)
    && [0, 1, 2, 4, 8, 16].contains n.tiles && !(n.spec && decide (n.tiles = 0))

/-- The addresses are aligned: for a kernel KSAVE too. -/
def addressesOk (n : Kernel) : Bool :=
  decide (n.dep0 % 8 = 0) && decide (n.dep1 % 8 = 0) && decide (n.done % 8 = 0)
    && (n.marker || (decide (n.ksave ≠ 0) && decide (n.ksave % 4096 = 0)))

/-- NOFIT (R98). -/
def noFit (s : State) (n : Kernel) : Bool :=
  n.coop && decide ((liveCores s).length * teamsPerCore n (s.ctx n.asid).scrq < n.teams)

/-- What a packet's checks come to. -/
inductive Checked where
  | ok (n : Kernel) (s : State)
  | bad (code : Nat) (s : State)
  | away (s : State)

/-- NOSYS, the last check. -/
def checkSys (s : State) (n : Kernel) : Checked := if n.sys && !(s.ctx n.asid).sys then .bad 0x010B s else .ok n s

/-- The entry descriptor and what follows it: ENTRYBAD, NOFIT, NOSYS. -/
def checkEntry (s : State) (n : Kernel) : Checked :=
  if n.entry % 128 ≠ 0 || decide (linearEnd ≤ n.entry) then .bad 0x0109 s
  else match peek s n.asid n.entry 128 with
    | .away s => .away s
    | .fault kind va s => .bad 0x0101 (faultNote s n.asid kind va)
    | .ok bs s =>
      let d := parseDesc bs
      match readDesc s n.asid d.dirbase d.dirlen n.entry with
      | .away s => .away s
      | .bad _ s => .bad 0x0109 s
      | .ok d s =>
        let n := { n with dirbase := d.dirbase, dirlen := d.dirlen, entovl := BitVec.ofNat 16 d.ovlid }
        if noFit s n then .bad 0x010A s else checkSys s n

/-- The checks of R95 in their order, after the packet itself has been read: a packet of no type is checked as a KERNEL. -/
def checkPacket (s : State) (q : Queue) (qid : Nat) (bs : List PByte) : Checked :=
  let n := kernelOfPacket q qid bs
  let type := field bs 0 1
  match pagesMapped s n.asid ((if n.marker then [] else [n.entry]) ++ depsOf n) with
    | (false, s) => .bad 0x0101 s
    | (true, s) =>
      if type ≠ 1 && type ≠ 2 then .bad 0x0102 s
      else if !packetReserved bs then .bad 0x0103 s
      else if n.marker then (if !addressesOk n then .bad 0x0108 s else checkSys s n)
      else if !shapeOk n then .bad 0x0104 s
      else if 18 < n.ways then .bad 0x0105 s
      else if (s.ctx n.asid).scrq < n.ways then .bad 0x0106 s
      else if n.csize = 0 || decide (12 < n.csize) || decide (n.teams = 0) || decide (n.teams % n.csize ≠ 0) || decide (2 ^ 24 < n.teams) then
        .bad 0x0107 s
      else if !addressesOk n then .bad 0x0108 s
      else checkEntry s n

/-- PACKET_HEAD_CHECK: the packet at the head of mapped queue a is read and checked (R95). -/
def execPacketHeadCheck (s : State) : Out :=
  let qid := s.cur.a
  let q := s.queue qid
  if q.slot.isNone || q.taken || q.bell || decide (q.head ≠ .none) || decide (q.state ≠ .enabled) || !wantsSlot s q then .next (notOffered s)
  else
    let a := packetAddr q q.rd.toNat
    match peek s q.asid a 128 with
    | .away s => .next (notOffered s)
    | .fault kind va s => .next (rejectPacket (faultNote s q.asid kind va) qid 0x0101)
    | .ok bs s =>
      match checkPacket s q qid bs with
      | .away s => .next (notOffered s)
      | .bad code s => .next (rejectPacket s qid code)
      | .ok n s =>
        let s := s.setKernel s.nextId n
        .next (s.setQueue qid { q with head := .waiting, kernel := s.nextId }).bump

/-! ## Slots (R74, R97, R99) -/

/-- The first of the queues a test picks by priority, highest or lowest first, then the one that has been so longest. -/
def pickQueue (s : State) (low : Bool) (test : Queue → Bool) : Option Nat :=
  (minBy (fun w => w.stamp) ((s.queues.filter (fun p => test p.2)).map (fun p =>
    ⟨p.1, false, false, (if low then p.2.prio else 3 - p.2.prio) * 2 ^ 64 + p.2.since, 0⟩))).map (·.key)

def freeSlot (s : State) : Option Nat := (List.range 64).find? (fun n => !(s.slots.any (fun p => decide (p.1 = n))))

/-- A quantum of a slot begins: SCHEDCFG takes effect there (R91). -/
def beginQuantum (s : State) (n : Nat) : State := { s with slotPre := AMap.set true s.slotPre n s.regs.preempt }

/-- SLOT_MAP: a free slot maps the eligible queue of highest priority that has waited longest; with none free, a queue of
lower priority loses its slot. -/
def execSlotMap (s : State) : Out :=
  match pickQueue s false (waitsForSlot s) with
  | none => .next (notOffered s)
  | some qid =>
    let q := s.queue qid
    match freeSlot s with
    | some n =>
      .next ({ beginQuantum s n with slots := AMap.put s.slots n qid }.setQueue qid { q with slot := some n, taken := false, since := s.steps, bell := true })
    | none =>
      if s.queues.any (fun p => p.2.taken) then .next (notOffered s)
      else match pickQueue s true (fun v => v.slot.isSome) with
        | none => .next (notOffered s)
        | some v => if (s.queue v).prio < q.prio then .next (s.modQueue v (fun v => { v with taken := true })) else .next (notOffered s)

/-- The queue that a quantum's end takes a slot from: the one of its priority mapped longest, while another of that priority
waits and no slot is free; or, over the context's QSLOTQ, the one of lowest priority (R74). -/
def quantumTakes (s : State) (qid : Nat) : Bool :=
  let q := s.queue qid
  let waits := s.queues.any (fun p => waitsForSlot s p.2 && decide (p.2.prio = q.prio))
  (waits && (freeSlot s).isNone && decide (pickQueue s true (fun v => v.slot.isSome && decide (v.prio = q.prio)) = some qid))
    || (decide ((s.ctx q.asid).qslotq < slotsHeld s q.asid) && decide (pickQueue s true (fun v => v.slot.isSome && decide (v.asid = q.asid)) = some qid))

/-- QUANTUM_EXPIRY: the quantum of slot a has run out; a boundary that changes nothing is not offered. -/
def execQuantumExpiry (s : State) : Out :=
  match s.slots.find? (fun p => decide (p.1 = s.cur.a)) with
  | none => .next (notOffered s)
  | some (_, qid) =>
    let takes := !(s.queue qid).taken && quantumTakes s qid
    let t := beginQuantum s s.cur.a
    if takes then .next (t.modQueue qid (fun q => { q with taken := true }))
    else if t.slotPre ≠ s.slotPre then .next t
    else .next (notOffered s)

/-- SLOT_DRAIN_COMPLETE: slot a, being taken or of a queue no longer eligible, is free. -/
def execSlotDrainComplete (s : State) : Out :=
  match s.slots.find? (fun p => decide (p.1 = s.cur.a)) with
  | none => .next (notOffered s)
  | some (_, qid) =>
    let q := s.queue qid
    if q.taken || !wantsSlot s q then .next (releaseSlot s qid) else .next (notOffered s)

/-! ## LAUNCH_APPEND (R101) -/

/-- The queue manager has answered a LAUNCH. -/
def endLaunch (s : State) (r : LaunchReq) : State :=
  { s with launches := s.launches.filter (fun x => decide (x.op ≠ r.op)) }.modGrp r.grp (fun g =>
    { g with sbusy := g.sbusy.filter (fun b => decide (b.op ≠ r.op)) })

/-- It traps. -/
def launchTrap (s : State) (r : LaunchReq) (sub : Nat) : State :=
  takeTrap (endLaunch s r) r.grp .launch sub
    { ovlid := r.ovlid, off := r.pc, second := r.second, widx := 0xFFFF, addr := r.addr, data := (s.queue r.queue).rd, dpois := false, lanes := 0 }

/-- sd := a value, while the group still waits for it. -/
def launchAnswer (s : State) (r : LaunchReq) (v : DWord) : State :=
  let waits := (s.grp r.grp).sbusy.any (fun b => decide (b.op = r.op))
  let s := endLaunch s r
  if waits then s.modGrp r.grp (fun g => g.writeS r.second r.sd.toNat ⟨v, false⟩) else s

/-- The copy of the packet into the ring, and the raised WR. A packet that does not lie in linear space, for which R101 names no
sub-code, traps as one whose page does not translate (DESIGN CHOICE, log 47). -/
def appendPacket (s : State) (r : LaunchReq) : Out :=
  let q := s.queue r.queue
  let asid := q.asid
  let wait (s : State) : Out := .next (notOffered s)
  let trap3 (s : State) (kind va : Nat) : Out := .next (launchTrap (faultNote s asid kind va) r 3)
  if linearEnd < r.addr + 128 then .next (launchTrap s r 3)
  else match peek s asid r.addr 128 with
    | .away s => wait s
    | .fault kind va s => trap3 s kind va
    | .ok bs s =>
      match poke s asid (packetAddr q q.wr.toNat) bs with
      | .away s => wait s
      | .fault kind va s => trap3 s kind va
      | .ok _ s =>
        match poke s asid q.wraddr (cleanBytes 8 (q.wr.toNat + 1)) with
        | .away s => wait s
        | .fault kind va s => trap3 s kind va
        | .ok _ s => .next (launchAnswer (s.setQueue r.queue { q with wr := q.wr + 1 }) r (q.wr + 1))

/-- LAUNCH_APPEND: the LAUNCH b arrives (in any order among those for its queue, R26), its group's earlier stores performed; the
packet's lines are cleaned from its core first. Its number is taken once the read of WR that ENABLE owes is done (R92). -/
def execLaunchAppend (s : State) : Out :=
  match s.launches.find? (fun r => decide (r.op = s.cur.b)) with
  | none => .next (notOffered s)
  | some r =>
    let q := s.queue r.queue
    let g := s.grp r.grp
    let asid := s.asidOf r.grp
    if g.anyPending r.after then .next (notOffered s)
    else if q.state ≠ .enabled || !q.devlaunch || decide (q.asid ≠ asid) then .next (launchTrap s r 1)
    else if r.addr % 128 ≠ 0 then .next (launchTrap s r 2)
    else if q.bell then .next (notOffered s)
    else if q.wr.toNat - q.rd.toNat = 2 ^ q.log2n then .next (launchAnswer s r 0)
    else
      let (s, rest, sent) := cleanStep s (s.coreOf r.grp) asid (linesOf r.addr 128)
      if !rest.isEmpty then (if sent then .next s else .next (notOffered s)) else appendPacket s r

end Sys2Proof.Machine
end

