-- ==== Sys2Proof/Machine/Launch.lean ====
section
/-!
DEFINITION. A kernel's way from Waiting to Complete (R93–R98, R102–R106, R141): dependences, dispatch, placing its clusters,
pre-emption for priority, completion.
-/
namespace Sys2Proof.Machine

/-- The kernel is at the head of its queue, and the queue holds a slot it keeps. -/
def hasSlot (s : State) (kh : Nat) : Bool :=
  let q := s.queue (s.kernel kh).queue
  decide (q.kernel = kh) && decide (q.head ≠ .none) && q.slot.isSome && !q.taken

/-- The context is Active, and the host link is not Contained, which stops admission (R391). -/
def ctxActive (s : State) (asid : Nat) : Bool := decide ((s.ctx asid).state = .active) && decide (s.link ≠ .contained)

/-! ## DEP_POLL (R94) -/

/-- What an acquire at system scope by the scheduler makes visible: every core drops its clean lines bound to the word, and
the slices their clean copies of host and peer lines (R94, R159). -/
def acquireAll (s : State) (asid w : Nat) : State :=
  let p := boundLine (s.ctx asid) w
  let s := (s.cores.map (·.1)).foldl (fun s c =>
    staleWhere ((linesAt s c asid p).foldl (fun s l => dropClean s c asid l) s) c asid p) s
  (farLines s asid p).foldl (fun s x => if x.2.dirty = 0 then { s with l2 := AMap.del s.l2 (lineKey asid x.1) } else s) s

/-- A clean copy of a host or peer line is not kept for the next read of the word. -/
def forgetFar (s : State) (asid line : Nat) : State :=
  match l2Line s asid line with
  | some x => if (decide (x.tgt = 1) || decide (x.tgt = 2)) && decide (x.dirty = 0) then { s with l2 := AMap.del s.l2 (lineKey asid line) } else s
  | none => s

/-- Whether a dependence word has reached its value. -/
def depMet (s : State) (asid a : Nat) (v : DWord) : Bool × State :=
  match peek s asid a 8 with
  | .ok bs s =>
    if !ppoison bs && decide (v.toNat ≤ pvalue bs) then (true, acquireAll (forgetFar s asid (lineOf a)) asid a)
    else (false, forgetFar s asid (lineOf a))
  | .fault _ _ s => (false, s)
  | .away s => (false, s)

/-- DEP_POLL: the unmet dependence words of kernel a, in Waiting at a mapped queue, are read. -/
def execDepPoll (s : State) : Out :=
  let kh := s.cur.a
  let n := s.kernel kh
  if n.state ≠ .waiting || !hasSlot s kh || !ctxActive s n.asid || (n.met0 && n.met1) then .next (notOffered s)
  else
    let (m0, s) := if n.met0 then (true, s) else depMet s n.asid n.dep0 n.dep0v
    let (m1, s) := if n.met1 then (true, s) else depMet s n.asid n.dep1 n.dep1v
    if m0 = n.met0 && m1 = n.met1 then .next (notOffered s)
    else .next (wake (s.setKernel kh { n with met0 := m0, met1 := m1 }))

/-! ## Entry overlays (R95, R141) -/

inductive Entries where
  | ready (s : State)
  | wait (moved : Bool) (s : State)
  | fails (s : State)

/-- The entry overlay is brought to each of the cores; a failing descriptor is a context fault, SUB 0x09. -/
def loadEntries (s : State) (kh : Nat) : List Nat → Entries
  | [] => .ready s
  | c :: cs =>
    let n := s.kernel kh
    let note (s : State) : State := s.modKernel kh (fun n => { n with loads := if n.loads.contains c then n.loads else n.loads ++ [c] })
    let waitRest (moved : Bool) (s : State) : Entries :=
      match loadEntries s kh cs with
      | .ready s => .wait moved s
      | .wait m s => .wait (moved || m) s
      | .fails s => .fails s
    if (entrySlot s c n).isSome then loadEntries s kh cs
    else if (heldSlot s c n.asid n.entovl .loading).isSome then waitRest (!n.loads.contains c) (note s)
    else match readDesc s n.asid n.dirbase n.dirlen n.entry with
      | .away s => waitRest false s
      | .bad _ s => .fails (contextFault s n.asid 9 0 0)
      | .ok d s =>
        let s := s.modKernel kh (fun n => { n with entovl := BitVec.ofNat 16 d.ovlid })
        match decideLoad s c n.asid d with
        | .held m s => if ((s.core c).storeSlot m).state = .resident then loadEntries s kh cs else waitRest true (note s)
        | .started _ s => waitRest true (note s)
        | .noroom _ s => waitRest false s

/-! ## DISPATCH_START (R95, R97, R98) -/

/-- A kernel's conditions but the resources of COOP. -/
def dispatchable (s : State) (kh : Nat) : Bool :=
  let n := s.kernel kh
  decide (n.state = .waiting) && hasSlot s kh && ctxActive s n.asid && n.met0 && n.met1 && (!n.order || (s.queue n.queue).prevDone)

/-- A COOP packet that waits for resources keeps this one from Dispatching. Of two COOP packets of equal priority that both wait,
each of which the rule's words would have keep the other back, the kernel created first goes first (DESIGN CHOICE, log 47). -/
def coopAhead (s : State) (kh : Nat) : Bool :=
  let n := s.kernel kh
  s.kernels.any (fun p => decide (p.1 ≠ kh) && p.2.coop && dispatchable s p.1
    && (decide (n.prio < p.2.prio) || (decide (n.prio = p.2.prio) && (!n.coop || decide (p.1 < kh)))))

/-- No core holds a team. -/
def coresIdle (s : State) : Bool := (liveCores s).all (fun c => (teamsOn s c).isEmpty)

/-- A COOP packet that finds no place though nothing is resident is reported once (R106); else a core is drained where the
split is what is missing (R373). -/
def noPlace (s : State) (kh : Nat) : Out :=
  let n := s.kernel kh
  if n.coop && coresIdle s && !n.noplace then
    .next ((s.report (launchRec n.asid 0x80 n.packet n.num)).setKernel kh { n with noplace := true })
  else match startDrain s n with
    | some s => .next s
    | none => .next (notOffered s)

/-- A MARKER has nothing to place: RD moves on and it completes. -/
def passMarker (s : State) (kh : Nat) : Out :=
  let n := s.kernel kh
  let (s, ok) := advanceRd s n.queue
  if !ok then .next (notOffered s)
  else .next ((s.modKernel kh (fun n => { n with state := .completing })).modQueue n.queue (fun q => { q with head := .none, prevDone := false }))

/-- DISPATCH_START: kernel a enters Dispatching; the entry overlay is asked for on the cores its first cluster goes to. -/
def execDispatchStart (s : State) : Out :=
  let kh := s.cur.a
  let n := s.kernel kh
  if !dispatchable s kh || coopAhead s kh then .next (notOffered s)
  else if n.marker then passMarker s kh
  else whenAwake s <|
    let mss := membersNow s kh
    let go (s : State) : State := (s.setKernel kh { n with state := .dispatching }).modQueue n.queue (fun q => { q with head := .dispatching })
    match placeAll s n mss with
    | none => if n.coop then noPlace s kh else .next (go s)
    | some p =>
      if n.coop && placementReserved s kh then .next (notOffered s)
      else match loadEntries (go s) kh (coresOf p mss) with
        | .ready s => .next s
        | .wait _ s => .next s
        | .fails s => .next s

/-! ## TEAM_PLACE (R96, R102, R103, R373) -/

/-- Placed groups stand at the entry overlay: they are in it from now on, unless ENTOFF lies outside it (R139). -/
def enterEntry (s : State) (kh t : Nat) : State :=
  let n := s.kernel kh
  let c := (s.team t).core
  match entrySlot s c n with
  | none => s
  | some m =>
    if scalarWords s c m ≤ n.entoff then s
    else (teamGroups s t).foldl (fun s k => s.modGrp k (fun g => { g with slot0 := { g.slot0 with islot := m, entered := true } })) s

/-- The kernel after clusters have been placed. -/
def placedMore (n : Kernel) (clus cores : List Nat) : Kernel :=
  { n with placed := n.placed + clus.length * n.csize, back := n.back.filter (fun c => !clus.contains c), loads := n.loads.filter (fun c => !cores.contains c) }

/-- The clusters of a placement take their places; the last one sends the packet out of the ring. -/
def commitPlacement (s p : State) (kh : Nat) (mss : List (List Member)) : Out :=
  let n := s.kernel kh
  let q := s.queue n.queue
  let n' := placedMore n (clustersNow n) (coresOf p mss)
  let p := { p with nextId := p.nextId + n.teams }
  let p := (mss.flatMap (fun ms => ms.map (·.team))).foldl (fun p t => enterEntry p kh t) p
  if (nextCluster n').isSome || decide (n.state = .running) then .next (p.setKernel kh n')
  else
    let n' := { n' with state := .running }
    if q.kernel = kh && decide (q.head = .dispatching) then
      let (p, ok) := advanceRd p n.queue
      if ok then .next ((p.setKernel kh n').modQueue n.queue (fun q => { q with head := .none, prevDone := false }))
      else .next (notOffered { s with demands := p.demands })
    else .next (p.setKernel kh n')

/-- Kernel a may place a cluster: in Dispatching with its slot, or with its queue gone; or with a cluster withdrawn. -/
def mayPlace (s : State) (kh : Nat) : Bool :=
  let n := s.kernel kh
  let q := s.queue n.queue
  let turn := match n.state with
    | .dispatching => decide (q.kernel ≠ kh) || hasSlot s kh
    | .running => !n.back.isEmpty
    | _ => false
  turn && ctxActive s n.asid && (nextCluster n).isSome && !placementReserved s kh

/-- TEAM_PLACE: the next cluster of kernel a is placed, or all of a COOP kernel, once cores can take it and hold its entry
overlay. -/
def execTeamPlace (s : State) : Out :=
  let kh := s.cur.a
  if !mayPlace s kh then .next (notOffered s)
  else whenAwake s <|
    let n := s.kernel kh
    let mss := membersNow s kh
    match placeAll s n mss with
    | none => noPlace s kh
    | some p =>
      let cs := coresOf p mss
      withSplits s n cs <|
        match loadEntries s kh cs with
        | .ready s =>
          match placeAll s n mss with
          | some p => commitPlacement s p kh mss
          | none => .next (notOffered s)
        | .wait moved s => if moved then .next s else .next (notOffered s)
        | .fails s => .next s

/-! ## PRIORITY_PREEMPT (R97) -/

/-- Teams that stop together with team t: its cluster, or all of a COOP kernel (R80, R185). -/
def stopsWith (s : State) (t : Nat) : List Nat :=
  let x := s.team t
  let here (y : Team) : Bool := match y.state with
    | .placed | .running | .halting | .handler | .restoring => true
    | _ => false
  (s.teams.filter (fun p => decide (p.2.kernel = x.kernel) && here p.2 && ((s.kernel x.kernel).coop || decide (p.2.clusid = x.clusid)))).map (·.1)

/-- Pre-emption requests go to a team and those that stop with it (R123). -/
def askTeam (s : State) (t : Nat) : State := (stopsWith s t).foldl (fun s u => s.modTeam u (fun x => { x with asked := true })) s

/-- The most recently placed resident team of a queue of lower priority that no request has gone to yet. -/
def victimTeam (s : State) (prio : Nat) : Option Nat :=
  (minBy (fun w => w.stamp) ((s.teams.filter (fun p =>
      (match p.2.state with
       | .placed | .running | .halting | .handler | .restoring => true
       | _ => false) && !p.2.asked && !p.2.preempt && decide ((s.kernel p.2.kernel).prio < prio))).map
    (fun p => ⟨p.1, false, false, s.steps - p.2.stamp, 0⟩))).map (·.key)

/-- PREEMPT as the kernel's slot has it: the value of SCHEDCFG at the slot's last quantum boundary (R91). -/
def slotPreempt (s : State) (n : Kernel) : Bool :=
  match (s.queue n.queue).slot with
  | some m => AMap.get true s.slotPre m
  | none => s.regs.preempt

/-- PRIORITY_PREEMPT: while kernel a waits for resources, the most recently placed team of lower priority is to leave, one
after another until its next cluster fits. -/
def execPriorityPreempt (s : State) : Out :=
  let kh := s.cur.a
  let n := s.kernel kh
  let waits := (n.coop && dispatchable s kh) || mayPlace s kh
  if !slotPreempt s n || !waits then .next (notOffered s)
  else match placeAll s n (membersNow s kh) with
    | some _ => .next (notOffered s)
    | none =>
      match victimTeam s n.prio with
      | some t => .next (askTeam s t)
      | none => .next (notOffered s)

/-! ## KERNEL_COMPLETE (R95) -/

/-- Lines of a context that some core has not cleaned. -/
def dirtyLines (s : State) (asid : Nat) : List (Nat × Nat) :=
  (s.cores.map (·.1)).flatMap (fun c => ((linesAt s c asid (fun _ => true)).filter (unclean s c asid)).map (fun l => (c, l)))

/-- A kernel of a faulted context ends ABORTED. -/
def abortKernel (s : State) (kh : Nat) : Out :=
  let n := s.kernel kh
  let (s, ok) := schedWrite s (schedWord n.asid (n.packet + 0x58) 4 2)
  if !ok then .next (notOffered s)
  else
    let q := s.queue n.queue
    let s := if q.kernel = kh && decide (q.head ≠ .none) then s.setQueue n.queue { q with head := .none } else s
    .next (s.setKernel kh { n with state := .aborted })

/-- Kernel kh is the last packet that left its queue's ring: the one before the queue's head (R93 ORDER). -/
def lastOut (s : State) (kh : Nat) : Bool :=
  let n := s.kernel kh
  decide (n.num + 1 = (s.queue n.queue).rd) &&
    s.kernels.all (fun p => p.2.queue ≠ n.queue || p.2.num ≠ n.num || decide (p.1 ≤ kh))

/-- DONE is incremented as a release, and the kernel is Complete. -/
def publishDone (s : State) (kh : Nat) : Out :=
  let n := s.kernel kh
  let (s, ok) := if n.done = 0 then (s, true) else schedWrite s ⟨n.asid, lineOf n.done, [], some (n.done % 128, n.sys), notMapped⟩
  if !ok then .next (notOffered s)
  else
    let s := if lastOut s kh then s.modQueue n.queue (fun q => { q with prevDone := true }) else s
    .next (s.setKernel kh { n with state := .complete, toClean := none, told := false })

/-- STATUS, then, under SYS, what stands dirty at the slices for host and peer pages, STATUS with it; then DONE. -/
def publish (s : State) (kh : Nat) : Out :=
  let n := s.kernel kh
  if n.told then (if n.sys then afterFlush s n.asid (fun _ => true) (publishDone s kh) else publishDone s kh)
  else
    let (s, ok) := schedWrite s (schedWord n.asid (n.packet + 0x58) 4 1)
    if ok then .next (s.setKernel kh { n with told := true }) else .next (notOffered s)

/-- KERNEL_COMPLETE: kernel a's written lines are cleaned, then its completion is published; in a faulted context it is
ABORTED. -/
def execKernelComplete (s : State) : Out :=
  let kh := s.cur.a
  let n := s.kernel kh
  let begun := match n.state with
    | .waiting | .dispatching | .running | .completing => true
    | _ => false
  if decide ((s.ctx n.asid).state = .faulted) && begun then abortKernel s kh
  else if n.state ≠ .completing then .next (notOffered s)
  else match n.toClean with
    | none => .next (s.setKernel kh { n with toClean := some (dirtyLines s n.asid) })
    | some ls =>
      let rest := ls.filter (fun p => unclean s p.1 n.asid p.2)
      if rest.isEmpty then publish s kh
      else
        let send := rest.filter (fun p => match l1Line s p.1 n.asid p.2 with | some x => decide (x.dirty ≠ 0) && !x.wb | none => false)
        let t := (send.foldl (fun s p => sendWriteBack s p.1 n.asid p.2) s).setKernel kh { n with toClean := some rest }
        if send.isEmpty && decide (rest.length = ls.length) then .next (notOffered s) else .next t

end Sys2Proof.Machine
end

