-- ==== Sys2Proof/Machine/Contexts.lean ====
section
/-!
DEFINITION. Contexts (R69–R79): the commands of CTXCMD, the descriptor, quotas and their reclaim, suspension, teardown.
-/
namespace Sys2Proof.Machine

/-! ## Commands (R77, R78) -/

def cStateCode : CState → Nat
  | .free => 0 | .created => 1 | .active => 2 | .suspending => 3 | .suspended => 4 | .faulted => 5 | .dying => 6 | .dead => 7

/-- Error codes of R77. -/
def cBadop : Nat := 1
def cBadstate : Nat := 2
def cBaddesc : Nat := 3
def cBadasid : Nat := 4

/-- A command has ended: CTXSTAT reports it. -/
def endCtxCmd (s : State) (asid err : Nat) : State :=
  let c := s.ctx asid
  { s with ctxCmd := none }.modRegs (fun r =>
    { r with ctxBusy := false, ctxErr := err, ctxAsid := asid, ctxState := cStateCode c.state, ctxSub := match c.state with | .faulted => c.sub | _ => 0 })

def cmdCtx (v : DWord) : Nat := v.toNat / 2 ^ 16 % 4096

/-- A write of CTXCMD: dropped while a command is in progress; ASID 0 and a state the command is not allowed in fail. -/
def ctxCommand (i : Instr) (s : State) (allowed : CState → Bool) (body : Nat → State → Out) : Out :=
  hostWrite i s fun s =>
    if s.regs.ctxBusy then .next (s.modRegs (fun r => { r with ctxLost := true }))
    else
      let asid := cmdCtx s.cur.val
      if asid = 0 then .next (endCtxCmd s asid cBadasid)
      else if !allowed (s.ctx asid).state then .next (endCtxCmd s asid cBadstate)
      else body asid s

/-! ## The descriptor (R72) -/

/-- The context a descriptor of 128 bytes describes, when it is well formed. -/
def ctxOfDesc (bs : List PByte) : Option Ctx :=
  let pt := field bs 0 8
  let gt := field bs 8 8
  let bt := field bs 0x18 8
  let flags := field bs 0x26 2
  if decide (pt % 4096 = 0) && decide (pt + 4096 ≤ hbmLimit) && decide (gt % 4096 = 0) && decide (bt % 4096 = 0) && decide (gt < linearEnd) && decide (bt < linearEnd)
      && decide (field bs 0x12 6 = 0) && decide (field bs 0x20 1 ≤ 96) && decide (field bs 0x21 1 ≤ 18) && decide (field bs 0x22 1 ≤ 64)
      && decide (field bs 0x23 1 ≤ 3) && decide (field bs 0x24 2 < 2048) && decide (flags < 4) && decide (field bs 0x28 88 = 0) then
    some { freeCtx with
      state := .created, ptroot := pt, gtbase := gt, gmax := field bs 0x10 2, btbase := bt, frameq := field bs 0x20 1,
      scrq := field bs 0x21 1, qslotq := field bs 0x22 1, priomax := field bs 0x23 1, irqring := field bs 0x24 2,
      share := decide (flags % 2 = 1), sys := decide (flags / 2 % 2 = 1) }
  else none

/-- The context manager reads the descriptor at CTXARG over the host link; the command goes on with the completion. -/
def askCtxDesc (s : State) (asid op : Nat) (quota : Bool) : Out :=
  let a := s.regs.ctxarg.toNat
  if a % 128 ≠ 0 then .next (endCtxCmd s asid cBaddesc)
  else .next { s.modRegs (fun r => { r with ctxBusy := true }) with
    ctxCmd := some (op, asid), hostOut := s.hostOut ++ [.readReq 0 a 128], hostWait := s.hostWait ++ [.ctxDesc quota] }

/-- CTX_CREATE: the command is accepted and its descriptor asked for. -/
def execCtxCreate (s : State) : Out :=
  ctxCommand .ctxCreate s (fun c => decide (c = .free)) (fun asid s => askCtxDesc s asid 1 false)

/-! ## Quotas (R73, R74) -/

/-- A context's unpinned overlays leave a core until its holding fits. -/
def evictExcess (s : State) (c asid : Nat) : Nat → State
  | 0 => s
  | n + 1 =>
    if framesHeld s c asid ≤ (s.ctx asid).frameq then s
    else match evictable s c (fun x => isHolder x asid) with
      | none => s
      | some v => evictExcess (leaveStore s c v) c asid n

/-- Cores where a context holds frames beyond its quota that can be taken back now. -/
def excessCores (s : State) (asid : Nat) : List Nat :=
  (s.cores.map (·.1)).filter (fun c =>
    decide ((s.ctx asid).frameq < framesHeld s c asid) && (evictable s c (fun x => isHolder x asid)).isSome)

def reclaimFrames (s : State) (asid : Nat) : State := (excessCores s asid).foldl (fun s c => evictExcess s c asid 33) s

/-- CTX_QUOTA: the command is accepted and the descriptor asked for; with flag set, frames of context a above a lowered quota
are taken back as they become unpinned. -/
def execCtxQuota (s : State) : Out :=
  if s.cur.flag then
    if decide ((s.ctx s.cur.a).state = .suspended) || (excessCores s s.cur.a).isEmpty then .next (notOffered s)
    else .next (reclaimFrames s s.cur.a)
  else
    ctxCommand .ctxQuota s (fun c => decide (c = .active) || decide (c = .suspended)) (fun asid s => askCtxDesc s asid 7 true)

/-- The quotas of a context. -/
def withQuotas (c : Ctx) (q : Nat × Nat × Nat) : Ctx := { c with frameq := q.1, scrq := q.2.1, qslotq := q.2.2 }

/-- The descriptor has arrived for CREATE or QUOTA; `none`: the read failed. DESIGN CHOICE (log 47): a context that a context fault has
taken out of Active or Suspended while the read was under way ends a QUOTA with BADSTATE. -/
def takeCtxDesc (s : State) (quota : Bool) (data : Option (List Byte)) : State :=
  match s.ctxCmd with
  | none => s
  | some (_, asid) =>
    match (data.map (fun bs => bs.map (fun b => (⟨b, false⟩ : PByte)))).bind ctxOfDesc with
    | none => endCtxCmd s asid cBaddesc
    | some d =>
      let c := s.ctx asid
      if !quota then endCtxCmd (s.setCtx asid d) asid 0
      else match c.state with
        | .active => endCtxCmd (reclaimFrames (s.setCtx asid (withQuotas c (d.frameq, d.scrq, d.qslotq))) asid) asid 0
        | .suspended => endCtxCmd (s.setCtx asid { c with newQuota := some (d.frameq, d.scrq, d.qslotq) }) asid 0
        | _ => endCtxCmd s asid cBadstate

/-! ## ENABLE and RESUME (R75, R78, R190) -/

/-- The four entries of a line of the binding table. -/
def bindsOfLine (bs : List PByte) : List BindEnt :=
  [0, 1, 2, 3].map (fun i =>
    let o := 32 * i
    { valid := decide (field bs (o + 0x18) 4 % 2 = 1) && !fieldPoison bs o 32, sync := field bs o 8, base := field bs (o + 8) 8,
      len := field bs (o + 0x10) 8 })

/-- The binding table is read into the context manager's cache, every line of it asked for at once; a line that cannot be translated holds
no binding. -/
def readBinds (s : State) (asid : Nat) : List Nat → Access (List BindEnt)
  | [] => .ok [] s
  | i :: is =>
    match peek s asid ((s.ctx asid).btbase + 128 * i) 128 with
    | .away s =>
      (match readBinds s asid is with
       | .ok _ s => .away s
       | r => r)
    | .fault kind va s =>
      (match readBinds (faultNote s asid kind va) asid is with
       | .ok r s => .ok (List.replicate 4 ⟨false, 0, 0, 0⟩ ++ r) s
       | .away s => .away s
       | .fault k v s => .fault k v s)
    | .ok bs s =>
      match readBinds s asid is with
      | .ok r s => .ok (bindsOfLine bs ++ r) s
      | .away s => .away s
      | .fault k v s => .fault k v s

/-- The context becomes Active: bindings are cached anew, graph-table entries are read anew, quotas kept from Suspended apply (R78). -/
def activate (s : State) (asid op : Nat) : State :=
  match readBinds s asid (List.range 1024) with
  | .ok es s =>
    let binds : AMap BindEnt := ((List.range es.length).zip es).filter (fun p => p.2.valid)
    endCtxCmd (s.modCtx asid (fun c =>
      { c.newQuota.elim c (withQuotas c) with state := .active, binds := binds, gents := [], newQuota := none })) asid 0
  | .away s | .fault _ _ s => { s.modRegs (fun r => { r with ctxBusy := true }) with ctxCmd := some (op, asid) }

/-- ENABLE and RESUME; with flag set, the command in progress goes on. -/
def activateCmd (i : Instr) (op : Nat) (from0 : CState) (s : State) : Out :=
  if s.cur.flag then
    match s.ctxCmd with
    | some (o, asid) =>
      if o ≠ op then .next (notOffered s)
      else if (s.ctx asid).state ≠ from0 then .next (endCtxCmd s asid cBadstate)
      else
        let t := activate s asid op
        if t.regs.ctxBusy then .next (notOffered t) else .next t
    | none => .next (notOffered s)
  else ctxCommand i s (fun c => decide (c = from0)) (fun asid s => .next (activate s asid op))

def execCtxEnable (s : State) : Out := activateCmd .ctxEnable 2 .created s
def execCtxResume (s : State) : Out := activateCmd .ctxResume 4 .suspended s

/-! ## SUSPEND (R78, R81, R185) -/

def queuesOf (s : State) (asid : Nat) : List Nat :=
  (s.queues.filter (fun p => decide (p.2.asid = asid) && decide (p.2.state ≠ .free))).map (·.1)

/-- CTX_SUSPEND: admission stops, the slots are unmapped, every resident team is to leave. -/
def execCtxSuspend (s : State) : Out :=
  ctxCommand .ctxSuspend s (fun c => decide (c = .active)) (fun asid s =>
    let s := (queuesOf s asid).foldl releaseSlot s
    let s := (teamsOf s asid).foldl askTeam s
    .next (endCtxCmd (s.modCtx asid (fun c => { c with state := .suspending })) asid 0))

/-- A team is on a core or its image is still to be written. -/
def onCore (t : Team) : Bool :=
  match t.state with
  | .absent | .saved | .retired => false
  | _ => true

/-- SUSPEND_COMPLETE: every team of context a is saved, and its graph storage is written back: images and storage are visible
at system scope (R194). -/
def execSuspendComplete (s : State) : Out :=
  let a := s.cur.a
  let c := s.ctx a
  if c.state ≠ .suspending || !c.gstore.isEmpty || (teamsOf s a).any (fun t => onCore (s.team t)) then .next (notOffered s)
  else afterFlush s a (fun _ => true) (.next (s.modCtx a (fun c => { c with state := .suspended })))

/-! ## The other commands -/

/-- CTX_DESTROY: the context is Dying; its queues are Free (R92). -/
def execCtxDestroy (s : State) : Out :=
  ctxCommand .ctxDestroy s (fun c => decide (c = .created) || decide (c = .suspended) || decide (c = .faulted)) (fun asid s =>
    let s := (queuesOf s asid).foldl (fun s q => (releaseSlot s q).setQueue q freeQueue) s
    .next (endCtxCmd (s.modCtx asid (fun c => { c with state := .dying })) asid 0))

/-- CTX_RECLAIM: the ASID may be created again. -/
def execCtxReclaim (s : State) : Out :=
  ctxCommand .ctxReclaim s (fun c => decide (c = .dead)) (fun asid s => .next (endCtxCmd (s.setCtx asid freeCtx) asid 0))

def execCtxQuery (s : State) : Out := ctxCommand .ctxQuery s (fun _ => true) (fun asid s => .next (endCtxCmd s asid 0))

/-! ## Teardown (R79) -/

/-- The cursors of a group: on its core, or of its image (R81, R204). -/
def cursorsOf (g : Group) : AMap Cursor :=
  match g.phase, g.beside with
  | .saved, some x => x.cursors
  | _, _ => g.c

/-- A group with an open cursor whose pin is still to be taken off, and the cursor (R79 step 2). -/
def pinLeft (s : State) (asid : Nat) : Option (Nat × Nat × Cursor) :=
  ((teamsOf s asid).flatMap (teamGroups s)).findSome? (fun k =>
    ((cursorsOf (s.grp k)).find? (fun p => p.2.isOpen)).map (fun p => (k, p.1, p.2)))

/-- The lane of a cursor is closed, on the core or in the image. -/
def closeLane (s : State) (k key : Nat) : State :=
  s.modGrp k (fun g =>
    { g with c := AMap.del g.c key, beside := g.beside.map (fun x => { x with cursors := AMap.del x.cursors key }) })

/-- One more pin is taken off; one whose storage is inconsistent, or on a page that faults, is passed over (log 41). -/
def releasePin (s : State) (asid k key : Nat) (c : Cursor) : Out :=
  let r : GReq := { blankReq with asid := asid, grp := k }
  match unpinAt s r c with
  | .ok _ t => .next (closeLane (unitDone t 0) k key)
  | .away t => .next (notOffered (undo s t))
  | .status _ t | .fault _ _ t => .next (closeLane (unitDone (undo s t) 0) k key)

/-- A graph request ends unperformed: later ones of its core at its unit move up (R346). -/
def dropReq (s : State) (r : GReq) : State :=
  let key := unitKey r.core r.unit
  let numbered := match r.stage with
    | .loading | .unsent | .turn => false
    | _ => decide (AMap.get 0 s.gExpect key ≤ r.num)
  let s := { unitDone s r.id with greqs := s.greqs.filter (fun x => decide (x.id ≠ r.id)) }
  if !numbered then s
  else
    { s with
      gSend := AMap.put s.gSend key (AMap.get 0 s.gSend key - 1),
      greqs := s.greqs.map (fun x =>
        match x.stage with
        | .loading | .unsent | .turn => x
        | _ => if unitKey x.core x.unit = key && decide (r.num < x.num) then { x with num := x.num - 1 } else x) }

/-- Graph requests of a group, with the state's numbers as they stand. -/
def dropReqs (s : State) (ks : List Nat) : Nat → State
  | 0 => s
  | n + 1 =>
    match s.greqs.find? (fun r => ks.contains r.grp) with
    | none => s
    | some r => dropReqs (dropReq s r) ks n

/-- A team of a Dying context ends where it stands, and what it asked of other units with it. -/
def endTeam (s : State) (t : Nat) : State :=
  let ks := teamGroups s t
  let s := if onCore (s.team t) then freeTeam s t else s
  let c := (s.team t).core
  let s := s.modCore c (fun q =>
    { q with
      ovlreqs := q.ovlreqs.filter (fun r => match r with | .load k _ _ _ | .evict k _ _ _ _ | .pin k _ _ _ _ _ => !ks.contains k),
      roomWait := q.roomWait.filter (fun r => !ks.contains r.1), actReqs := q.actReqs.filter (fun r => !ks.contains r.1),
      store := q.store.map (fun p => (p.1, { p.2 with waiters := p.2.waiters.filter (fun w => !ks.contains w.1) })) })
  let s := dropReqs s ks s.greqs.length
  { s with
    teams := AMap.del s.teams t, groups := s.groups.filter (fun p => !ks.contains p.1),
    remotes := s.remotes.filter (fun r => !ks.contains r.grp), queueOps := s.queueOps.filter (fun q => !ks.contains q.grp),
    offers := s.offers.filter (fun o => !ks.contains o.grp), gops := s.gops.filter (fun o => !ks.contains o.grp), launches := s.launches.filter (fun l => !ks.contains l.grp) }

/-- Step 1 on one core: its holdings of overlays, and the entries and banks tagged with the context
(R272, R276). -/
def sweepCore (s : State) (c asid : Nat) : State :=
  let s := (slotNums.filter (fun n => isHolder ((s.core c).storeSlot n) asid)).foldl (fun s n => dropHolder s c n asid) s
  s.modCore c (fun q =>
    { q with
      patterns := q.patterns.map (fun p => if p.2.tag = asid then (p.1, { p.2 with tag := 0 }) else p),
      act0 := if q.act0.tag = asid then { q.act0 with tag := 0 } else q.act0,
      act1 := if q.act1.tag = asid then { q.act1 with tag := 0 } else q.act1 })

/-- A graph request of the context that waits on a page: one with a reservation cancels it, any other ends (R79 step 4). -/
def endWaiting (s : State) (r : GReq) : State :=
  match r.stage with
  | .reserved => withdrawReq s r
  | _ => dropReq s r

/-- Graph requests of the context that are at their units, or on their way. -/
def graphBusy (s : State) (asid : Nat) : Bool :=
  s.greqs.any (fun r => decide (r.asid = asid) && (match r.stage with | .loading | .unsent | .turn => false | _ => true))

/-- Teams, kernels and overlays of the context are still there. -/
def toEnd (s : State) (asid : Nat) : Bool :=
  !(teamsOf s asid).isEmpty || s.kernels.any (fun p => decide (p.2.asid = asid))
    || s.cores.any (fun p => p.2.store.any (fun x => isHolder x.2 asid)
        || p.2.patterns.any (fun x => decide (x.2.tag = asid)) || decide (p.2.act0.tag = asid) || decide (p.2.act1.tag = asid))

/-- Step 1 of R79: the context's keys, and with them its teams and kernels. -/
def endAll (s : State) (asid : Nat) : State :=
  let s := (teamsOf s asid).foldl endTeam s
  let s := (s.cores.map (·.1)).foldl (fun s c => sweepCore s c asid) s
  { s with kernels := s.kernels.filter (fun p => decide (p.2.asid ≠ asid)) }

/-- Something tagged with the context is still to be dropped. -/
def toSweep (s : State) (asid : Nat) : Bool :=
  s.l2.any (fun p => decide (p.1 / 2 ^ 45 = asid)) || s.heldWrites.any (fun w => decide (w.asid = asid))
    || s.demands.any (fun d => decide (d.1 = asid)) || s.faults.any (fun f => decide (f.asid = asid))
    || s.cores.any (fun p => p.2.l1.any (fun l => decide (l.1 / 2 ^ 45 = asid)))

/-- Step 3 of R79. -/
def sweep (s : State) (asid : Nat) : State :=
  let s := (s.cores.map (·.1)).foldl (fun s c => s.modCore c (fun q => { q with l1 := q.l1.filter (fun p => decide (p.1 / 2 ^ 45 ≠ asid)) })) s
  { s with
    l2 := s.l2.filter (fun p => decide (p.1 / 2 ^ 45 ≠ asid)), unitReqs := s.unitReqs.filter (fun r => decide (r.asid ≠ asid)),
    heldWrites := s.heldWrites.filter (fun w => decide (w.asid ≠ asid)), demands := s.demands.filter (fun d => decide (d.1 ≠ asid)),
    faults := s.faults.filter (fun f => decide (f.asid ≠ asid)) }

/-- A request of the context is in flight (R79 step 4). -/
def inFlight (s : State) (asid : Nat) : Bool :=
  (messages s).any (fun m => decide (m.asid = asid)) || s.hbmReqs.any (fun r => decide (r.asid = asid))
    || s.greqs.any (fun r => decide (r.asid = asid)) || s.peerReqs.any (fun r => decide (r.asid = asid))
    || s.hostWait.any (fun w => match w with | .sliceFill _ a _ => decide (a = asid) | _ => false)

/-- The numbers of a dead context's requests begin anew with its ASID's next use. -/
def forgetNumbers (s : State) (asid : Nat) : State :=
  let line (k : Nat) : Bool := decide (k % 2 ^ 60 / 2 ^ 45 ≠ asid)
  let edge (k : Nat) : Bool := decide (k / 2 ^ 32 / 96 / 2 ^ 16 ≠ asid)
  { s with sendNum := s.sendNum.filter (fun p => line p.1), expect := s.expect.filter (fun p => line p.1),
           inSend := s.inSend.filter (fun p => edge p.1), inExpect := s.inExpect.filter (fun p => edge p.1) }

/-- TEARDOWN_COMPLETE: the teardown of Dying context a goes on (R79): graph requests end, pins are taken off, keys are revoked; then,
with its graph storage written back (R194), lines are dropped, and with nothing in flight it is Dead. -/
def execTeardownComplete (s : State) : Out :=
  let a := s.cur.a
  let c := s.ctx a
  if c.state ≠ .dying then .next (notOffered s)
  else match s.greqs.find? (fun r => decide (r.asid = a) && r.waitPage.isSome) with
    | some r => .next (endWaiting s r)
    | none =>
      if graphBusy s a then .next (notOffered s)
      else match pinLeft s a with
        | some (k, key, cur) => releasePin s a k key cur
        | none =>
          if toEnd s a then .next (endAll s a)
          else if !c.gstore.isEmpty then .next (notOffered s)
          else if toSweep s a then .next (sweep s a)
          else if inFlight s a then .next (notOffered s)
          else .next (forgetNumbers (s.setCtx a { freeCtx with state := .dead }) a)

end Sys2Proof.Machine
end

