-- ==== Sys2Proof/Machine/Pages.lean ====
section
/-!
DEFINITION. Translation caches (R359), the end of page faults (R362, R364, R365), the fault-address queue and the bad-page
list (R366–R368), refresh (R370).
-/
namespace Sys2Proof.Machine

def pageOf (a : Nat) : Nat := a / 2 ^ 16 * 2 ^ 16

/-! ## TLBINV (R359) -/

/-- A request below an identifier, translated under a translation that a test picks, is not performed. -/
def translatedInFlight (s : State) (pick : Nat → Nat → Bool) (mark : Nat) : Bool :=
  s.hbmReqs.any (fun r => decide (r.id < mark) && pick r.asid (r.line * 128))
    || (messages s).any (fun m => decide (m.id < mark) && pick m.asid (m.line * 128) && (match m.body with | .store _ _ => true | _ => false))
    || s.peerReqs.any (fun r => decide (r.id < mark) && pick r.asid (r.line * 128))
    || s.hostWait.any (fun w => match w with | .sliceFill id a l => decide (id < mark) && pick a (l * 128) | _ => false)

/-- Cached translations that a test picks by context and address are dropped. -/
def dropCached (s : State) (v : DWord) (pick : Nat → Nat → Bool) : State :=
  let busy := translatedInFlight s pick s.nextId
  { s with tlb := s.tlb.filter (fun e => !pick e.2.1 e.2.2.1), tlbInv := if busy then some (v, s.nextId) else none }.modRegs
    (fun r => { r with tlbBusy := busy })

def tlbAsid (v : DWord) : Nat := v.toNat % 4096
def tlbPage (v : DWord) : Nat := v.toNat / 2 ^ 16 % 2 ^ 36 * 2 ^ 16

/-- The translations a write names by its SIZE (R359); one of a 2 MiB page goes with any of its 64 KiB pages. -/
def tlbNamed (s : State) (v : DWord) (asid a : Nat) : Bool :=
  match v.toNat / 2 ^ 14 % 4 with
  | 3 => true
  | 2 => decide (asid = tlbAsid v)
  | 1 => decide (asid = tlbAsid v) && decide (pageBase a true = pageBase (tlbPage v) true)
  | _ => decide (asid = tlbAsid v) && (decide (pageOf a = tlbPage v)
      || s.tlb.any (fun e => e.2.2.2.1 && decide (e.2.1 = asid) && decide (e.2.2.1 = pageBase a true) && decide (pageBase (tlbPage v) true = pageBase a true)))

/-- A value of TLBINV with its SIZE field (bits 15:14). -/
def withSize (size : Nat) (v : DWord) : DWord := (v &&& ~~~(3 <<< 14 : DWord)) ||| (BitVec.ofNat 64 size <<< 14)

/-- A write of TLBINV with one of the SIZEs, its CMDLOST bit cleared by a 1; with flag set, the invalidation in progress ends once every
request translated under what it named has been performed. -/
def tlbCommand (i : Instr) (size : Nat) (s : State) : Out :=
  if s.cur.flag then
    match s.tlbInv with
    | some (v, mark) =>
      if translatedInFlight s (tlbNamed { s with tlb := [] } v) mark then .next (notOffered s)
      else .next ({ s with tlbInv := none }.modRegs (fun r => { r with tlbBusy := false }))
    | none => .next (notOffered s)
  else hostWrite i s fun s =>
    let v := withSize size s.cur.val
    let s := if v.getLsbD 62 then s.modRegs (fun r => { r with tlbLost := false }) else s
    if s.regs.tlbBusy then .next (s.modRegs (fun r => { r with tlbLost := true })) else .next (dropCached s v (tlbNamed s v))

def execTlbinvPage (s : State) : Out := tlbCommand .tlbinvPage 0 s
def execTlbinvRegion (s : State) : Out := tlbCommand .tlbinvRegion 1 s
def execTlbinvAsid (s : State) : Out := tlbCommand .tlbinvAsid 2 s
def execTlbinvAll (s : State) : Out := tlbCommand .tlbinvAll 3 s

/-! ## The end of a page's faults (R362) -/

def onPage (asid page : Nat) (a line : Nat) : Bool := decide (a = asid) && decide (pageOf (line * 128) = page)

/-- An operation no longer has a lane that waits for a page. -/
def unpark (g : Group) : Group :=
  { g with ops := g.ops.map (fun o =>
      { o with parked := o.parked && (g.fetches.any (fun f => decide (f.op = o.id) && f.faulted.isSome)
          || g.copies.any (fun c => decide (c.op = o.id) && c.waitPage.isSome)) }) }

def clearWait (page : Nat) (w : Option Nat) : Option Nat := if w = some page then none else w

/-- What a group of the context has waiting on the page goes on. -/
def retryGroup (page : Nat) (g : Group) : Group :=
  unpark { g with
    fetches := g.fetches.map (fun f => if pageOf (f.line * 128) = page then { f with faulted := none } else f),
    copies := g.copies.map (fun c => { c with waitPage := clearWait page c.waitPage }),
    engq := g.engq.map (fun c => { c with waitPage := clearWait page c.waitPage }),
    stackWait := clearWait page g.stackWait }

/-- Groups of a context, on cores. -/
def groupsOf (s : State) (asid : Nat) : List Nat :=
  (s.groups.filter (fun p => decide ((s.team p.2.team).asid = asid) && decide (p.2.phase ≠ .absent))).map (·.1)

/-- A graph word is parked as long as one of its lanes waits on a page (R361). -/
def reparkGraph (s : State) (k : Nat) : State :=
  s.modGrp k (fun g => { g with ops := g.ops.map (fun o =>
    if s.greqs.any (fun r => decide (r.grp = k) && decide (r.op = o.id) && r.waitPage.isSome) then { o with parked := true } else o) })

/-- Everything waiting on the page retries. -/
def resolvePage (s : State) (asid page : Nat) : State :=
  let s := { s with
    faults := s.faults.filter (fun f => !(decide (f.asid = asid) && decide (f.page = page))),
    greqs := s.greqs.map (fun r => if r.asid = asid then { r with waitPage := clearWait page r.waitPage } else r) }
  let s := (groupsOf s asid).foldl (fun s k => reparkGraph (s.modGrp k (retryGroup page)) k) s
  (teamsOf s asid).foldl (fun s t => s.modTeam t (fun x => { x with waitPage := clearWait page x.waitPage })) s

/-- The pending pages of a context. -/
def pendingPages (s : State) (asid : Nat) : List Nat := ((s.faults.filter (fun f => decide (f.asid = asid))).map (·.page)).eraseDups

/-! ### FAIL -/

/-- The kind under which a page is pending. -/
def pendingKind (s : State) (asid page : Nat) : Nat :=
  match s.faults.find? (fun f => decide (f.asid = asid) && decide (f.page = page)) with
  | some f => f.kind
  | none => notMapped

def pageTrap (s : State) (k op kind page : Nat) (lanes : Lanes) : State :=
  takeTrap s k .page kind { opInfo (s.grp k) op with addr := page, data := BitVec.ofNat 64 kind, lanes := lanes }

/-- The lanes of a load that have not all their bytes and wait for bytes of the page. -/
def lanesOnPage (page : Nat) (l : PendLoad) : List LoadPiece :=
  l.pieces.filter (fun p => (p.addrs.zip p.got).any (fun x => x.2.isNone && decide (pageOf x.1 = page)))

/-- Lanes of a cursor word whose bytes do not come are over (R353, R362). -/
def dropCursorLanes (s : State) (op : Nat) (lanes : List Nat) : State :=
  let gone (r : GReq) : Bool := decide (r.op = op) && lanes.contains r.lane
  let n := (s.greqs.filter gone).length
  { s with greqs := s.greqs.filter (fun r => !gone r),
           gops := (s.gops.map (fun x => if x.op = op then { x with left := x.left - n } else x)).filter
             (fun x => !(decide (x.op = op) && decide (x.left = 0))) }

/-- A load that has no lane of its own to lose: an entry or a bank whose bytes do not all come is not loaded. -/
def LoadDest.onePiece : LoadDest → Bool
  | .pattern _ | .actBank _ => true
  | _ => false

/-- A parked word loses its lanes on the page, and its group traps PAGE. -/
def failWord (s : State) (k op page kind : Nat) : State :=
  let g := s.grp k
  let gone := (g.loads.filter (fun l => decide (l.op = op))).flatMap (lanesOnPage page)
  let whole := (g.syncs.any (fun y => decide (y.op = op))) || g.loads.any (fun l => decide (l.op = op) && l.dest.onePiece)
  let g := { g with
    fetches := g.fetches.filter (fun f => !(decide (f.op = op) && f.faulted.isSome && decide (pageOf (f.line * 128) = page))),
    loads := if whole then g.loads.filter (fun l => decide (l.op ≠ op))
      else (g.loads.map (fun l => if l.op = op then { l with pieces := l.pieces.filter (fun p => !gone.contains p) } else l)).filter
        (fun l => !(decide (l.op = op) && l.pieces.isEmpty)),
    syncs := g.syncs.filter (fun y => decide (y.op ≠ op)) }
  let s := s.setGrp k (unpark g)
  let s := if whole then
      (s.modGrp k (fun g => g.finish op)).modCore (s.coreOf k) (fun c => { c with actReqs := c.actReqs.filter (fun a => decide (a.2.1 ≠ op)) })
    else endIfEmpty (dropCursorLanes s op (gone.map (·.lane))) k op
  pumpCursors (pageTrap s k op kind page (maskOf (gone.map (·.lane)))) k

/-- The words of a group parked on the page end. -/
def failWords (s : State) (k page : Nat) : State :=
  let fs := (s.grp k).fetches.filter (fun f => f.faulted.isSome && decide (pageOf (f.line * 128) = page))
  (fs.map (fun f => (f.op, f.faulted.getD notMapped))).eraseDups.foldl (fun s f => failWord s k f.1 page f.2) s

/-- A copy or an engine command of a group that waits on the page stops, and the group traps. -/
def failUnits (s : State) (k page kind : Nat) : State :=
  let g := s.grp k
  let s := (g.copies.filter (fun c => decide (c.waitPage = some page))).foldl (fun s c =>
    pageTrap (s.modGrp k (fun g => g.endCopy c.op)) k c.op kind page 0) s
  (g.engq.filter (fun c => decide (c.waitPage = some page))).foldl (fun s c =>
    pageTrap (s.modGrp k (fun g => g.endCmd c.op)) k c.op kind page 0) s

/-- A binding word that waits for the table's page stops in the same way. -/
def failBinds (s : State) (k page kind : Nat) : State :=
  let c := s.ctx (s.asidOf k)
  ((s.grp k).binds.filter (fun y =>
      let e := if y.isBind then (freeEntry c).getD 0 else y.entry
      decide (pageOf (c.btbase + 32 * e) = page))).foldl (fun s y =>
    pageTrap (s.modGrp k (fun g => g.endBind y.op)) k y.op kind page 0) s

/-- A stack access that waits on the page is lost (R364). -/
def failStack (s : State) (k page : Nat) : State :=
  if (s.grp k).stackWait = some page then
    let lost (g : Group) : Group := if 4 < g.drecs.length then { g with drecs := g.drecs.dropLast, dbelow := g.dbelow + 1 } else g
    takeTrap (s.modGrp k (fun g => { lost g with stackWait := none, stackHeld := false })) k .divg 8 (lastInfo s k)
  else s

/-- A graph request that waits on the page completes with CORRUPT: at the destination its reservation fails, and one it holds is
released first (R195); a lane is cleared whatever its close reports (R350). -/
def failGraph (s : State) (r : GReq) : State :=
  let s := unitDone s r.id
  let dest := graphOwner r.gid r.other
  match r.stage with
  | .asked => hopGraph (setReq (passIn s r) r.id (fun r => { r with status := gCorrupt, waitPage := none })) r.id dest r.srcUnit .reserved
  | .reserved =>
    let (s, n) := numberIn (passNum s r) r.asid r.gid r.srcUnit r.other
    hopGraph (setReq s r.id (fun r => { r with inNum := n, status := gCorrupt, waitPage := none })) r.id r.srcUnit dest .cancel
  | .cancel => endCancel r gCorrupt s
  | .outDone => finishReq r gCorrupt 0 (passIn s r)
  | .inRank => failReq r gCorrupt s
  | _ => if isClose r then closedWith r gCorrupt s else failDue r gCorrupt s

/-- Held bytes of the page are discarded: of write-backs, stores and the scheduler's writes, of graph storage; and whether there were
any. -/
def discardHeld (s : State) (asid page : Nat) : State × Bool :=
  let held (w : HeldWrite) : Bool := onPage asid page w.asid w.line
  let mine (k : Nat) : Bool := decide (pageOf (k % 2 ^ 56) = page)
  let any := s.heldWrites.any held || (s.ctx asid).gstore.any (fun p => mine p.1)
  let s := { s with heldWrites := s.heldWrites.filter (fun w => !held w) }
  (s.modCtx asid (fun c => { c with gstore := c.gstore.filter (fun p => !mine p.1), gbad := c.gbad.filter (fun k => !mine (32 * k)) }), any)

/-- A team whose image lies on the page ends with its context's fault (R365). -/
def failTeam (s : State) (t page : Nat) : State :=
  let x := s.team t
  if x.waitPage ≠ some page then s
  else
    let s := s.setTeam t { x with waitPage := none }
    imageFails (match x.state with | .saved => s | _ => leaveCore (keepBeside s t) t) t

/-- The page's requesters end. -/
def failPage (s : State) (asid page : Nat) : State :=
  let kind := pendingKind s asid page
  let ks := groupsOf s asid
  let s := ks.foldl (fun s k => failStack (failBinds (failUnits (failWords s k page) k page kind) k page kind) k page) s
  let s := (s.greqs.filter (fun r => decide (r.asid = asid) && decide (r.waitPage = some page))).foldl failGraph s
  let s := ks.foldl (fun s k => s.modGrp k unpark) s
  let s := ks.foldl reparkGraph s
  let (s, any) := discardHeld s asid page
  let s := (teamsOf s asid).foldl (fun s t => failTeam s t page) s
  let s := if any then contextFault s asid 6 0 0 else s
  { s with faults := s.faults.filter (fun f => !(decide (f.asid = asid) && decide (f.page = page))) }

/-- What a value written to PFDONE does: to one pending page, or with ALL to all of a context's. -/
def pfdoneAct (s : State) (v : DWord) : State :=
  let asid := tlbAsid v
  let pages := if v.getLsbD 13 then pendingPages s asid else (pendingPages s asid).filter (fun p => decide (p = tlbPage v))
  pages.foldl (fun s p => if v.getLsbD 12 then failPage s asid p else resolvePage s asid p) s

/-! ## The fault-address queue (R367) -/

def faqWord (e : FaqEnt) : DWord :=
  BitVec.ofNat 64 (2 ^ 63 + (if e.ue then 2 ^ 62 else 0) + min 255 e.cecnt * 2 ^ 48 + e.chan * 2 ^ 32 + e.pfn)

/-- FAQPOP: a read takes the oldest entry. -/
def execFaqpop (s : State) : Out :=
  hostReadClear .faqpop s (fun s => match s.faq with | e :: _ => faqWord e | [] => 0) (fun s =>
    match s.faq with
    | [] => s
    | e :: rest => { s.setFrame e.pfn { s.frame e.pfn with queued := false } with faq := rest })

/-! ## The bad-page list (R366, R368) -/

def framesAll : Nat := 5859375

/-- A write of BPLCMD: dropped while a command is in progress. -/
def bplCommand (i : Instr) (s : State) (body : DWord → State → State) : Out :=
  hostWrite i s fun s =>
    if s.regs.bplBusy then .next (s.modRegs (fun r => { r with bplLost := true })) else .next (body s.cur.val s)

def endBpl (s : State) (err : Nat) : State := s.modRegs (fun r => { r with bplBusy := false, bplErr := err })

/-- BPL_ADD: the entry's write to non-volatile storage begins (R368). -/
def execBplAdd (s : State) : Out :=
  bplCommand .bplAdd s (fun v s =>
    let pfn := v.toNat % 2 ^ 23
    if framesAll ≤ pfn then endBpl s 4
    else if s.nv.badPages.contains pfn then endBpl s 3
    else if 4096 ≤ s.nv.badPages.length then endBpl s 2
    else (s.modNv (fun n => { n with adding := some pfn })).modRegs (fun r => { r with bplBusy := true, bplErr := 0 }))

def execBplRead (s : State) : Out :=
  bplCommand .bplRead s (fun v s =>
    match s.nv.badPages[v.toNat / 2 ^ 48 % 4096]? with
    | some p => (endBpl s 0).modRegs (fun r => { r with bplData := p })
    | none => endBpl s 4)

/-- The list has the entry, and the frame is Retired. -/
def retireFrame (s : State) (pfn : Nat) : State :=
  (s.modNv (fun n => { n with badPages := n.badPages ++ [pfn], adding := none })).setFrame pfn { s.frame pfn with retired := true, suspect := false }

/-! ## Refresh (R370) -/

/-- REFRESH_VISIT: controller a visits row group b: refreshed, or skipped when its rows were all activated in order since. -/
def execRefreshVisit (s : State) : Out :=
  let k := rowKey s.cur.a s.cur.b
  let g := AMap.get idleRows s.rows k
  let skip := s.regs.askip && decide (g.sweep = 64) && decide (g.visit < g.stamp)
  let s := { s with rows := AMap.put s.rows k { g with sweep := 0, visit := s.steps + 1 } }
  .next (if skip then s.modRegs (fun r => { r with refSkips := if r.refSkips = BitVec.allOnes 32 then r.refSkips else r.refSkips + 1 }) else s)

/-- REFCFG_READ: SKIPS and ASKIP; the count is cleared. -/
def execRefcfgRead (s : State) : Out :=
  hostReadClear .refcfgRead s (fun s => BitVec.ofNat 64 (s.regs.refSkips.toNat * 2 ^ 32 + (if s.regs.askip then 1 else 0)))
    (fun s => s.modRegs (fun r => { r with refSkips := 0 }))

end Sys2Proof.Machine
end

