-- ==== Sys2Proof/Machine/Fabric.lean ====
section
/-!
DEFINITION. The mesh (R375–R378), the keystone (R379–R382), and the moves of buckets between slices (R384–R387). The mesh is
12 columns by 8 rows, router 12·row + column. How long a packet waits, and the flits its input buffers hold, are timing
(log 3): a packet may move whenever a productive port leads on, and may be found suspect wherever it waits.
-/
namespace Sys2Proof.Machine

def mapMsg (s : State) (id : Nat) (f : Msg → Msg) : State :=
  { s with fabric := s.fabric.map (fun m => if m.id = id then f m else m) }

/-! ## Routing (R377, R378) -/

/-- One hop along x, and one along y, towards a router; none where no distance remains. -/
def hopX (at_ dest : Nat) : Option Nat :=
  if at_ % 12 < dest % 12 then some (at_ + 1) else if dest % 12 < at_ % 12 then some (at_ - 1) else none
def hopY (at_ dest : Nat) : Option Nat :=
  if at_ / 12 < dest / 12 then some (at_ + 12) else if dest / 12 < at_ / 12 then some (at_ - 12) else none

/-- The next hop in dimension order; none at the destination, where the packet is ejected. -/
def weepHop (at_ dest : Nat) : Option Nat := (hopX at_ dest).orElse (fun _ => hopY at_ dest)

/-- The weep buffer, of four packets, that a packet stands in at a router has room (R378): the buffer of its next
hop there, or its endpoint's ejection buffer. -/
def weepRoom (s : State) (m : Msg) (router : Nat) : Bool :=
  decide ((s.fabric.filter (fun x => x.weep && decide (x.router = router) && decide (x.plane = m.plane)
    && decide (weepHop router (destRouter x) = weepHop router (destRouter m))
    && ((weepHop router (destRouter m)).isSome || sameEnd x m))).length < 4)

/-- The productive port a packet takes: along y when both qualify and `y` is set. -/
def meshHop (m : Msg) (y : Bool) : Option Nat :=
  let dest := destRouter m
  if y then (hopY m.router dest).orElse (fun _ => hopX m.router dest) else weepHop m.router dest

/-- Suspects waiting at a router, oldest first. -/
def suspectsAt (s : State) (router : Nat) : List Msg :=
  s.fabric.filter (fun m => m.suspect && !m.weep && decide (m.router = router))

/-- The suspect that a router which holds a keystone moves next: the oldest whose weep buffer has room. -/
def nextSuspect (s : State) (router : Nat) : Option Msg :=
  if s.keystones.any (fun k => k.held && decide (k.router = router)) && s.regs.ken then
    (suspectsAt s router).find? (fun m => weepRoom s m router)
  else none

def satInc (n : Nat) (x : BitVec n) : BitVec n := if x = BitVec.allOnes n then x else x + 1

/-- ROUTE_PACKET: packet b takes a productive port, the y port of two with flag set, or its next hop on the weep lanes;
with c = 1 it enters the weep lane at a router that holds a keystone. -/
def execRoutePacket (s : State) : Out :=
  match findMsg s.fabric s.cur.b with
  | none => .next (notOffered s)
  | some m =>
    if s.cur.c = 1 then
      if (nextSuspect s m.router).map (·.id) = some m.id then
        .next ((mapMsg s m.id (fun m => { m with weep := true, suspect := false, inj := none })).modRegs (fun r => { r with weeppkt := satInc 24 r.weeppkt }))
      else .next (notOffered s)
    else if m.weep then
      match weepHop m.router (destRouter m) with
      | some r => if weepRoom s m r then .next (mapMsg s m.id (fun m => { m with router := r, inj := none })) else .next (notOffered s)
      | none => .next (notOffered s)
    else
      match meshHop m s.cur.flag with
      | some r => .next (mapMsg s m.id (fun m => { m with router := r, inj := none, suspect := false, late := false }))
      | none => .next (notOffered s)

/-- PACKET_SUSPECT: packet b has waited at the head of an input buffer for KTHR. -/
def execPacketSuspect (s : State) : Out :=
  match findMsg s.fabric s.cur.b with
  | some m =>
    if m.weep || m.suspect || m.late then .next (notOffered s)
    else .next { takeMsg s m.id with fabric := (takeMsg s m.id).fabric ++ [{ m with suspect := true }] }
  | none => .next (notOffered s)

/-- WEEP_REPLY_TIMEOUT: the reply b to a packet from a weep ejection buffer, still waiting for injection, enters the weep
lane. -/
def execWeepReplyTimeout (s : State) : Out :=
  match findMsg s.fabric s.cur.b with
  | some m =>
    if m.late && weepRoom s m m.router then .next (mapMsg s m.id (fun m => { m with late := false, weep := true, inj := none }))
    else .next (notOffered s)
  | none => .next (notOffered s)

/-! ## The keystone (R379–R382) -/

/-- The ring's order: rows in alternation, from router 84 back to router 0. -/
def nextRing (r : Nat) : Nat :=
  if r / 12 % 2 = 0 then (if r % 12 < 11 then r + 1 else r + 12)
  else if r % 12 ≠ 0 then r - 1
  else if r = 84 then 0 else r + 12

/-- An epoch is older than another: epochs are 16 bits wide and wrap (log 45). -/
def olderEpoch (e seen : BitVec 16) : Bool := decide (0 < (seen - e).toNat) && decide ((seen - e).toNat < 2 ^ 15)

/-- The newest epoch a router has seen. -/
def seenAt (s : State) (router : Nat) : BitVec 16 := AMap.get 0 s.kseen router

def setKeystone (s : State) (i : Nat) (k : Keystone) : State := { s with keystones := s.keystones.set i k }

/-- A router receives keystone i: it discards one older than the last it has seen, and captures any other if it has a suspect. -/
def receiveKeystone (s : State) (i : Nat) (k : Keystone) (r : Nat) : State :=
  if olderEpoch k.epoch (seenAt s r) then { s with keystones := s.keystones.eraseIdx i }
  else
    let s := { s with kseen := AMap.set 0 s.kseen r k.epoch }
    if s.regs.ken && !(suspectsAt s r).isEmpty then
      (setKeystone s i { k with router := r, held := true }).modRegs (fun x => { x with kcapt := satInc 24 x.kcapt })
    else setKeystone s i { k with router := r }

/-- KEYSTONE_ARRIVAL: keystone b reaches the next router. -/
def execKeystoneArrival (s : State) : Out :=
  match s.keystones[s.cur.b]? with
  | some k => if k.held then .next (notOffered s) else .next (receiveKeystone s s.cur.b k (nextRing k.router))
  | none => .next (notOffered s)

/-- KEYSTONE_HOLD_EXPIRE: the holder of keystone b passes it on. -/
def execKeystoneHoldExpire (s : State) : Out :=
  match s.keystones[s.cur.b]? with
  | some k => if k.held then .next (setKeystone s s.cur.b { k with held := false }) else .next (notOffered s)
  | none => .next (notOffered s)

/-- KEYSTONE_REGENERATE: no keystone has passed router 0 in time: it issues one with the next epoch, and a record. -/
def execKeystoneRegenerate (s : State) : Out :=
  let e := seenAt s 0 + 1
  let s := { s with keystones := s.keystones ++ [(⟨0, e, false⟩ : Keystone)], kseen := AMap.set 0 s.kseen 0 e }
  let r := { blankRec with kind := 5, sev := 1, cls := 0x21, sub := 1 }
  let s := (s.modRegs (fun r => { r with kregen := satInc 8 r.kregen })).tally 25
  .next ((s.report r).tellHost 0 r)

/-- FABCNT_READ: the counts, which clear. -/
def execFabcntRead (s : State) : Out :=
  hostReadClear .fabcntRead s
    (fun s => s.regs.weeppkt ++ s.regs.kcapt ++ s.regs.kregen ++ (0 : BitVec 8))
    (fun s => s.modRegs (fun r => { r with weeppkt := 0, kcapt := 0, kregen := 0 }))

/-! ## The slice map (R384–R387) -/

/-- Who holds a slice map: the cores, the hinge ports, the host port, the graph units. -/
def mapHolders : List Nat :=
  List.range 192 ++ (List.range 18).map (1000 + ·) ++ [2000] ++ (List.range 96).map (3000 + ·)

/-- The moves in progress: under RETIRE one bucket at a time. -/
def movesNow (s : State) : List BucketMove := if s.retiring.isSome then s.moves.take 1 else s.moves

def moveNow (s : State) (b : Nat) : Option BucketMove := (movesNow s).find? (fun m => decide (m.bucket = b))

def endSmap (s : State) (err : Nat) : State := s.modRegs (fun r => { r with smapBusy := false, smapErr := err })

/-- Moves that every holder has adopted and that are handed over are done; with the last the command ends. -/
def settleMoves (s : State) : State :=
  let ended (m : BucketMove) : Bool := m.handed && mapHolders.all (fun h => m.adopted.contains h)
  let s := { s with
    smap := (s.moves.filter ended).foldl (fun t m => AMap.set (m.bucket % 96) t m.bucket m.new) s.smap,
    moves := s.moves.filter (fun m => !ended m) }
  if s.regs.smapBusy && s.moves.isEmpty then
    endSmap { s with retired := s.retired ++ s.retiring.toList, retiring := none } 0
  else s

def setMove (s : State) (b : Nat) (f : BucketMove → BucketMove) : State :=
  settleMoves { s with moves := s.moves.map (fun m => if m.bucket = b then f m else m) }

/-- MAP_ADOPT: holder a of the map adopts the new entry of bucket b. -/
def execMapAdopt (s : State) : Out :=
  match moveNow s s.cur.b with
  | some m =>
    if m.adopted.contains s.cur.a || !mapHolders.contains s.cur.a then .next (notOffered s)
    else .next (setMove s m.bucket (fun m => { m with adopted := m.adopted ++ [s.cur.a] }))
  | none => .next (notOffered s)

/-- STUB_FORWARD: request b, arrived at a slice that no longer performs its bucket, goes on with its number unchanged. -/
def execStubForward (s : State) : Out :=
  match findMsg s.arrived s.cur.b with
  | none => .next (notOffered s)
  | some m =>
    let b := bucketOf m.asid m.line
    let dest := match moveNow s b with
      | some v => v.new
      | none => owner s b
    if dest = m.slice || atPeer s m || !(match m.body with | .req _ => true | _ => false) then .next (notOffered s)
    else .next (inject { s with arrived := s.arrived.filter (fun x => decide (x.id ≠ m.id)) } m.slice m.slice { m with slice := dest, late := false })

/-- The lines of a bucket leave their old slice, their dirty bytes written behind it; a held line goes over as it is. What a
controller is about to answer about them goes to the new slice. -/
def handLines (s : State) (b new : Nat) : State :=
  let mine (p : Nat × L2Line) : Bool := decide (bucketOf (p.1 / 2 ^ 45) (p.1 % 2 ^ 45) = b)
  let s' := (s.l2.filter mine).foldl (fun s p => backWrite s (p.1 / 2 ^ 45) (p.1 % 2 ^ 45) p.2) s
  let turn (m : Msg) : Msg :=
    match m.body with
    | .req _ | .rep _ => m
    | _ => if bucketOf m.asid m.line = b then { m with slice := new } else m
  { s' with l2 := s'.l2.filter (fun p => !mine p), fabric := s'.fabric.map turn, arrived := s'.arrived.map turn }

/-- BUCKET_HANDOVER: the old slice writes back and drops bucket a's lines and passes on the numbers; the new one performs
its requests from now. -/
def execBucketHandover (s : State) : Out :=
  match moveNow s s.cur.a with
  | some m =>
    if m.handed then .next (notOffered s)
    else .next (setMove (handLines s m.bucket m.new) m.bucket (fun m => { m with handed := true }))
  | none => .next (notOffered s)

/-- A write of SMAPCMD: dropped while a command is in progress (R385). -/
def smapCommand (i : Instr) (s : State) (body : DWord → State → State) : Out :=
  hostWrite i s fun s =>
    if s.regs.smapBusy then .next (s.modRegs (fun r => { r with smapLost := true })) else .next (body s.cur.val s)

def smapSlice (v : DWord) : Nat := v.toNat % 128
def smapBucket (v : DWord) : Nat := v.toNat / 2 ^ 16 % 1024

/-- SLICE is above 95 or retired. -/
def deadSlice (s : State) (n : Nat) : Bool := decide (95 < n) || s.retired.contains n

/-- The command's moves begin. -/
def startMoves (s : State) (ms : List (Nat × Nat × Nat)) : State :=
  settleMoves (({ s with moves := ms.map (fun (m : Nat × Nat × Nat) => ⟨m.1, m.2.1, m.2.2, [], false⟩) }).modRegs (fun r => { r with smapBusy := true }))

/-- SMAP_MOVE. -/
def execSmapMove (s : State) : Out :=
  smapCommand .smapMove s (fun v s =>
    let n := v.toNat / 2 ^ 32 % 1024
    let b := smapBucket v
    let dest := smapSlice v
    if deadSlice s dest then endSmap s 2
    else if 1023 < b + n then endSmap s 4
    else startMoves s (((List.range (n + 1)).map (b + ·)).filter (fun b => decide (owner s b ≠ dest)) |>.map (fun b => (b, owner s b, dest))))

/-- Where each bucket of a retiring slice goes: the live slice with the fewest buckets at the time, the lowest on a tie. -/
def spread (n : Nat) : List Nat → List (Nat × Nat) → List (Nat × Nat × Nat)
  | [], _ => []
  | b :: bs, counts =>
    match counts.foldl (fun (x : Option (Nat × Nat)) c => match x with
        | some d => if c.2 < d.2 then some c else some d
        | none => some c) none with
    | none => []
    | some t => (b, n, t.1) :: spread n bs (counts.map (fun c => if c.1 = t.1 then (c.1, c.2 + 1) else c))

/-- SMAP_RETIRE. -/
def execSmapRetire (s : State) : Out :=
  smapCommand .smapRetire s (fun v s =>
    let n := smapSlice v
    if deadSlice s n then endSmap s 2
    else if 95 ≤ s.retired.length then endSmap s 3
    else
      let map := (List.range 1024).map (fun b => (b, owner s b))
      let live := (List.range 96).filter (fun t => decide (t ≠ n) && !s.retired.contains t)
      let counts := live.map (fun t => (t, (map.filter (fun p => decide (p.2 = t))).length))
      startMoves { s with retiring := some n } (spread n ((map.filter (fun p => decide (p.2 = n))).map (·.1)) counts))

/-- SMAP_READ. -/
def execSmapRead (s : State) : Out :=
  smapCommand .smapRead s (fun v s => (endSmap s 0).modRegs (fun r => { r with smapData := owner s (smapBucket v) }))

end Sys2Proof.Machine
end

