-- ==== Sys2Proof/Machine/HostPort.lean ====
section
/-!
DEFINITION. The host's accesses to device memory (R388–R390), the hinge ports' for peers (R393), and the completions of the
reads the device sends over the host link (R72, R411, R463, R464).
-/
namespace Sys2Proof.Machine

/-! ## Accesses through a port -/

/-- The record of an access that fails (R389): class PAGE, the kind of a translation fault or 0. -/
def portRec (r : PortReq) (kind va : Nat) : Rec :=
  { blankRec with
    kind := if r.link.isSome then 7 else 6, sev := 1, cls := 0x10, sub := kind, unit := r.link.getD 0, phys := r.phys,
    asid := if r.phys then 0 else r.asid, addr := va / 2 ^ 16 * 2 ^ 16, data := BitVec.ofNat 64 kind }

/-- The answer of a read or an atomic: a completion to the host, a reply over the link. -/
def portReply (s : State) (r : PortReq) (bs : List PByte) : State :=
  match r.link with
  | none => hostReply s (bs.map (·.val))
  | some _ => { s with hostOut := s.hostOut ++ [.peerReply r.src r.tag bs] }

/-- Bytes nobody gives, poisoned (R393). -/
def lostBytes (s : State) (va n : Nat) : List PByte := (byteAddrs va n).map (fun a => ⟨Config.lostByte s.steps a, true⟩)

/-- The access fails: a host read completes with Unsupported Request, a peer's read or atomic poisoned; a write is dropped. -/
def portFail (s : State) (r : PortReq) (kind va : Nat) : State :=
  let s := s.report (portRec r kind va)
  match r.link, r.write with
  | none, true => s
  | none, false => s.emit .unsupported
  | some _, true => s
  | some _, false => portReply s r (lostBytes s r.va r.len)

/-- The window and its context allow the access. -/
def portOpen (s : State) (r : PortReq) : Bool :=
  let c := (s.ctx r.asid).state
  let n := if r.write then r.data.length else r.len
  r.valid && (decide (c = .active) || decide (c = .suspended)) && (r.canWrite || !(r.write || r.atomic.isSome))
    && decide (r.va + n ≤ linearEnd)

/-- A read of HBM through BAR4 (R388). -/
def physRead (s : State) (pa n : Nat) : State × List PByte :=
  let bs := (byteAddrs pa n).map (fun a => (⟨hbmByte s a, halfPoison s (a / 32)⟩ : PByte))
  (((byteAddrs pa n).map (· / 64)).eraseDups.foldl (fun s a => readEffects s (64 * a)) s, bs)

def physWrite (s : State) (pa : Nat) (data : List Byte) : State :=
  let bs : List (Nat × PByte) := ((List.range data.length).zip data).map (fun p => (pa + p.1, ⟨p.2, false⟩))
  (linesTouched bs).foldl (fun s l => writeHbmLine s (l * 128) (bytesIn l bs)) s

/-- A port as a requester (R152). -/
def portAsker (r : PortReq) : Asker := ⟨r.link.elim 2000 (1000 + ·), r.id, 0, 0⟩

/-- An access at the home slice is over; with false it is still on its way. -/
def portAnswer {α : Type} (r : PortReq) (a : Access α) (ok : α → State → State) : State × Bool :=
  match a with
  | .ok x s => (ok x (unitDone s r.id), true)
  | .away s => (s, false)
  | .fault kind va s => (portFail (faultNote (unitDone s r.id) r.asid kind va) r (kind % walkError) va, true)

def noWin : Win := ⟨false, false, 0, 0⟩

/-- An access as its window has it now: VA is VABASE × 2^21 + the offset (R389). -/
def throughWindow (s : State) (r : PortReq) : PortReq :=
  match r.win with
  | none => r
  | some n =>
    let w := AMap.get noWin (if r.link.isSome then s.hwin else s.hapwin) n
    { r with win := none, valid := w.valid, canWrite := w.write, asid := w.asid, va := w.vabase * 2 ^ 21 + r.va }

/-- The access is performed at the home slice, or fails; with false it is still on its way. A write to a control register comes next. -/
def portTry (s : State) (r : PortReq) : State × Bool :=
  let u := portAsker r
  match r.ctl with
  | some e => ({ s with agenda := e :: s.agenda }, true)
  | none =>
    if r.phys then
      if hbmLimit < r.va + (if r.write then r.data.length else r.len) then (portFail s r 0 r.va, true)
      else if r.write then (physWrite s r.va r.data, true)
      else
        let (s, bs) := physRead s r.va r.len
        (portReply s r bs, true)
    else if !portOpen s r then (portFail s r 0 r.va, true)
    else if r.write then portAnswer r (unitPoke s u r.asid r.va (r.data.map (fun b => ⟨b, false⟩))) (fun _ s => s)
    else match r.atomic with
      | none => portAnswer r (unitPeek s u r.asid r.va r.len false) (fun bs s => portReply s r bs)
      | some (op, n, v, cmp) =>
        portAnswer r (unitWord s u r.asid r.va (.atomic op n r.va v cmp 0)) (fun x s =>
          portReply s r ((cleanBytes n x.val.toNat).map (fun b => { b with poison := x.poison })))

/-- An access arrives: it is performed after every earlier one of its port (R170). -/
def portArrive (s : State) (r : PortReq) : State :=
  let r := { r with id := s.nextId }
  let s := s.bump
  if s.ports.any (fun x => decide (x.link = r.link)) then { s with ports := s.ports ++ [r] }
  else
    let r := throughWindow s r
    match portTry s r with
    | (s, true) => s
    | (s, false) => { s with ports := s.ports ++ [r] }

/-- The oldest access at a port is tried again. -/
def portRetry (s : State) (link : Option Nat) : Out :=
  match s.ports.find? (fun r => decide (r.link = link)) with
  | none => .next (notOffered s)
  | some r =>
    let r' := throughWindow s r
    match portTry s r' with
    | (s, true) => .next { s with ports := s.ports.erase r }
    | (s, false) => .next (notOffered { s with ports := s.ports.replace r r' })

/-- An access at offset o of window w. -/
def winReq (w : Nat) (link : Option Nat) (o : Nat) : PortReq := { blankPort with win := some w, link := link, va := o }

/-- An access at an offset of the physical aperture. -/
def physReq (o : Nat) : PortReq := { blankPort with phys := true, va := o }

/-- A read before READY completes with Unsupported Request, and writes nothing (R459). -/
def whenReady (s : State) (body : State → Out) : Out := if s.regs.ready then body s else .next (s.emit .unsupported)

/-- Bytes of one of the 16 windows of BAR2 (R388, R389). -/
def hapBytes (s : State) : Nat := 2 ^ (s.bar2 + 20) / 16

/-- An access of n bytes at offset o of window w of BAR2: one that does not lie in it is no access to the device. -/
def hapAccess (s : State) (w o n : Nat) (f : PortReq → PortReq) : Out :=
  if w < 16 ∧ o + n ≤ hapBytes s then .next (portArrive s (f (winReq w none o))) else .next (notOffered s)

/-- HOST_WINDOW_READ: c bytes at offset b of window a of BAR2; with flag set, the host port goes on with its oldest access. -/
def execHostWindowRead (s : State) : Out :=
  if s.cur.flag then portRetry s none
  else hostAccess .hostWindowRead s fun s =>
    whenReady s fun s => hapAccess s s.cur.a s.cur.b s.cur.c (fun r => { r with len := s.cur.c })

/-- HOST_WINDOW_WRITE: the bytes at offset b of window a of BAR2. -/
def execHostWindowWrite (s : State) : Out :=
  hostPosted .hostWindowWrite s fun s =>
    hapAccess s s.cur.a s.cur.b s.cur.data.length (fun r => { r with write := true, data := s.cur.data })

/-- PHYS_APERTURE_READ: c bytes at offset b of BAR4. -/
def execPhysApertureRead (s : State) : Out :=
  hostAccess .physApertureRead s fun s =>
    whenReady s fun s => .next (portArrive s { physReq s.cur.b with len := s.cur.c })

/-- PHYS_APERTURE_WRITE: the bytes at offset b of BAR4. -/
def execPhysApertureWrite (s : State) : Out :=
  hostPosted .physApertureWrite s fun s => .next (portArrive s { physReq s.cur.b with write := true, data := s.cur.data })

/-! ## PFDONE (R362) -/

/-- A write of PFDONE, with the bits that its command has; the host's earlier writes have been performed (R170, R362). -/
def pfdone (i : Instr) (s : State) (f : DWord → DWord) : Out := hostWrite i s fun s => .next (pfdoneAct s (f s.cur.val))

def execPfdoneResolve (s : State) : Out := pfdone .pfdoneResolve s (fun v => v &&& ~~~(3 <<< 12 : DWord))
def execPfdoneFail (s : State) : Out := pfdone .pfdoneFail s (fun v => (v ||| (1 <<< 12 : DWord)) &&& ~~~(1 <<< 13 : DWord))

/-- PFDONE_ALL: every pending page of the context, resolved, or failed where FAIL is written too. -/
def execPfdoneAll (s : State) : Out := pfdone .pfdoneAll s (fun v => v ||| (1 <<< 13 : DWord))

/-! ## Requests of peers (R393) -/

/-- HINGE_INBOUND_REQUEST: a peer's request arrives on link a, at an offset of an inbound window, and is performed at the home
slice; with flag set, the link's port goes on with its oldest request. -/
def execHingeInboundRequest (s : State) : Out :=
  if s.cur.flag then portRetry s (some s.cur.a)
  else if (s.hinge s.cur.a).state ≠ .up || !s.regs.ready then .next (notOffered s)
  else if s.power ≠ 0 then .next { wake s with agenda := (.powerExitComplete, noSubject) :: (.hingeInboundRequest, s.cur) :: s.agenda }
  else
    let win (w : Nat) (o : Nat) : PortReq := winReq w (some s.cur.a) o
    match s.cur.hinge with
    | .read tag src w o len => .next (portArrive s { win w o with len := len, src := src, tag := tag })
    | .write src w o data => .next (portArrive s { win w o with write := true, data := data, src := src })
    | .atomic tag src w o op size v cmp =>
      .next (portArrive s { win w o with len := size, atomic := some (op, size, v, cmp), src := src, tag := tag })

/-! ## Identity (R462–R464) -/

def endIdCmd (s : State) (err : Nat) : State := s.modRegs (fun r => { r with idBusy := false, idErr := err })

/-- The firmware slot that a STAGE writes: the one not running. -/
def idleSlot (s : State) : Bool := if s.regs.ready then !s.regs.fwslot else !s.nv.fwActive

/-- The image has been read: it is verified, and its write to the inactive slot begins (R463). -/
def takeImageRead (s : State) (data : Option (List Byte)) : State :=
  match data with
  | none => endIdCmd s 4
  | some img =>
    if !Config.signatureOk img then endIdCmd s 2
    else if Config.imageVersion img < Config.versionFloor then endIdCmd s 3
    else s.modNv (fun n => { n with staging := some img })

/-- The report of R464. The header's layout and the digests of keys, fuses and lists are not fixed by the manual: those bytes
are free (log 25). -/
def attestReport (s : State) (nonce : List Byte) : List Byte :=
  let img := if s.regs.fwslot then s.nv.fwB else s.nv.fwA
  let known := leBytes 2 0x0192 ++ leBytes 2 Config.fusedStep.toNat ++ leBytes 8 Config.fusedSerial.toNat
    ++ leBytes 2 s.regs.fwver.toNat ++ leBytes 1 (if s.regs.fwslot then 1 else 0) ++ s.nv.offline.flatMap (leBytes 2)
    ++ s.nv.spares.flatMap (fun p => leBytes 2 p.1 ++ leBytes 4 p.2) ++ s.nv.badPages.flatMap (leBytes 4) ++ nonce
  let free (lo n : Nat) : List Byte := (List.range n).map (fun i => Config.attestByte known (lo + i))
  free 0 64 ++ sha3_512 img ++ free 0x80 192 ++ nonce ++ free 0x180 4627 ++ List.replicate 45 0

/-- A write to host memory in parts of at most 512 bytes, none of which crosses a multiple of 512 (R388). -/
def emitWrites (s : State) (a : Nat) (bs : List Byte) : State :=
  let parts := (List.range ((a % 512 + bs.length + 511) / 512)).map (fun i =>
    let lo := if i = 0 then 0 else 512 * i - a % 512
    (a + lo, (bs.take (512 * (i + 1) - a % 512)).drop lo))
  parts.foldl (fun s p => s.emit (.write p.1 p.2 true)) s

/-- The nonce has been read: the report is written over the buffer at IDARG. -/
def takeNonce (s : State) (data : Option (List Byte)) : State :=
  match data with
  | none => endIdCmd s 4
  | some bs => endIdCmd (emitWrites s s.regs.idarg.toNat (attestReport s (bs.take 64))) 0

/-! ## Completions -/

/-- A line of a host page reaches its slice; one that the host does not give is poisoned. -/
def takeHostLine (s : State) (asid line : Nat) (data : Option (List Byte)) : State :=
  match lookup s asid (line * 128) with
  | (s, .error _) => s
  | (s, .ok l) =>
    match data with
    | some bs =>
      let d := ((List.range 128).zip bs).foldl (fun d p => setByte d p.1 p.2) (0 : BitVec 1024)
      dropDemand (installL2 s asid line d 0 l false) asid line
    | none => dropDemand (installL2 s asid line (lostLine s asid line) 15 l false) asid line

/-- HOST_READ_COMPLETION: read b of those the device has sent completes with the data, or fails with flag set or with too few
bytes. -/
def execHostReadCompletion (s : State) : Out :=
  match s.hostWait[s.cur.b]? with
  | none => .next (notOffered s)
  | some w =>
    if s.link ≠ .up then .next (notOffered s)
    else
      let t := s
      let s := { s with hostWait := s.hostWait.eraseIdx s.cur.b }
      let got (n : Nat) : Option (List Byte) := if s.cur.flag || decide (s.cur.data.length < n) then none else some s.cur.data
      match w with
      | .ctxDesc quota => .next (takeCtxDesc s quota (got 128))
      | .ringDesc => .next { s with ringInfo := some ((got 32).getD [], none) }
      | .ringTail =>
        .next { s with ringInfo := s.ringInfo.map (fun x =>
          match got 8 with
          | some bs => (x.1, some (BitVec.ofNat 64 (ofLe (bs.take 8))))
          | none => ([], none)) }
      | .sliceFill _ asid line => if noRoom s asid line then .next (notOffered t) else .next (takeHostLine s asid line (got 128))
      | .stage => .next (takeImageRead s (got 64))
      | .nonce => .next (takeNonce s (got 64))

end Sys2Proof.Machine
end

