-- ==== Sys2Proof/Machine/Reports.lean ====
section
/-!
DEFINITION. Records on their way to the rings (R409–R412), the lifetime counts (R416), the identity commands (R463), the end of
writes to non-volatile storage (R368, R463), and the writes of control registers (R8).
-/
namespace Sys2Proof.Machine

/-! ## RECORD_WRITE (R409–R412) -/

/-- Drops rise, OVF is set (R410). -/
def countDrop (s : State) : State := s.modRegs (fun r => { r with errOvf := true, errDrops := satInc 16 r.errDrops })

/-- The record at the head takes the next number and leaves the queue. -/
def popRecord (s : State) : State :=
  { s with records := s.records.drop 1, ringInfo := none }.modRegs (fun r => { r with errSeq := r.errSeq + 1 })

/-- Size of the device ring as a power of two; none while it is disabled. -/
def deviceLog (s : State) : Option Nat :=
  let n := s.regs.errLog2.toNat
  if 4 ≤ n ∧ n ≤ 20 then some n else none

/-- The record goes to the device ring, in host memory or HBM. -/
def toDeviceRing (s : State) (bs : List Byte) : State :=
  let r := s.regs
  let drop := countDrop (popRecord s)
  match deviceLog s with
  | none => drop
  | some n =>
    if 2 ^ n ≤ (r.errHead - r.errTail).toNat then drop
    else
      let a := r.errBase.toNat + 64 * (r.errHead.toNat % 2 ^ n)
      if r.errTgt && decide (hbmLimit < a + 64) then drop
      else
        let s := popRecord s
        let s := if r.errTgt then physWrite s a bs else s.emit (.write a bs true)
        s.modRegs (fun r => { r with errHead := r.errHead + 1 })

/-- A ring descriptor (R411), VALID and well formed: BASE, LOG2N, VECTOR, HEADADDR, TAILADDR. -/
def ringOf (d : List Byte) : Option (Nat × Nat × Nat × Nat × Nat) :=
  let f (o n : Nat) : Nat := ofLe ((d.drop o).take n)
  if decide (32 ≤ d.length) && decide (f 0 8 % 64 = 0) && decide (4 ≤ f 8 1) && decide (f 8 1 ≤ 16) && decide (f 9 1 = 1)
      && decide (f 0xA 2 < 2048) && decide (f 0xC 4 = 0) then some (f 0 8, f 8 1, f 0xA 2, f 0x10 8, f 0x18 8)
  else none

/-- The record goes to an operating-system ring: the record, then the head count, then the vector. -/
def toOsRing (s : State) (ring : Nat) (d : Nat × Nat × Nat × Nat × Nat) (tail : DWord) (bs : List Byte) : State :=
  let (base, n, vector, headaddr, _) := d
  let head := AMap.get (0 : DWord) s.osHeads ring
  if 2 ^ n ≤ (head - tail).toNat then countDrop (popRecord s)
  else
    let s := popRecord s
    let s := (s.emit (.write (base + 64 * (head.toNat % 2 ^ n)) bs true)).emit (.write headaddr (leBytes 8 (head + 1).toNat) false)
    { s with osHeads := AMap.set 0 s.osHeads ring (head + 1) }.emit (.msix vector)

/-- A read the record's ring needs is sent once. -/
def askRing (s : State) (w : HostWait) (a n : Nat) : Out :=
  if s.hostWait.contains w then .next (notOffered s)
  else .next { s.emit (.readReq 0 a n) with hostWait := s.hostWait ++ [w] }

/-- RECORD_WRITE: the oldest record goes to its ring; for an operating-system ring its descriptor and then its tail are read
first. -/
def execRecordWrite (s : State) : Out :=
  match s.records with
  | [] => .next (notOffered s)
  | r :: _ =>
    if s.link ≠ .up then .next (notOffered s)
    else whenAwake s <|
      let bs := recBytes { r with seq := s.regs.errSeq }
      let c := s.ctx r.asid
      if r.asid = 0 || decide (c.state = .free) then .next (toDeviceRing s bs)
      else match s.ringInfo with
        | none => askRing s .ringDesc (s.regs.irqtbase.toNat + 32 * c.irqring) 32
        | some (d, tail) =>
          match ringOf d, tail with
          | none, _ => .next (toDeviceRing s bs)
          | some x, none => askRing s .ringTail x.2.2.2.2 8
          | some x, some t => .next (toOsRing s c.irqring x t bs)

/-- ERRTAIL_WRITE: the driver's count of records consumed, at most ERRHEAD. -/
def execErrtailWrite (s : State) : Out :=
  hostWrite .errtailWrite s fun s =>
    let t : Word := s.cur.val.setWidth 32
    let head := s.regs.errHead
    let above := decide (0 < (t - head).toNat) && decide ((t - head).toNat < 2 ^ 31)
    .next (s.modRegs (fun r => { r with errTail := if above then head else t }))

def errstat (r : Regs) : DWord :=
  BitVec.ofNat 64 ((if r.errOvf then 2 ^ 63 else 0) + (if r.errBadcfg then 2 ^ 62 else 0) + r.errDrops.toNat * 2 ^ 32 + r.errSeq.toNat)

/-- ERRSTAT_READ: DROPS clears. -/
def execErrstatRead (s : State) : Out :=
  hostReadClear .errstatRead s (fun s => errstat s.regs) (fun s => s.modRegs (fun r => { r with errDrops := 0 }))

/-! ## Lifetime counts (R416) -/

def satCount (n : Nat) : Nat := min (2 ^ 64 - 1) n

/-- The counts with those gathered since the last flush. -/
def lifeCount (n : NonVol) (i : Nat) : Nat := satCount (AMap.get 0 n.life i + AMap.get 0 n.unflushed i)

/-- The 512-byte block: the counts of the table in order, 8 bytes each, then 32 zero bytes. -/
def lifeBlock (n : NonVol) : List Byte := (List.range 60).flatMap (fun i => leBytes 8 (lifeCount n i)) ++ List.replicate 32 0

/-- The counts go to non-volatile storage. -/
def flushLife (n : NonVol) : NonVol :=
  { n with life := n.unflushed.foldl (fun m p => AMap.set 0 m p.1 (satCount (AMap.get 0 m p.1 + p.2))) n.life, unflushed := [] }

def addLife (n : NonVol) (i k : Nat) : NonVol := { n with unflushed := AMap.set 0 n.unflushed i (satCount (AMap.get 0 n.unflushed i + k)) }

/-- Bucket of a day's correctable errors: 0, 1, 2–3, 4–7, …, 2^14 and above. -/
def dayBucket (n : Nat) : Nat := if n = 0 then 0 else min 15 (Nat.log2 n + 1)

/-- LIFETIME_FLUSH: a further a seconds have passed with the hottest die in temperature bucket b; the counts are flushed; with
flag set a day has ended. -/
def execLifetimeFlush (s : State) : Out :=
  .next (s.modNv (fun n =>
    let n := addLife (addLife n 0 s.cur.a) (28 + min 15 s.cur.b) s.cur.a
    flushLife (if s.cur.flag then { addLife n (44 + dayBucket n.ceToday) 1 with ceToday := 0 } else n)))

/-- LIFECMD: a copy of the block to the host address written begins, and LIFESTAT.BUSY is 1; with flag set, the oldest copy in
progress is complete. -/
def execLifecmd (s : State) : Out :=
  if s.cur.flag then
    match s.regs.lifeCopies with
    | [] => .next (notOffered s)
    | a :: rest =>
      if s.link ≠ .up then .next (notOffered s)
      else .next ((s.emit (.write a (lifeBlock s.nv) true)).modRegs (fun r => { r with lifeCopies := rest }))
  else hostWrite .lifecmd s fun s =>
    let a := s.cur.val.toNat
    .next (if a % 512 = 0 then s.modRegs (fun r => { r with lifeCopies := r.lifeCopies ++ [a] }) else s)

/-! ## Identity commands (R463) -/

/-- A write of IDCMD, which is taken in recovery as well (R460). -/
def idCommand (i : Instr) (s : State) (body : State → State) : Out :=
  hostAccess i s fun s =>
    if !s.regs.ready && decide (s.regs.booterr = 0) then .next s
    else inTurn i s fun s =>
      if s.regs.idBusy then .next (s.modRegs (fun r => { r with idLost := true }))
      else .next (body s)

/-- A read of n bytes at IDARG. -/
def readIdarg (s : State) (w : HostWait) (n : Nat) : State :=
  let s := s.modRegs (fun r => { r with idBusy := true })
  { s.emit (.readReq 0 s.regs.idarg.toNat n) with hostWait := s.hostWait ++ [w] }

/-- ID_ATTEST: the nonce at IDARG is read; in recovery the command is refused, and an IDARG out of line fails. -/
def execIdAttest (s : State) : Out :=
  idCommand .idAttest s (fun s =>
    if !s.regs.ready then endIdCmd s 1
    else if s.regs.idarg.toNat % 128 ≠ 0 then endIdCmd s 4
    else readIdarg s .nonce 64)

/-- ID_STAGE: the image at IDARG is read. -/
def execIdStage (s : State) : Out := idCommand .idStage s (fun s => readIdarg s .stage 64)

/-- NONVOLATILE_WRITE_COMPLETE: the bad-page entry being written is on the list and its frame Retired; with flag set the staged
image is in the inactive slot, which is active from the next reset. -/
def execNonvolatileWriteComplete (s : State) : Out :=
  if s.cur.flag then
    match s.nv.staging with
    | none => .next (notOffered s)
    | some img =>
      let b := idleSlot s
      .next (endIdCmd (s.modNv (fun n => { n with staging := none, fwActive := b, fwA := if b then n.fwA else img, fwB := if b then img else n.fwB })) 0)
  else match s.nv.adding with
    | none => .next (notOffered s)
    | some pfn => .next (endBpl (retireFrame s pfn) 0)

/-! ## REGISTER_WRITE (R8) -/

def fieldOf (v : DWord) (lo n : Nat) : Nat := v.toNat / 2 ^ lo % 2 ^ n

/-- A window register. -/
def winOf (v : DWord) : Win := ⟨v.getLsbD 63, v.getLsbD 62, fieldOf v 21 31, fieldOf v 0 12⟩

/-- A command register written with an OP that starts no command: lost while one is in progress, whatever its OP; else BADOP unless
the OP is the one with no effect. A valid OP has an event of its own. -/
def oddCommand (s : State) (op last : Nat) (zeroOk busy : Bool) (lost bad : State → State) : Out :=
  if 1 ≤ op ∧ op ≤ last then .next (notOffered s)
  else if busy then .next (lost s)
  else if decide (op = 0) && zeroOk then .next s
  else .next (bad s)

/-- A write of 1 to CMDLOST clears it. -/
def clears (v : DWord) (i : Nat) (old : Bool) : Bool := old && !v.getLsbD i

/-- The write of each register. -/
def writeReg (s : State) (reg : CtlReg) (v : DWord) : Out :=
  let set (f : Regs → Regs) : Out := .next (s.modRegs f)
  match reg with
  | .ctxcmd => oddCommand s (fieldOf v 0 4) 8 true s.regs.ctxBusy (fun s => s.modRegs (fun r => { r with ctxLost := true })) (fun s => endCtxCmd s (cmdCtx v) 1)
  | .ctxarg => set (fun r => { r with ctxarg := v })
  | .ctxstat => set (fun r => { r with ctxLost := clears v 62 r.ctxLost })
  | .qcmd => oddCommand s (fieldOf v 0 4) 7 true s.regs.qBusy (fun s => s.modRegs (fun r => { r with qLost := true })) (fun s => endQueueCmd s (cmdQid v) 1)
  | .qarg => set (fun r => { r with qarg := v })
  | .qstat => set (fun r => { r with qLost := clears v 62 r.qLost })
  | .schedcfg => set (fun r => { r with
      preempt := v.getLsbD 48, deppoll := v.extractLsb' 32 16, quantum := v.extractLsb' 16 16, drainMax := v.extractLsb' 0 16 })
  | .wdogcfg => set (fun r => { r with wdogEn := v.getLsbD 7, wdogLog2 := v.extractLsb' 0 6 })
  | .faqstat => set (fun r => { r with faqOvf := clears v 40 r.faqOvf, cethr := v.extractLsb' 32 8 })
  | .bplcmd => oddCommand s (fieldOf v 60 4) 2 false s.regs.bplBusy (fun s => s.modRegs (fun r => { r with bplLost := true })) (fun s => endBpl s 1)
  | .bplstat => set (fun r => { r with bplLost := clears v 62 r.bplLost })
  | .refcfg => set (fun r => { r with askip := v.getLsbD 0 })
  | .fabcfg => set (fun r => { r with ken := v.getLsbD 32, holdmax := v.extractLsb' 16 8, kthr := v.extractLsb' 0 16 })
  | .smapcmd => oddCommand s (fieldOf v 60 4) 3 true s.regs.smapBusy (fun s => s.modRegs (fun r => { r with smapLost := true })) (fun s => endSmap s 1)
  | .smapstat => set (fun r => { r with smapLost := clears v 62 r.smapLost })
  | .hlid => set (fun r => { r with hlid := v.extractLsb' 0 10 })
  | .errbase => set (fun r => { r with errBase := v.extractLsb' 6 58 ++ (0 : BitVec 6), errTgt := v.getLsbD 0 })
  | .errsize => set (fun r => { r with
      errLog2 := v.extractLsb' 0 5,
      errBadcfg := !(decide (fieldOf v 0 5 = 0) || (decide (4 ≤ fieldOf v 0 5) && decide (fieldOf v 0 5 ≤ 20))) })
  | .errstat => set (fun r => { r with errOvf := clears v 63 r.errOvf })
  | .irqtbase => set (fun r => { r with irqtbase := v.extractLsb' 6 58 ++ (0 : BitVec 6) })
  | .pwrcfg => set (fun r => { r with
      maxs := v.extractLsb' 48 3, tol := v.extractLsb' 32 16, vramp := v.extractLsb' 24 8, hbmx := v.extractLsb' 16 8,
      idledly := v.extractLsb' 0 16 })
  | .idcmd => oddCommand s (fieldOf v 0 4) 2 true s.regs.idBusy (fun s => s.modRegs (fun r => { r with idLost := true })) (fun s => endIdCmd s 1)
  | .idarg => set (fun r => { r with idarg := v })
  | .idstat => set (fun r => { r with idLost := clears v 62 r.idLost })
  | .hapwin k => if k < 16 then .next { s with hapwin := AMap.put s.hapwin k (winOf v) } else .next s
  | .hwin k => if k < 256 then .next { s with hwin := AMap.put s.hwin k (winOf v) } else .next s
  | .barsize => if 10 ≤ fieldOf v 8 6 ∧ fieldOf v 8 6 ≤ 18 then .next { s with bar2 := fieldOf v 8 6 } else .next s
  | .qbell | .tlbinv | .pfdone | .errtail | .lifecmd | .hlctl _ => .next (notOffered s)
  | .hlstat _ | .faqpop | .fabcnt | .errhead | .lifestat | .pwrstat | .devstat | .devid | .devser => .next s

/-! ## What a read returns (R8)

Reserved and write-only fields read zero. -/

def bit (b : Bool) (i : Nat) : Nat := if b then 2 ^ i else 0

def winWord (w : Win) : Nat := bit w.valid 63 + bit w.write 62 + w.vabase * 2 ^ 21 + w.asid

/-- HLSTATk and FABCNT (R382, R392). -/
def hingeCode : HingeState → Nat
  | .down => 0 | .training => 1 | .up => 2 | .failed => 3

def hlstatWord (h : Hinge) : DWord :=
  BitVec.ofNat 64 (hingeCode h.state * 2 ^ 59 + h.lanes.toNat * 2 ^ 52 + h.peer.toNat * 2 ^ 42 + h.retrain * 2 ^ 32 + h.replay)

def fabcntWord (r : Regs) : DWord := r.weeppkt ++ r.kcapt ++ r.kregen ++ (0 : BitVec 8)

/-- The value of each register, before a read clears what it clears. -/
def regValue (s : State) (reg : CtlReg) : DWord :=
  let r := s.regs
  let w (n : Nat) : DWord := BitVec.ofNat 64 n
  match reg with
  | .ctxcmd | .qcmd | .bplcmd | .smapcmd | .idcmd | .qbell | .pfdone | .lifecmd => 0
  | .ctxarg => r.ctxarg
  | .ctxstat => w (bit r.ctxBusy 63 + bit r.ctxLost 62 + r.ctxState * 2 ^ 32 + r.ctxSub * 2 ^ 16 + r.ctxErr * 2 ^ 12 + r.ctxAsid)
  | .qarg => r.qarg
  | .qstat => w (bit r.qBusy 63 + bit r.qLost 62 + r.qLastst % 2 ^ 16 * 2 ^ 32 + r.qSlot * 2 ^ 24 + bit r.qMapped 23 + r.qState * 2 ^ 20
      + r.qErr * 2 ^ 16 + r.qQid)
  | .schedcfg => w (bit r.preempt 48 + r.deppoll.toNat * 2 ^ 32 + r.quantum.toNat * 2 ^ 16 + r.drainMax.toNat)
  | .wdogcfg => w (bit r.wdogEn 7 + r.wdogLog2.toNat)
  | .faqstat => w (bit r.faqOvf 40 + r.cethr.toNat * 2 ^ 32 + s.faq.length)
  | .bplstat => w (bit r.bplBusy 63 + bit r.bplLost 62 + r.bplErr * 2 ^ 56 + s.nv.badPages.length * 2 ^ 31 + r.bplData)
  | .refcfg => w (r.refSkips.toNat * 2 ^ 32 + bit r.askip 0)
  | .fabcfg => w (bit r.ken 32 + r.holdmax.toNat * 2 ^ 16 + r.kthr.toNat)
  | .smapstat => w (bit r.smapBusy 63 + bit r.smapLost 62 + r.smapErr * 2 ^ 56 + (96 - s.retired.length) * 2 ^ 32 + r.smapData)
  | .hlid => w r.hlid.toNat
  | .errbase => w (r.errBase.toNat + bit r.errTgt 0)
  | .errsize => w r.errLog2.toNat
  | .errstat => errstat r
  | .irqtbase => r.irqtbase
  | .pwrcfg => w (r.maxs.toNat * 2 ^ 48 + r.tol.toNat * 2 ^ 32 + r.vramp.toNat * 2 ^ 24 + r.hbmx.toNat * 2 ^ 16 + r.idledly.toNat)
  | .idarg => r.idarg
  | .idstat => w (bit r.idBusy 63 + bit r.idLost 62 + r.idErr)
  | .hapwin k => w (winWord (AMap.get noWin s.hapwin k))
  | .hwin k => w (winWord (AMap.get noWin s.hwin k))
  | .hlctl k => w (bit (s.hinge k).en 0)
  | .hlstat k => hlstatWord (s.hinge k)
  | .tlbinv => w (bit r.tlbBusy 63 + bit r.tlbLost 62)
  | .faqpop => (match s.faq with | e :: _ => faqWord e | [] => 0)
  | .fabcnt => fabcntWord r
  | .errhead => r.errHead.setWidth 64
  | .errtail => r.errTail.setWidth 64
  | .lifestat => w (bit (!r.lifeCopies.isEmpty) 63)
  | .pwrstat => r.ent3 ++ r.ent2 ++ BitVec.ofNat 32 s.power
  | .devstat => w (bit r.ready 63 + r.booterr * 2 ^ 52 + bit r.fwslot 48 + r.fwver.toNat * 2 ^ 32)
  | .devid => w (0x0192 * 2 ^ 48 + Config.fusedStep.toNat * 2 ^ 32)
  | .devser => Config.fusedSerial
  | .barsize => w (s.bar2 * 2 ^ 8)

/-- The registers that respond in recovery besides those that always do (R460). -/
def recoveryReg (r : CtlReg) : Bool := decide (r = .idcmd) || decide (r = .idarg) || decide (r = .idstat)

/-- The registers a read of which answers before READY (R459), and configuration space. -/
def earlyReg (r : CtlReg) : Bool := decide (r = .devstat) || decide (r = .devid) || decide (r = .devser) || decide (r = .barsize)

/-- A register responds to software now (R459, R460). -/
def responds (s : State) (r : CtlReg) : Bool := s.regs.ready || earlyReg r || (decide (s.regs.booterr ≠ 0) && recoveryReg r)

/-- A read of the register clears some of its fields, and has an event of its own. -/
def clearsOnRead : CtlReg → Bool
  | .faqpop | .fabcnt | .refcfg | .errstat | .pwrstat | .hlstat _ => true
  | _ => false

/-- REGISTER_WRITE: the host writes a control register; one that does not respond yet discards the write (R459). With flag set the
host reads one, whose completion holds its value, or 0 where it does not respond. -/
def execRegisterWrite (s : State) : Out :=
  if s.cur.flag then
    if clearsOnRead s.cur.reg then .next (notOffered s)
    else hostAccess .registerWrite s fun s => inTurn .registerWrite s fun s =>
      .next (hostReply s (leBytes 8 (if responds s s.cur.reg then regValue s s.cur.reg else 0).toNat))
  else hostAccess .registerWrite s fun s =>
    if responds s s.cur.reg then inTurn .registerWrite s (fun s => writeReg s s.cur.reg s.cur.val) else .next s

end Sys2Proof.Machine
end

