-- ==== Sys2Proof/Machine/Errors.lean ====
section
/-!
DEFINITION. Errors the units of the device detect (R396, R405, R413, R467), and the end of targeted self-tests (R414, R415).
-/
namespace Sys2Proof.Machine

/-! ## Where an error is found -/

/-- Structures of CE and UE records (R408), and the link of a router, which has records of class FABRIC. -/
def aLink : Nat := 10

/-- The record of an error without its severity and class: unit kind, structure as sub-code, unit, context, address. -/
def placeRec (s : State) : ErrorPlace → Rec
  | .laneReg g _ _ => { groupRec s g with sub := 1 }
  | .scalarReg g _ => { groupRec s g with sub := 2 }
  | .windowReg g _ _ => { groupRec s g with sub := 1 }
  | .l1Sector c asid sec => { blankRec with kind := 1, sub := 3, unit := c, asid := asid, addr := sec * 32 }
  | .scratchSector c sec => { blankRec with kind := 1, sub := 3, unit := c, addr := sec * 32 }
  | .instructionStore c _ => { blankRec with kind := 1, sub := 4, unit := c }
  | .tileGranule c _ => { blankRec with kind := 1, sub := 5, unit := c }
  | .l2Sector asid sec =>
    { blankRec with kind := 2, sub := 6, unit := owner s (bucketOf asid (sec / 4)), asid := asid, addr := sec * 32 }
  | .hbmHalf pa _ => { blankRec with kind := 4, sub := 7, unit := holdCtrl pa, phys := true, addr := pa / 32 * 32 }
  | .graphEntry u asid _ => { blankRec with kind := 3, sub := 8, unit := u, asid := asid }
  | .graphStorage u asid a => { blankRec with kind := 3, sub := 8, unit := u, asid := asid, addr := a / 32 * 32 }
  | .reducer u => { blankRec with kind := 4, sub := 9, unit := u }
  | .context asid => { blankRec with kind := 8, asid := asid }
  | .flit r => { blankRec with kind := 5, unit := r }
  | .privileged k c sub u => { blankRec with kind := k, cls := c, sub := sub, unit := u }
where
  groupRec (s : State) (g : Nat) : Rec :=
    { blankRec with kind := 1, unit := s.coreOf g, asid := s.asidOf g, teamid := (s.teamOf g).teamid, grpid := (s.grp g).grpid }

/-- The element of its structure that a place lies in, which is tested (R414): a row of a register file, an instruction store, a tile or
a cache; a frame; an entry; a link. -/
def elementOf (s : State) : ErrorPlace → Nat
  | .laneReg g r _ => 512 * (s.grp g).partition + (s.grp g).vbase + r
  | .windowReg g k _ => 2048 + 4 * g + k
  | .scalarReg g r => 64 * g + r.toNat
  | .l1Sector _ _ sec | .l2Sector _ sec | .scratchSector _ sec => sec
  | .tileGranule _ q => q / 16
  | .hbmHalf pa _ => frameOf pa
  | .graphEntry _ asid gid => asid * 2 ^ 16 + gid
  | .graphStorage _ _ a => a / 32
  | .instructionStore _ slot => slot
  | .reducer _ | .context _ | .privileged _ _ _ _ => 0
  | .flit r => r

/-- The team whose own state the place holds, if any (R405): registers, windows, scratch, tiles. -/
def teamAt (s : State) : ErrorPlace → Option Nat
  | .laneReg g _ _ => some (s.grp g).team
  | .scalarReg g _ => some (s.grp g).team
  | .windowReg g _ _ => some (s.grp g).team
  | .scratchSector c sec => (holder s c (fun t => t.ways.contains (sec * 32 / 16384)))
  | .tileGranule c q =>
    let t := q / (96 * 16)
    match ((s.core c).bank t).owner with
    | some (g, _) => some (s.grp g).team
    | none => holder s c (fun x => x.tiles.contains t)
  | _ => none
where
  holder (s : State) (c : Nat) (p : Team → Bool) : Option Nat :=
    (s.teams.find? (fun x => decide (x.2.core = c) && decide (x.2.state ≠ .retired) && decide (x.2.state ≠ .saved) && p x.2)).map (·.1)

/-! ## Poison at its birth (R396) -/

def poisonBytes (bs : List (Nat × PByte)) : List (Nat × PByte) := bs.map (fun b => (b.1, { b.2 with poison := true }))

/-- A packet whose data is lost carries it on poisoned. -/
def poisonMsg (m : Msg) : Msg :=
  let bad (bs : List PByte) : List PByte := bs.map (fun b => { b with poison := true })
  { m with body := match m.body with
    | .req (.write bs) => .req (.write (poisonBytes bs))
    | .req (.granule bs _) => .req (.granule (poisonBytes bs) false)
    | .rep (.sector k bs) => .rep (.sector k (bad bs))
    | .rep (.bytes bs) => .rep (.bytes (bad bs))
    | .rep (.value v _ l) => .rep (.value v true l)
    | .dirty bs => .dirty (poisonBytes bs)
    | .walked kind bs => .walked kind (poisonBytes bs)
    | .half id hi d _ => .half id hi d 3
    | .store pa bs => .store pa (poisonBytes bs)
    | .arrayAns id c (.bytes bs) => .arrayAns id c (.bytes (poisonBytes bs))
    | .arrayAns id c (.word v) => .arrayAns id c (.word { v with poison := true })
    | .arrayAns id c (.lanes ls got) => .arrayAns id c (.lanes ls (got.map (fun p => (p.1, { p.2 with poison := true }))))
    | b => b }

/-- Graph storage that a unit holds is lost: the next operation that reads the sector finds it poisoned, and so does memory once it is
written back (R200). -/
def poisonGraph (s : State) (unit asid a : Nat) : State :=
  let k := storeKey unit a / 32
  s.modCtx asid (fun c =>
    { c with gbad := if c.gstore.any (fun p => decide (p.1 / 32 = k)) && !c.gbad.contains k then c.gbad ++ [k] else c.gbad })

/-- The element where an uncorrectable error was found is poisoned. -/
def poisonPlace (s : State) : ErrorPlace → State
  | .laneReg g r l => s.modGrp g (fun x => x.setVelt r l { x.velt r l with poison := true })
  | .scalarReg g r =>
    if r.toNat = 0 ∨ r.toNat = 58 then s
    else s.modGrp g (fun x => { x with s := AMap.set zeroReg x.s r.toNat { x.sraw r.toNat with poison := true } })
  | .windowReg g k l => s.modGrp g (fun x => x.setWin k l { x.win k l with poison := true })
  | .l1Sector c asid sec =>
    match l1Line s c asid (sec / 4) with
    | some x => setL1 s c asid (sec / 4) { x with poison := x.poison ||| ((1 : BitVec 4) <<< (sec % 4)) }
    | none => s
  | .scratchSector c sec => s.modCore c (fun k => { k with scratchPoison := AMap.set false k.scratchPoison sec true })
  | .tileGranule c q => s.modCore c (fun k => { k with tilePoison := AMap.set false k.tilePoison q true })
  | .l2Sector asid sec =>
    match l2Line s asid (sec / 4) with
    | some x => { s with l2 := AMap.put s.l2 (lineKey asid (sec / 4)) { x with poison := x.poison ||| ((1 : BitVec 4) <<< (sec % 4)) } }
    | none => s
  | .graphStorage u asid a => poisonGraph s u asid a
  | _ => s

/-! ## ERROR_DETECTED -/

/-- A correctable error of a unit and address whose record still waits is merged into it (R407). -/
def reportCe (s : State) (r : Rec) : State :=
  let same (x : Rec) : Bool :=
    decide ((x.sev, x.cls, x.sub, x.kind, x.unit) = (r.sev, r.cls, r.sub, r.kind, r.unit)) && decide ((x.asid, x.addr) = (r.asid, r.addr))
  if s.records.any same then { s with records := s.records.map (fun x => if same x then { x with count := min 65535 (x.count + 1) } else x) }
  else s.report r

/-- A frame has a further correctable error, which a controller saw (R366, R367). -/
def countFrame (s : State) (pfn chan : Nat) : State :=
  let f := s.frame pfn
  let ce := f.ce + 1
  refreshFaq (s.setFrame pfn { f with ce := ce, suspect := f.suspect || (!f.retired && decide (max 1 s.regs.cethr.toNat ≤ ce)) }) pfn chan

/-- A corrected error: a record, a count, a test; at an HBM half the frame's count and ERR_COR (R413). -/
def detectCe (s : State) (p : ErrorPlace) : State :=
  let r := { placeRec s p with sev := 0, cls := 0x23, data := Config.syndrome s.steps (placeRec s p).addr }
  let elt := elementOf s p
  match p with
  | .flit u =>
    let r := { r with cls := 0x21, sub := 2, data := 0 }
    ((reportCe s r).tellHost 0 r).askTest aLink u elt false
  | .privileged _ _ _ _ =>
    let r := { placeRec s p with sev := 0 }
    (reportCe s r).tellHost 0 r
  | .context _ => (reportCe s r).tellHost 0 r
  | .hbmHalf pa _ => (countFrame (((reportCe s r).tally r.sub).tellHost 0 r) (frameOf pa) (holdCtrl pa)).askTest r.sub r.unit elt false
  | _ => ((reportCe s r).tally r.sub).askTest r.sub r.unit elt false

/-- An uncorrectable error at a place that holds data: poisoned, and a record of class UE (R396); of a team in Handler, its
context's fault (R405). -/
def detectData (s : State) (p : ErrorPlace) (r : Rec) : State :=
  let s := (((poisonPlace s p).report r).tally (9 + r.sub)).askTest r.sub r.unit (elementOf s p) true
  match teamAt s p with
  | some t =>
    let x := s.team t
    if x.state = .handler then contextFault s x.asid 4 x.teamid r.grpid else s
  | none => s

/-- An uncorrectable error. In context state held on chip it is that context's fault (R406); in an HBM half it is found by
the read that meets it, now or, with `later`, at the next (R467); in a privileged unit's own state it is of the fatal class, or
with `later` not (R413). -/
def detectUe (s : State) (p : ErrorPlace) (later : Bool) : State :=
  let r := { placeRec s p with sev := 1, cls := 0x24, data := Config.syndrome s.steps (placeRec s p).addr }
  match p with
  | .hbmHalf pa lasting =>
    let s := { s with hbmBad := AMap.put s.hbmBad (pa / 32) lasting, hbmPoison := AMap.del s.hbmPoison (pa / 32) }
    if later then s else readHalf s (pa / 32)
  | .graphEntry u asid gid =>
    let s := ((s.report r).tally 17).askTest r.sub r.unit (elementOf s p) true
    contextFault (s.modCtx asid (fun c => { c with gents := AMap.del c.gents (u * 65536 + gid) })) asid 7 0 0
  | .context asid => contextFault s asid 7 0 0
  | .flit u =>
    let r := { r with cls := 0x21, sub := 3, data := 0 }
    ((s.report r).tellHost 1 r).askTest aLink u (elementOf s p) true
  | .privileged _ _ _ _ =>
    let r := { placeRec s p with sev := 1 }
    if later then (s.report r).tellHost 1 r else fatalError s r
  | _ => detectData s p r

/-- ERROR_DETECTED: an error is detected at the subject's place, a packet's flits being those of packet b. -/
def execErrorDetected (s : State) : Out :=
  let e := s.cur.place
  if s.cur.c = 0 then .next (detectCe s e)
  else
    let s := match e with
      | .flit _ => mapMsg s s.cur.b poisonMsg
      | _ => s
    .next (detectUe s e s.cur.flag)

/-! ## SELFTEST_COMPLETE (R415) -/

/-- The outcomes a structure's test can have. -/
def outcomeOk (structure' c : Nat) (spares : Nat) : Bool :=
  match c with
  | 1 => true
  | 2 => decide (structure' ≠ 7) && decide (structure' ≠ aLink) && decide (spares < 8)
  | 3 => decide (1 ≤ structure') && decide (structure' ≤ 5)
  | 4 => decide (structure' = 6)
  | 5 => decide (structure' = 7)
  | 6 => decide (structure' = aLink)
  | _ => false

def testKind (structure' : Nat) : Nat :=
  if structure' ≤ 5 then 1 else if structure' = 6 then 2 else if structure' = 8 then 3 else if structure' = aLink then 5 else 4

/-- An array with spare rows. -/
def arrayOf (structure' unit : Nat) : Nat := structure' * 256 + unit

/-- A cooperative packet in Waiting that no longer fits is rejected (R95, R415). -/
def recheckCoop (s : State) : State :=
  (s.queues.map (·.1)).foldl (fun s q =>
    let x := s.queue q
    if x.head = .waiting && noFit s (s.kernel x.kernel) then rejectPacket s q 0x010A else s) s

/-- What an outcome does besides its record. -/
def applyOutcome (s : State) (structure' unit elt c : Nat) (ue : Bool) : State :=
  match c with
  | 1 => if structure' = 7 && !ue then s.setFrame elt { s.frame elt with suspect := false } else s
  | 2 => s.modNv (fun n => { n with spares := n.spares ++ [(arrayOf structure' unit, elt)] })
  | 3 =>
    let s := s.modNv (fun n => { n with offline := if n.offline.contains unit then n.offline else n.offline ++ [unit] })
    recheckCoop (s.modCore unit (fun q => { q with offline := true }))
  | 5 => queueFault s elt unit ue
  | 6 => fatalError s { blankRec with kind := 5, cls := 0x21, sub := 5, unit := unit }
  | _ => s

/-- SELFTEST_COMPLETE: test b of those running ends with outcome c. -/
def execSelftestComplete (s : State) : Out :=
  match s.selftests[s.cur.b]? with
  | none => .next (notOffered s)
  | some (st, unit, elt, ue) =>
    let c := s.cur.c
    let used := (s.nv.spares.filter (fun p => decide (p.1 = arrayOf st unit))).length
    if !outcomeOk st c used then .next (notOffered s)
    else
      let s := { s with selftests := s.selftests.eraseIdx s.cur.b }
      let s := (s.report { blankRec with kind := testKind st, sev := 1, cls := 0x26, sub := c, unit := unit }).tally (18 + c)
      .next (applyOutcome s st unit elt c ue)

end Sys2Proof.Machine
end

