-- ==== Sys2Proof/Machine/Hinges.lean ====
section
/-!
DEFINITION. The hinge links (R392) and the replies of peers (R393, R394).
-/
namespace Sys2Proof.Machine

def State.setHinge (s : State) (k : Nat) (h : Hinge) : State := { s with hinges := AMap.put s.hinges k h }

/-- An event of link a, one of the 18, in a state that allows it. -/
def onHinge (s : State) (ok : Hinge → Bool) (f : Nat → Hinge → State) : Out :=
  let h := s.hinge s.cur.a
  if decide (s.cur.a < 18) && ok h then .next (f s.cur.a h) else .next (notOffered s)

/-- An atomic on a peer page ends with an old value. -/
def endPeerAtomic (s : State) (id : Nat) (old : DWord) (poison : Bool) : State :=
  match findMsg s.arrived id with
  | some m =>
    match m.body with
    | .req (.atomic _ _ _ _ _ lane) => performed s m (.value old poison lane)
    | _ => s
  | none => s

/-- A request in flight on a link that is gone (R394). -/
def losePeer (s : State) (r : PeerReq) : State :=
  match r.body, r.msg with
  | .read, _ => readLost s r
  | .write _, _ => hingeLoss s r.link r.asid r.line
  | .atomic _ _ _ _ _, some id => endPeerAtomic (hingeLoss s r.link r.asid r.line) id (Config.lostWord s.steps) true
  | .atomic _ _ _ _ _, none => hingeLoss s r.link r.asid r.line

/-- The requests of a link end. -/
def endLink (s : State) (k : Nat) : State :=
  let rs := s.peerReqs.filter (fun r => decide (r.link = k))
  rs.foldl losePeer { s with peerReqs := s.peerReqs.filter (fun r => decide (r.link ≠ k)) }

/-- HINGE_LOCK: training link a locks with c lanes, and its far end is peer b; what was in flight is sent again. -/
def execHingeLock (s : State) : Out :=
  onHinge s (fun h => decide (h.state = .training)) (fun k h =>
    let s := s.setHinge k { h with state := .up, peer := BitVec.ofNat 10 s.cur.b, lanes := BitVec.ofNat 3 s.cur.c, fails := 0 }
    { s with hostOut := s.hostOut ++ (s.peerReqs.filter (fun r => decide (r.link = k))).map (fun r => .peerReq k r.pa r.body) })

/-- HINGE_FLIT_REPLAY: a flit of link a is replayed. -/
def execHingeFlitReplay (s : State) : Out :=
  onHinge s (fun h => decide (h.state = .up)) (fun k h => s.setHinge k { h with replay := min (2 ^ 32 - 1) (h.replay + 1) })

/-- HINGE_LINK_LOSS: link a trains again. -/
def execHingeLinkLoss (s : State) : Out :=
  onHinge s (fun h => decide (h.state = .up)) (fun k h => s.setHinge k { h with state := .training, retrain := min 255 (h.retrain + 1) })

/-- HINGE_TRAIN_FAIL: a training of link a fails; with the third in a row the link is Failed. -/
def execHingeTrainFail (s : State) : Out :=
  onHinge s (fun h => decide (h.state = .training)) (fun k h =>
    if h.fails < 2 then s.setHinge k { h with fails := h.fails + 1 }
    else
      let s := s.setHinge k { h with state := .failed, fails := 0 }
      endLink (s.report { blankRec with kind := 7, sev := 1, cls := 0x22, sub := 2, unit := k }) k)

/-- HLCTL_EN_SET: a Down link begins to train. -/
def execHlctlEnSet (s : State) : Out :=
  hostWrite .hlctlEnSet s fun s =>
    onHinge s (fun _ => true) (fun k h =>
      s.setHinge k (match h.state with | .down => { h with state := .training, en := true, fails := 0 } | _ => { h with en := true }))

/-- HLCTL_EN_CLEAR: the link goes Down and its requests end. -/
def execHlctlEnClear (s : State) : Out :=
  hostWrite .hlctlEnClear s fun s =>
    onHinge s (fun _ => true) (fun k h => endLink (s.setHinge k { h with state := .down, en := false }) k)

/-- HLSTAT_READ: link a's status; RETRAIN and REPLAY clear. -/
def execHlstatRead (s : State) : Out :=
  if s.cur.a < 18 then
    hostReadClear .hlstatRead s (fun t => regValue t (.hlstat s.cur.a))
      (fun t => t.setHinge s.cur.a { t.hinge s.cur.a with retrain := 0, replay := 0 })
  else .next (notOffered s)

/-- HINGE_REPLY: the peer answers request b of those in flight: a line with its poisoned sectors c, a write done, or an
atomic's old value, poisoned with flag set. -/
def execHingeReply (s : State) : Out :=
  match s.peerReqs[s.cur.b]? with
  | none => .next (notOffered s)
  | some r =>
    if (s.hinge r.link).state ≠ .up then .next (notOffered s)
    else
      let t := { s with peerReqs := s.peerReqs.eraseIdx s.cur.b }
      match r.body with
      | .read =>
        if s.cur.data.length < 128 || noRoom s r.asid r.line then .next (notOffered s)
        else
          let d := ((List.range 128).zip s.cur.data).foldl (fun d p => setByte d p.1 p.2) (0 : BitVec 1024)
          let leaf : Leaf := ⟨r.pa - r.line * 128 % 2 ^ 16, 2 ^ 16, 2, r.writable⟩
          .next (dropDemand (installL2 t r.asid r.line d (BitVec.ofNat 4 s.cur.c) leaf r.spall) r.asid r.line)
      | .write _ => .next t
      | .atomic _ _ _ _ _ =>
        match r.msg with
        | some id => .next (endPeerAtomic t id s.cur.val s.cur.flag)
        | none => .next t

end Sys2Proof.Machine
end

