-- ==== Sys2Proof/Machine/LaneMem.lean ====
section
/-!
DEFINITION. Lane loads, stores and atomics (R290–R293, R296).
-/
namespace Sys2Proof.Machine

/-- The lanes' addresses of an indexed word (R290). -/
def indexedAddrs (s : State) (f : LaneFields) (act : Lanes) (disp : Word) : List (Nat × Nat) :=
  let base := (laneScalar s f.va).val
  (lanesOf act).map (fun l => (l, lanePlace base (laneElt s f.vb l).val f disp))

/-- The lanes' addresses of a strided word (R292). -/
def stridedAddrs (s : State) (f : LaneFields) (act : Lanes) : List (Nat × Nat) :=
  let base := (laneScalar s f.va).val
  (lanesOf act).map (fun l => (l, stridePlace base l f))

/-- A lane load: LD rises once, each acting lane loads 2^SZ bytes (R291). -/
def laneLoad (op : LaneOp) (f : LaneFields) (acc : Accepts) (offs : List (BitVec 9))
    (addrs : Lanes → List (Nat × Nat)) (s : State) : Out :=
  issueMemLane op f .ld true s fun act s =>
    let k := s.cur.grp
    let sz := xmodLow f
    let bad := addrPoison s act [f.va] offs
    if bad ≠ 0 then poisonLane s 1 bad
    else match locateAll s (s.grp k).team acc (2 ^ sz) (addrs act) with
      | .error e => memTrapLane s e
      | .ok ls =>
        issueLoad s .ld (.lane f.vd.toNat sz (xmodSx f)) (xmodSp f)
          (ls.map (fun p => resolvePiece s k p.1 p.2 (2 ^ sz))) issueLaneWord none

/-- A lane store: ST rises once; lanes in ascending VID, so that the highest supplies a shared byte (R148). -/
def laneStore (op : LaneOp) (f : LaneFields) (acc : Accepts) (offs : List (BitVec 9))
    (addrs : Lanes → List (Nat × Nat)) (s : State) : Out :=
  issueMemLane op f .st true s fun act s =>
    let k := s.cur.grp
    let sz := xmodLow f
    let bad := addrPoison s act [f.va] offs
    if bad ≠ 0 then poisonLane s 1 bad
    else match locateAll s (s.grp k).team acc (2 ^ sz) (addrs act) with
      | .error e => memTrapLane s e
      | .ok ls =>
        issueStore s (xmodSp f)
          (ls.flatMap (fun p => let x := laneValue s f.vd p.1 sz; valueAt p.2 (2 ^ sz) x.1 x.2)) issueLaneWord

def execVld (f : LaneFields) (s : State) : Out :=
  laneLoad .vld f acceptsPlain [f.vb] (fun act => indexedAddrs s f act f.imm) s
def execVst (f : LaneFields) (s : State) : Out :=
  laneStore .vst f acceptsPlain [f.vb] (fun act => indexedAddrs s f act f.imm) s
def execVlds (f : LaneFields) (s : State) : Out := laneLoad .vlds f acceptsPlain [] (fun act => stridedAddrs s f act) s
def execVsts (f : LaneFields) (s : State) : Out := laneStore .vsts f acceptsPlain [] (fun act => stridedAddrs s f act) s
def execVrld (f : LaneFields) (s : State) : Out :=
  laneLoad .vrld f acceptsRemote [f.vb] (fun act => indexedAddrs s f act f.imm) s
def execVrst (f : LaneFields) (s : State) : Out :=
  laneStore .vrst f acceptsRemote [f.vb] (fun act => indexedAddrs s f act f.imm) s

/-- VATOM (R296): POISON on the address, then on an operand or comparand; the region of every lane, then alignment. -/
def execVatom (f : LaneFields) (s : State) : Out :=
  issueMemLane .vatom f .ld true s fun act s =>
    let k := s.cur.grp
    let sz := xmodLow f
    let n := 2 ^ sz
    let op := atomOpOf f
    let as := indexedAddrs s f act 0
    let bad := addrPoison s act [f.va] [f.vb]
    let badop := maskOf ((lanesOf act).filter (fun l =>
      (laneValue s f.vc l sz).2 || (decide (op = 2) && (laneValue s f.vd l sz).2)))
    if bad ≠ 0 then poisonLane s 1 bad
    else if badop ≠ 0 then poisonLane s 2 badop
    else
      let places := as.map (fun p =>
        (p.1, p.2, match locate s (s.grp k).team acceptsPlain p.2 n with
          | .ok l => if p.2 % n ≠ 0 then .error memAlign else .ok l
          | .error e => .error e))
      match allLanesOk places with
      | .error e => memTrapLane s e
      | .ok ls =>
        issueAtomic s (.lane f.vd.toNat sz false) op n
          (ls.map (fun p => ⟨p.1, p.2, (laneValue s f.vc p.1 sz).1, (laneValue s f.vd p.1 sz).1⟩)) issueLaneWord none

end Sys2Proof.Machine
end

