-- ==== Sys2Proof/Machine/Power.lean ====
section
/-!
DEFINITION. Module reset, bring-up and the host link's states (R391, R458–R460), power states (R455–R457), the loss of main
power (R466).
-/
namespace Sys2Proof.Machine

/-! ## Module reset (R37, R458) -/

/-- Non-volatile storage after a reset: an ADD in progress ends with its entry whole (R368), a STAGE cut off leaves the slots as
they were (R463). -/
def keptNv (n : NonVol) : NonVol := { n with badPages := n.badPages ++ n.adding.toList, adding := none, staging := none }

/-- Module reset: what R458 keeps, and everything else as R37 has it; the host link trains. -/
def moduleReset (s : State) : State :=
  { resetWith (keptNv s.nv) with agenda := s.agenda, steps := s.steps, hostOut := s.hostOut }

/-- PERST_DEASSERT: module reset; the link leaves Down for Training (R391). -/
def execPerstDeassert (s : State) : Out := .next (moduleReset s)

/-- HOT_RESET: over the host link, from any state but Down. -/
def execHotReset (s : State) : Out := if s.link = .down then .next (notOffered s) else .next (moduleReset s)

/-- LINK_TRAINED: the LTSSM reaches L0. A Contained link that went down and came up resets the module and trains. -/
def execLinkTrained (s : State) : Out :=
  match s.link with
  | .training => .next { s with link := .up }
  | .contained => .next (moduleReset s)
  | _ => .next (notOffered s)

/-- LINK_RECOVERY: traffic pauses and resumes; no state is lost. -/
def execLinkRecovery (s : State) : Out := if s.link = .up then .next s else .next (notOffered s)

/-- LINK_LOST: the link is Contained, as by a fatal error of the link's own (R391, R413). -/
def execLinkLost (s : State) : Out :=
  if s.link = .up then .next (fatalError s { blankRec with kind := 6, cls := 0x28, sub := 2 }) else .next (notOffered s)

/-! ## BRING_UP (R459, R460, R462) -/

def imageOk (img : List Byte) : Bool := Config.signatureOk img && decide (Config.versionFloor ≤ Config.imageVersion img)

def slotImage (n : NonVol) (b : Bool) : List Byte := if b then n.fwB else n.fwA

/-- The slot that boots, the active one first; or BOOTERR. -/
def bootSlot (n : NonVol) (flashLost : Bool) : Except Nat Bool :=
  if flashLost then .error 4
  else if imageOk (slotImage n n.fwActive) then .ok n.fwActive
  else if imageOk (slotImage n (!n.fwActive)) then .ok (!n.fwActive)
  else if Config.signatureOk n.fwA || Config.signatureOk n.fwB then .error 2
  else .error 1

/-- Retired frames and offline cores are applied, and all of HBM is zero (R459 steps 3 and 4). -/
def applyLists (s : State) : State :=
  let s := { s with hbm := [], hbmPoison := [], hbmBad := [], frames := s.nv.badPages.foldl (fun m p => AMap.put m p ⟨true, false, 0, false⟩) [] }
  s.nv.offline.foldl (fun s c => s.modCore c (fun q => { q with offline := true })) s

/-- BRING_UP: from the boot ROM to READY; HBM training fails with flag set, and the flash cannot be read with c = 1. When it
fails, the link comes up in recovery. -/
def execBringUp (s : State) : Out :=
  if s.regs.ready || decide (s.regs.booterr ≠ 0) || !(decide (s.link = .training) || decide (s.link = .up)) then .next (notOffered s)
  else
    let recover (e : Nat) : Out := .next ({ s with link := .up }.modRegs (fun r => { r with booterr := e }))
    match bootSlot s.nv (decide (s.cur.c = 1)) with
    | .error e => recover e
    | .ok b =>
      if s.cur.flag then recover 3
      else .next ({ applyLists s with link := .up }.modRegs (fun r =>
        { r with ready := true, fwslot := b, fwver := BitVec.ofNat 16 (Config.imageVersion (slotImage s.nv b)) }))

/-! ## Main power (R466) -/

/-- MAIN_POWER_LOSS: with READY the lifetime counts are flushed and an ADD in progress ends; the link drops; every other
content is lost. -/
def execMainPowerLoss (s : State) : Out :=
  let nv := if s.regs.ready then flushLife (keptNv s.nv) else { s.nv with unflushed := [], adding := none, staging := none }
  .next { resetWith nv with agenda := s.agenda, steps := s.steps, hostOut := s.hostOut, link := .down, powered := false }

/-! ## Power states (R455–R457) -/

/-- Exit latencies T1, T2 and T3 in ticks of 1/11 `clk` and 1/7 `fclk`: a `clk` is 11, an `fclk` 7, a microsecond 11550. -/
def exitTicks (r : Regs) (n : Nat) : Nat :=
  let t2 := 256 * 7 + max 1 r.vramp.toNat * 11550 + 2048 * 11
  match n with
  | 0 => 0
  | 1 => 64 * 11
  | 2 => t2
  | _ => t2 + r.hbmx.toNat * 1155

/-- A unit of TOL is 1155 ticks. -/
def tolerated (r : Regs) (n : Nat) : Bool := decide (exitTicks r n ≤ r.tol.toNat * 1155)

/-- The entry condition of a state. -/
def idleFor (s : State) (n : Nat) : Bool :=
  let s1 := !s.teams.any (fun p => onCore p.2)
  let walking := (messages s).any (fun m => match m.body with | .line _ | .walked _ _ => true | _ => false)
  let s2 := s1 && !walking && s.greqs.isEmpty && s.ports.isEmpty && s.peerReqs.isEmpty && s.hostWait.isEmpty && s.unitReqs.isEmpty
  let s3 := s2 && s.hbmReqs.isEmpty && s.demands.isEmpty && s.fabric.isEmpty && s.arrived.isEmpty
  match n with
  | 0 => true
  | 1 => s1
  | 2 => s2
  | _ => s3

/-- The deepest state that R456 allows. -/
def deepest (s : State) : Nat :=
  let ok (n : Nat) : Bool := decide (n ≤ s.regs.maxs.toNat) && tolerated s.regs n && idleFor s n
  if ok 3 then 3 else if ok 2 then 2 else if ok 1 then 1 else 0

/-- POWER_STATE_ENTRY: after IDLEDLY of idleness the device enters the deepest state allowed. -/
def execPowerStateEntry (s : State) : Out :=
  let n := deepest s
  if n ≤ s.power || s.powerExit || !s.regs.ready then .next (notOffered s)
  else
    .next ({ s with power := n }.modRegs (fun r =>
      { r with ent3 := if n = 3 then satInc 16 r.ent3 else r.ent3, ent2 := if n = 2 then satInc 16 r.ent2 else r.ent2 }))

/-- WAKE_EVENT: the exit starts. -/
def execWakeEvent (s : State) : Out := if s.power = 0 || s.powerExit then .next (notOffered s) else .next (wake s)

/-- POWER_EXIT_COMPLETE: back in S0; after S3 every row group's sweep index is 0. -/
def execPowerExitComplete (s : State) : Out :=
  if !s.powerExit then .next (notOffered s)
  else
    let rows := if s.power = 3 then s.rows.map (fun p => (p.1, { p.2 with sweep := 0 })) else s.rows
    .next { s with power := 0, powerExit := false, rows := rows }

/-- PWRSTAT_READ: the state, and the counts of entries, which clear. -/
def execPwrstatRead (s : State) : Out :=
  hostReadClear .pwrstatRead s
    (fun s => regValue s .pwrstat)
    (fun s => s.modRegs (fun r => { r with ent3 := 0, ent2 := 0 }))

end Sys2Proof.Machine
end

