-- ==== Sys2Proof/Machine/ScalarMem.lean ====
section
/-!
DEFINITION. Scalar loads, stores, remote scratch words and atomics (R211, R289, R293, R295).
-/
namespace Sys2Proof.Machine

/-- A scalar load of 2^sz bytes: sd is held until the load has written it (R289). -/
def scalarLoad (i : Instr) (acc : Accepts) (d a : SIndex) (o : BitVec 10) (sz : Nat) (sext spall : Bool) (s : State) : Out :=
  scalarMemory i { rd := [a.toNat], wr := [d.toNat] } .ld true [a] s fun s =>
    let k := s.cur.grp
    let addr := scalarAddr (rs s a).val o sz
    if behindLaneStore s then .next (waitFor s .hazard)
    else match locate s (s.grp k).team acc addr (2 ^ sz) with
    | .error sub => memTrap s sub addr
    | .ok loc =>
      issueLoad s .ld (.scalar d sz sext) spall [resolvePiece s k 0 loc (2 ^ sz)] (fun s => advance (foldWord s)) (some d)

/-- A scalar store of the low 2^sz bytes of sd, with its poison (R286, R289). -/
def scalarStore (i : Instr) (acc : Accepts) (d a : SIndex) (o : BitVec 10) (sz : Nat) (spall : Bool) (s : State) : Out :=
  scalarMemory i { rd := [a.toNat, d.toNat] } .st true [a] s fun s =>
    let k := s.cur.grp
    let x := rs s d
    let addr := scalarAddr (rs s a).val o sz
    if behindLaneStore s then .next (waitFor s .hazard)
    else match locate s (s.grp k).team acc addr (2 ^ sz) with
    | .error sub => memTrap s sub addr
    | .ok loc =>
      issueStore s spall (valueAt loc (2 ^ sz) x.val x.poison) (fun s => advance (foldWord s))

/-- MOD 0b10 of a plain load or store: the spall class (R211). -/
def modSpall (m : BitVec 1) : Bool := decide (m = 1)

def execLdb (d a : SIndex) (o : BitVec 10) (m : BitVec 1) (s : State) : Out :=
  scalarLoad (.ldb d a o m) acceptsPlain d a o 0 false (modSpall m) s
def execLdh (d a : SIndex) (o : BitVec 10) (m : BitVec 1) (s : State) : Out :=
  scalarLoad (.ldh d a o m) acceptsPlain d a o 1 false (modSpall m) s
def execLdw (d a : SIndex) (o : BitVec 10) (m : BitVec 1) (s : State) : Out :=
  scalarLoad (.ldw d a o m) acceptsPlain d a o 2 false (modSpall m) s
def execLdd (d a : SIndex) (o : BitVec 10) (m : BitVec 1) (s : State) : Out :=
  scalarLoad (.ldd d a o m) acceptsPlain d a o 3 false (modSpall m) s
def execLdbs (d a : SIndex) (o : BitVec 10) (s : State) : Out := scalarLoad (.ldbs d a o) acceptsPlain d a o 0 true false s
def execLdhs (d a : SIndex) (o : BitVec 10) (s : State) : Out := scalarLoad (.ldhs d a o) acceptsPlain d a o 1 true false s
def execLdws (d a : SIndex) (o : BitVec 10) (s : State) : Out := scalarLoad (.ldws d a o) acceptsPlain d a o 2 true false s

def execStb (d a : SIndex) (o : BitVec 10) (m : BitVec 1) (s : State) : Out :=
  scalarStore (.stb d a o m) acceptsPlain d a o 0 (modSpall m) s
def execSth (d a : SIndex) (o : BitVec 10) (m : BitVec 1) (s : State) : Out :=
  scalarStore (.sth d a o m) acceptsPlain d a o 1 (modSpall m) s
def execStw (d a : SIndex) (o : BitVec 10) (m : BitVec 1) (s : State) : Out :=
  scalarStore (.stw d a o m) acceptsPlain d a o 2 (modSpall m) s
def execStd (d a : SIndex) (o : BitVec 10) (m : BitVec 1) (s : State) : Out :=
  scalarStore (.std d a o m) acceptsPlain d a o 3 (modSpall m) s

/-! ## Remote scratch (R293): the bit of MOD is sign extension -/

def execRldb (d a : SIndex) (o : BitVec 10) (m : BitVec 1) (s : State) : Out :=
  scalarLoad (.rldb d a o m) acceptsRemote d a o 0 (decide (m = 1)) false s
def execRldh (d a : SIndex) (o : BitVec 10) (m : BitVec 1) (s : State) : Out :=
  scalarLoad (.rldh d a o m) acceptsRemote d a o 1 (decide (m = 1)) false s
def execRldw (d a : SIndex) (o : BitVec 10) (m : BitVec 1) (s : State) : Out :=
  scalarLoad (.rldw d a o m) acceptsRemote d a o 2 (decide (m = 1)) false s
def execRldd (d a : SIndex) (o : BitVec 10) (s : State) : Out := scalarLoad (.rldd d a o) acceptsRemote d a o 3 false false s
def execRstb (d a : SIndex) (o : BitVec 10) (s : State) : Out := scalarStore (.rstb d a o) acceptsRemote d a o 0 false s
def execRsth (d a : SIndex) (o : BitVec 10) (s : State) : Out := scalarStore (.rsth d a o) acceptsRemote d a o 1 false s
def execRstw (d a : SIndex) (o : BitVec 10) (s : State) : Out := scalarStore (.rstw d a o) acceptsRemote d a o 2 false s
def execRstd (d a : SIndex) (o : BitVec 10) (s : State) : Out := scalarStore (.rstd d a o) acceptsRemote d a o 3 false s

/-! ## Atomics (R295) -/

/-- A scalar atomic of n bytes: POISON on the address, then on an operand; the region, then the alignment; sd takes
the old value, at .w zero-extended. -/
def scalarAtomic (i : Instr) (op sz : Nat) (d a b : SIndex) (s : State) : Out :=
  let cas := decide (op = 2)
  scalarMemory i { rd := [a.toNat, b.toNat] ++ (if cas then [d.toNat] else []), wr := [d.toNat] } .ld true [a] s fun s =>
    let k := s.cur.grp
    let n := 2 ^ sz
    let addr := (rs s a).val.toNat
    if (rs s b).poison || (cas && (rs s d).poison) then poisonScalar s 2
    else if behindLaneStore s then .next (waitFor s .hazard)
    else match locate s (s.grp k).team acceptsPlain addr n with
      | .error sub => memTrap s sub addr
      | .ok loc =>
        if addr % n ≠ 0 then memTrap s memAlign addr
        else
          issueAtomic s (.scalar d sz false) op n [⟨0, loc, (rs s b).val, (rs s d).val⟩]
            (fun s => advance (foldWord s)) (some d)

def execAtomAddW (d a b : SIndex) (s : State) : Out := scalarAtomic (.atomAddW d a b) 0 2 d a b s
def execAtomXchgW (d a b : SIndex) (s : State) : Out := scalarAtomic (.atomXchgW d a b) 1 2 d a b s
def execAtomCasW (d a b : SIndex) (s : State) : Out := scalarAtomic (.atomCasW d a b) 2 2 d a b s
def execAtomAndW (d a b : SIndex) (s : State) : Out := scalarAtomic (.atomAndW d a b) 3 2 d a b s
def execAtomOrW (d a b : SIndex) (s : State) : Out := scalarAtomic (.atomOrW d a b) 4 2 d a b s
def execAtomXorW (d a b : SIndex) (s : State) : Out := scalarAtomic (.atomXorW d a b) 5 2 d a b s
def execAtomMinW (d a b : SIndex) (s : State) : Out := scalarAtomic (.atomMinW d a b) 6 2 d a b s
def execAtomMaxW (d a b : SIndex) (s : State) : Out := scalarAtomic (.atomMaxW d a b) 7 2 d a b s
def execAtomMinuW (d a b : SIndex) (s : State) : Out := scalarAtomic (.atomMinuW d a b) 8 2 d a b s
def execAtomMaxuW (d a b : SIndex) (s : State) : Out := scalarAtomic (.atomMaxuW d a b) 9 2 d a b s
def execAtomFaddW (d a b : SIndex) (s : State) : Out := scalarAtomic (.atomFaddW d a b) 10 2 d a b s
def execAtomAddD (d a b : SIndex) (s : State) : Out := scalarAtomic (.atomAddD d a b) 0 3 d a b s
def execAtomXchgD (d a b : SIndex) (s : State) : Out := scalarAtomic (.atomXchgD d a b) 1 3 d a b s
def execAtomCasD (d a b : SIndex) (s : State) : Out := scalarAtomic (.atomCasD d a b) 2 3 d a b s
def execAtomAndD (d a b : SIndex) (s : State) : Out := scalarAtomic (.atomAndD d a b) 3 3 d a b s
def execAtomOrD (d a b : SIndex) (s : State) : Out := scalarAtomic (.atomOrD d a b) 4 3 d a b s
def execAtomXorD (d a b : SIndex) (s : State) : Out := scalarAtomic (.atomXorD d a b) 5 3 d a b s
def execAtomMinD (d a b : SIndex) (s : State) : Out := scalarAtomic (.atomMinD d a b) 6 3 d a b s
def execAtomMaxD (d a b : SIndex) (s : State) : Out := scalarAtomic (.atomMaxD d a b) 7 3 d a b s
def execAtomMinuD (d a b : SIndex) (s : State) : Out := scalarAtomic (.atomMinuD d a b) 8 3 d a b s
def execAtomMaxuD (d a b : SIndex) (s : State) : Out := scalarAtomic (.atomMaxuD d a b) 9 3 d a b s

end Sys2Proof.Machine
end

