-- ==== Sys2Proof/Machine/Dispatch.lean ====
section
/-!
DEFINITION. The one dispatch from an instruction to its meaning, one arm per constructor of `Instr`.
-/
namespace Sys2Proof.Machine

def exec (i : Instr) (s : State) : Host.Outcome State Fault Refusal :=
  match i with
  | .add d a b => Sys2Proof.Machine.execAdd d a b s
  | .sub d a b => Sys2Proof.Machine.execSub d a b s
  | .and d a b => Sys2Proof.Machine.execAnd d a b s
  | .or d a b => Sys2Proof.Machine.execOr d a b s
  | .xor d a b => Sys2Proof.Machine.execXor d a b s
  | .andn d a b => Sys2Proof.Machine.execAndn d a b s
  | .sll d a b => Sys2Proof.Machine.execSll d a b s
  | .srl d a b => Sys2Proof.Machine.execSrl d a b s
  | .sra d a b => Sys2Proof.Machine.execSra d a b s
  | .mul d a b => Sys2Proof.Machine.execMul d a b s
  | .mulh d a b => Sys2Proof.Machine.execMulh d a b s
  | .mulhu d a b => Sys2Proof.Machine.execMulhu d a b s
  | .div d a b => Sys2Proof.Machine.execDiv d a b s
  | .divu d a b => Sys2Proof.Machine.execDivu d a b s
  | .rem d a b => Sys2Proof.Machine.execRem d a b s
  | .remu d a b => Sys2Proof.Machine.execRemu d a b s
  | .min d a b => Sys2Proof.Machine.execMin d a b s
  | .max d a b => Sys2Proof.Machine.execMax d a b s
  | .minu d a b => Sys2Proof.Machine.execMinu d a b s
  | .maxu d a b => Sys2Proof.Machine.execMaxu d a b s
  | .clz d a => Sys2Proof.Machine.execClz d a s
  | .popc d a => Sys2Proof.Machine.execPopc d a s
  | .addw d a b => Sys2Proof.Machine.execAddw d a b s
  | .subw d a b => Sys2Proof.Machine.execSubw d a b s
  | .seq d a b => Sys2Proof.Machine.execSeq d a b s
  | .sne d a b => Sys2Proof.Machine.execSne d a b s
  | .slt d a b => Sys2Proof.Machine.execSlt d a b s
  | .sltu d a b => Sys2Proof.Machine.execSltu d a b s
  | .sle d a b => Sys2Proof.Machine.execSle d a b s
  | .sleu d a b => Sys2Proof.Machine.execSleu d a b s
  | .cmovNz d a b => Sys2Proof.Machine.execCmovNz d a b s
  | .cmovZ d a b => Sys2Proof.Machine.execCmovZ d a b s
  | .exit => Sys2Proof.Machine.execExit s
  | .trap a => Sys2Proof.Machine.execTrap a s
  | .rett a => Sys2Proof.Machine.execRett a s
  | .callo a b => Sys2Proof.Machine.execCallo a b s
  | .ret => Sys2Proof.Machine.execRet s
  | .launch d a b => Sys2Proof.Machine.execLaunch d a b s
  | .idemBegin => Sys2Proof.Machine.execIdemBegin s
  | .idemEnd => Sys2Proof.Machine.execIdemEnd s
  | .addi d a n => Sys2Proof.Machine.execAddi d a n s
  | .andi d a n => Sys2Proof.Machine.execAndi d a n s
  | .ori d a n => Sys2Proof.Machine.execOri d a n s
  | .xori d a n => Sys2Proof.Machine.execXori d a n s
  | .slli d a n => Sys2Proof.Machine.execSlli d a n s
  | .srli d a n => Sys2Proof.Machine.execSrli d a n s
  | .srai d a n => Sys2Proof.Machine.execSrai d a n s
  | .slti d a n => Sys2Proof.Machine.execSlti d a n s
  | .sltiu d a n => Sys2Proof.Machine.execSltiu d a n s
  | .muli d a n => Sys2Proof.Machine.execMuli d a n s
  | .li d n => Sys2Proof.Machine.execLi d n s
  | .lui d n => Sys2Proof.Machine.execLui d n s
  | .brCond c a o => Sys2Proof.Machine.execBrCond c a o s
  | .brd p o => Sys2Proof.Machine.execBrd p o s
  | .call o => Sys2Proof.Machine.execCall o s
  | .join o => Sys2Proof.Machine.execJoin o s
  | .lx c o => Sys2Proof.Machine.execLx c o s
  | .sigchk v => Sys2Proof.Machine.execSigchk v s
  | .ovlLd d a => Sys2Proof.Machine.execOvlLd d a s
  | .ovlEv d a => Sys2Proof.Machine.execOvlEv d a s
  | .ovlPin d a => Sys2Proof.Machine.execOvlPin d a s
  | .ovlUnpin d a => Sys2Proof.Machine.execOvlUnpin d a s
  | .srd d n => Sys2Proof.Machine.execSrd d n s
  | .swr a n => Sys2Proof.Machine.execSwr a n s
  | .ldb d a o m => Sys2Proof.Machine.execLdb d a o m s
  | .ldh d a o m => Sys2Proof.Machine.execLdh d a o m s
  | .ldw d a o m => Sys2Proof.Machine.execLdw d a o m s
  | .ldd d a o m => Sys2Proof.Machine.execLdd d a o m s
  | .ldbs d a o => Sys2Proof.Machine.execLdbs d a o s
  | .ldhs d a o => Sys2Proof.Machine.execLdhs d a o s
  | .ldws d a o => Sys2Proof.Machine.execLdws d a o s
  | .stb d a o m => Sys2Proof.Machine.execStb d a o m s
  | .sth d a o m => Sys2Proof.Machine.execSth d a o m s
  | .stw d a o m => Sys2Proof.Machine.execStw d a o m s
  | .std d a o m => Sys2Proof.Machine.execStd d a o m s
  | .atomAddW d a b => Sys2Proof.Machine.execAtomAddW d a b s
  | .atomXchgW d a b => Sys2Proof.Machine.execAtomXchgW d a b s
  | .atomCasW d a b => Sys2Proof.Machine.execAtomCasW d a b s
  | .atomAndW d a b => Sys2Proof.Machine.execAtomAndW d a b s
  | .atomOrW d a b => Sys2Proof.Machine.execAtomOrW d a b s
  | .atomXorW d a b => Sys2Proof.Machine.execAtomXorW d a b s
  | .atomMinW d a b => Sys2Proof.Machine.execAtomMinW d a b s
  | .atomMaxW d a b => Sys2Proof.Machine.execAtomMaxW d a b s
  | .atomMinuW d a b => Sys2Proof.Machine.execAtomMinuW d a b s
  | .atomMaxuW d a b => Sys2Proof.Machine.execAtomMaxuW d a b s
  | .atomFaddW d a b => Sys2Proof.Machine.execAtomFaddW d a b s
  | .atomAddD d a b => Sys2Proof.Machine.execAtomAddD d a b s
  | .atomXchgD d a b => Sys2Proof.Machine.execAtomXchgD d a b s
  | .atomCasD d a b => Sys2Proof.Machine.execAtomCasD d a b s
  | .atomAndD d a b => Sys2Proof.Machine.execAtomAndD d a b s
  | .atomOrD d a b => Sys2Proof.Machine.execAtomOrD d a b s
  | .atomXorD d a b => Sys2Proof.Machine.execAtomXorD d a b s
  | .atomMinD d a b => Sys2Proof.Machine.execAtomMinD d a b s
  | .atomMaxD d a b => Sys2Proof.Machine.execAtomMaxD d a b s
  | .atomMinuD d a b => Sys2Proof.Machine.execAtomMinuD d a b s
  | .atomMaxuD d a b => Sys2Proof.Machine.execAtomMaxuD d a b s
  | .acqTeam d a => Sys2Proof.Machine.execAcqTeam d a s
  | .acqCluster d a => Sys2Proof.Machine.execAcqCluster d a s
  | .acqDevice d a => Sys2Proof.Machine.execAcqDevice d a s
  | .acqSystem d a => Sys2Proof.Machine.execAcqSystem d a s
  | .relTeam a b => Sys2Proof.Machine.execRelTeam a b s
  | .relCluster a b => Sys2Proof.Machine.execRelCluster a b s
  | .relDevice a b => Sys2Proof.Machine.execRelDevice a b s
  | .relSystem a b => Sys2Proof.Machine.execRelSystem a b s
  | .bind d a b => Sys2Proof.Machine.execBind d a b s
  | .unbind a => Sys2Proof.Machine.execUnbind a s
  | .fence => Sys2Proof.Machine.execFence s
  | .waitr c a => Sys2Proof.Machine.execWaitr c a s
  | .cleanL1 a b => Sys2Proof.Machine.execCleanL1 a b s
  | .cleanL2 a b => Sys2Proof.Machine.execCleanL2 a b s
  | .invL1 a b => Sys2Proof.Machine.execInvL1 a b s
  | .invL2 a b => Sys2Proof.Machine.execInvL2 a b s
  | .clinvL1 a b => Sys2Proof.Machine.execClinvL1 a b s
  | .clinvL2 a b => Sys2Proof.Machine.execClinvL2 a b s
  | .wait e g t c v l => Sys2Proof.Machine.execWait e g t c v l s
  | .barInitTeam a n => Sys2Proof.Machine.execBarInitTeam a n s
  | .barInitCluster a n => Sys2Proof.Machine.execBarInitCluster a n s
  | .barInitGrid a n => Sys2Proof.Machine.execBarInitGrid a n s
  | .barArr d n => Sys2Proof.Machine.execBarArr d n s
  | .barWait a n => Sys2Proof.Machine.execBarWait a n s
  | .barSync n => Sys2Proof.Machine.execBarSync n s
  | .rldb d a o m => Sys2Proof.Machine.execRldb d a o m s
  | .rldh d a o m => Sys2Proof.Machine.execRldh d a o m s
  | .rldw d a o m => Sys2Proof.Machine.execRldw d a o m s
  | .rldd d a o => Sys2Proof.Machine.execRldd d a o s
  | .rstb d a o => Sys2Proof.Machine.execRstb d a o s
  | .rsth d a o => Sys2Proof.Machine.execRsth d a o s
  | .rstw d a o => Sys2Proof.Machine.execRstw d a o s
  | .rstd d a o => Sys2Proof.Machine.execRstd d a o s
  | .vadd f => Sys2Proof.Machine.execVadd f s
  | .vsub f => Sys2Proof.Machine.execVsub f s
  | .vmul f => Sys2Proof.Machine.execVmul f s
  | .vmulh f => Sys2Proof.Machine.execVmulh f s
  | .vmad f => Sys2Proof.Machine.execVmad f s
  | .vdot2 f => Sys2Proof.Machine.execVdot2 f s
  | .vmin f => Sys2Proof.Machine.execVmin f s
  | .vmax f => Sys2Proof.Machine.execVmax f s
  | .vabs f => Sys2Proof.Machine.execVabs f s
  | .vshrr f => Sys2Proof.Machine.execVshrr f s
  | .vshl f => Sys2Proof.Machine.execVshl f s
  | .vshr f => Sys2Proof.Machine.execVshr f s
  | .vsar f => Sys2Proof.Machine.execVsar f s
  | .vand f => Sys2Proof.Machine.execVand f s
  | .vor f => Sys2Proof.Machine.execVor f s
  | .vxor f => Sys2Proof.Machine.execVxor f s
  | .vandn f => Sys2Proof.Machine.execVandn f s
  | .vnot f => Sys2Proof.Machine.execVnot f s
  | .vpopc f => Sys2Proof.Machine.execVpopc f s
  | .vclz f => Sys2Proof.Machine.execVclz f s
  | .vbfx f => Sys2Proof.Machine.execVbfx f s
  | .vcmpEq f => Sys2Proof.Machine.execVcmpEq f s
  | .vcmpNe f => Sys2Proof.Machine.execVcmpNe f s
  | .vcmpLt f => Sys2Proof.Machine.execVcmpLt f s
  | .vcmpLe f => Sys2Proof.Machine.execVcmpLe f s
  | .vcmpLtu f => Sys2Proof.Machine.execVcmpLtu f s
  | .vcmpLeu f => Sys2Proof.Machine.execVcmpLeu f s
  | .vsel f => Sys2Proof.Machine.execVsel f s
  | .pand f => Sys2Proof.Machine.execPand f s
  | .por f => Sys2Proof.Machine.execPor f s
  | .pxor f => Sys2Proof.Machine.execPxor f s
  | .pnot f => Sys2Proof.Machine.execPnot f s
  | .vfcmpEq f => Sys2Proof.Machine.execVfcmpEq f s
  | .vfcmpLt f => Sys2Proof.Machine.execVfcmpLt f s
  | .vfcmpLe f => Sys2Proof.Machine.execVfcmpLe f s
  | .vfcmpUn f => Sys2Proof.Machine.execVfcmpUn f s
  | .vmov f => Sys2Proof.Machine.execVmov f s
  | .vperm f => Sys2Proof.Machine.execVperm f s
  | .vslide f => Sys2Proof.Machine.execVslide f s
  | .vid f => Sys2Proof.Machine.execVid f s
  | .vbcast f => Sys2Proof.Machine.execVbcast f s
  | .vbcastImm f => Sys2Proof.Machine.execVbcastImm f s
  | .vrdi f => Sys2Proof.Machine.execVrdi f s
  | .vwri f => Sys2Proof.Machine.execVwri f s
  | .vredi f => Sys2Proof.Machine.execVredi f s
  | .vfma f => Sys2Proof.Machine.execVfma f s
  | .vfms f => Sys2Proof.Machine.execVfms f s
  | .vfadd f => Sys2Proof.Machine.execVfadd f s
  | .vfsub f => Sys2Proof.Machine.execVfsub f s
  | .vfmul f => Sys2Proof.Machine.execVfmul f s
  | .vfmin f => Sys2Proof.Machine.execVfmin f s
  | .vfmax f => Sys2Proof.Machine.execVfmax f s
  | .vfabs f => Sys2Proof.Machine.execVfabs f s
  | .vfneg f => Sys2Proof.Machine.execVfneg f s
  | .vfdiv f => Sys2Proof.Machine.execVfdiv f s
  | .vfsqrt f => Sys2Proof.Machine.execVfsqrt f s
  | .vfrcp f => Sys2Proof.Machine.execVfrcp f s
  | .vfrsq f => Sys2Proof.Machine.execVfrsq f s
  | .vfexp2 f => Sys2Proof.Machine.execVfexp2 f s
  | .vflog2 f => Sys2Proof.Machine.execVflog2 f s
  | .vfsin f => Sys2Proof.Machine.execVfsin f s
  | .vfcos f => Sys2Proof.Machine.execVfcos f s
  | .vcvt f => Sys2Proof.Machine.execVcvt f s
  | .actEval f => Sys2Proof.Machine.execActEval f s
  | .vredf f => Sys2Proof.Machine.execVredf f s
  | .pairedLaneWord u l => Sys2Proof.Machine.execPairedLaneWord u l s
  | .vld f => Sys2Proof.Machine.execVld f s
  | .vst f => Sys2Proof.Machine.execVst f s
  | .vlds f => Sys2Proof.Machine.execVlds f s
  | .vsts f => Sys2Proof.Machine.execVsts f s
  | .vatom f => Sys2Proof.Machine.execVatom f s
  | .vcp f => Sys2Proof.Machine.execVcp f s
  | .vcpc f => Sys2Proof.Machine.execVcpc f s
  | .cpy f => Sys2Proof.Machine.execCpy f s
  | .xshfl f => Sys2Proof.Machine.execXshfl f s
  | .qpush f => Sys2Proof.Machine.execQpush f s
  | .qpop f => Sys2Proof.Machine.execQpop f s
  | .vrld f => Sys2Proof.Machine.execVrld f s
  | .vrst f => Sys2Proof.Machine.execVrst f s
  | .tmmaE4m3 f => Sys2Proof.Machine.execTmmaE4m3 f s
  | .tmmaE5m2 f => Sys2Proof.Machine.execTmmaE5m2 f s
  | .tmmaI8 f => Sys2Proof.Machine.execTmmaI8 f s
  | .tmmaBf16 f => Sys2Proof.Machine.execTmmaBf16 f s
  | .tmmaF16 f => Sys2Proof.Machine.execTmmaF16 f s
  | .tmmaE2m1 f => Sys2Proof.Machine.execTmmaE2m1 f s
  | .tmmaT16 f => Sys2Proof.Machine.execTmmaT16 f s
  | .tmmaT32 f => Sys2Proof.Machine.execTmmaT32 f s
  | .tmmaT64 f => Sys2Proof.Machine.execTmmaT64 f s
  | .tzero f => Sys2Proof.Machine.execTzero f s
  | .tld f => Sys2Proof.Machine.execTld f s
  | .tst f => Sys2Proof.Machine.execTst f s
  | .tres f => Sys2Proof.Machine.execTres f s
  | .encTc f => Sys2Proof.Machine.execEncTc f s
  | .embG f => Sys2Proof.Machine.execEmbG f s
  | .embR f => Sys2Proof.Machine.execEmbR f s
  | .gdeg f => Sys2Proof.Machine.execGdeg f s
  | .gnbr f => Sys2Proof.Machine.execGnbr f s
  | .gattr f => Sys2Proof.Machine.execGattr f s
  | .gadd f => Sys2Proof.Machine.execGadd f s
  | .gdel f => Sys2Proof.Machine.execGdel f s
  | .gdegIn f => Sys2Proof.Machine.execGdegIn f s
  | .gnbrIn f => Sys2Proof.Machine.execGnbrIn f s
  | .gattrIn f => Sys2Proof.Machine.execGattrIn f s
  | .gdelIn f => Sys2Proof.Machine.execGdelIn f s
  | .copen f => Sys2Proof.Machine.execCopen f s
  | .copenLive f => Sys2Proof.Machine.execCopenLive f s
  | .cnext f => Sys2Proof.Machine.execCnext f s
  | .cclose f => Sys2Proof.Machine.execCclose f s
  | .csave f => Sys2Proof.Machine.execCsave f s
  | .crest f => Sys2Proof.Machine.execCrest f s
  | .gbulk f => Sys2Proof.Machine.execGbulk f s
  | .wld f => Sys2Proof.Machine.execWld f s
  | .wval f => Sys2Proof.Machine.execWval f s
  | .wadv f => Sys2Proof.Machine.execWadv f s
  | .vptld f => Sys2Proof.Machine.execVptld f s
  | .actLd f => Sys2Proof.Machine.execActLd f s
  | .actSwap f => Sys2Proof.Machine.execActSwap f s
  | .scalarResultWrite => Sys2Proof.Machine.execScalarResultWrite s
  | .laneResultWrite => Sys2Proof.Machine.execLaneResultWrite s
  | .drain => Sys2Proof.Machine.execDrain s
  | .fetch => Sys2Proof.Machine.execFetch s
  | .fill => Sys2Proof.Machine.execFill s
  | .writeback => Sys2Proof.Machine.execWriteback s
  | .drop => Sys2Proof.Machine.execDrop s
  | .deliver => Sys2Proof.Machine.execDeliver s
  | .perform => Sys2Proof.Machine.execPerform s
  | .remoteScratchPerform => Sys2Proof.Machine.execRemoteScratchPerform s
  | .queueRefusalReturn => Sys2Proof.Machine.execQueueRefusalReturn s
  | .relSyncWrite => Sys2Proof.Machine.execRelSyncWrite s
  | .acqDrop => Sys2Proof.Machine.execAcqDrop s
  | .bindApply => Sys2Proof.Machine.execBindApply s
  | .unbindApply => Sys2Proof.Machine.execUnbindApply s
  | .counterRetire => Sys2Proof.Machine.execCounterRetire s
  | .exitComplete => Sys2Proof.Machine.execExitComplete s
  | .dsfillReadback => Sys2Proof.Machine.execDsfillReadback s
  | .widerArrival => Sys2Proof.Machine.execWiderArrival s
  | .widerRelease => Sys2Proof.Machine.execWiderRelease s
  | .copyGranuleWrite => Sys2Proof.Machine.execCopyGranuleWrite s
  | .copyComplete => Sys2Proof.Machine.execCopyComplete s
  | .xshflOfferArrival => Sys2Proof.Machine.execXshflOfferArrival s
  | .xshflOfferRetry => Sys2Proof.Machine.execXshflOfferRetry s
  | .engineCmdStart => Sys2Proof.Machine.execEngineCmdStart s
  | .kStep => Sys2Proof.Machine.execKStep s
  | .tzeroStep => Sys2Proof.Machine.execTzeroStep s
  | .tresStep => Sys2Proof.Machine.execTresStep s
  | .trellisStep => Sys2Proof.Machine.execTrellisStep s
  | .embGRow => Sys2Proof.Machine.execEmbGRow s
  | .embRBag => Sys2Proof.Machine.execEmbRBag s
  | .gbulkRecord => Sys2Proof.Machine.execGbulkRecord s
  | .engineCmdEnd => Sys2Proof.Machine.execEngineCmdEnd s
  | .tilePortMove => Sys2Proof.Machine.execTilePortMove s
  | .windowFill => Sys2Proof.Machine.execWindowFill s
  | .patternEntryLoad => Sys2Proof.Machine.execPatternEntryLoad s
  | .actBankLoaded => Sys2Proof.Machine.execActBankLoaded s
  | .actSwapPerform => Sys2Proof.Machine.execActSwapPerform s
  | .launchAppend => Sys2Proof.Machine.execLaunchAppend s
  | .ovlLoadDecide => Sys2Proof.Machine.execOvlLoadDecide s
  | .ovlEvRequest => Sys2Proof.Machine.execOvlEvRequest s
  | .teamPinUpdate => Sys2Proof.Machine.execTeamPinUpdate s
  | .imageReadComplete => Sys2Proof.Machine.execImageReadComplete s
  | .reloadRetry => Sys2Proof.Machine.execReloadRetry s
  | .reserveInSlot => Sys2Proof.Machine.execReserveInSlot s
  | .outInsert => Sys2Proof.Machine.execOutInsert s
  | .inInsert => Sys2Proof.Machine.execInInsert s
  | .reserveCancel => Sys2Proof.Machine.execReserveCancel s
  | .outRemove => Sys2Proof.Machine.execOutRemove s
  | .inRemove => Sys2Proof.Machine.execInRemove s
  | .inRankRemove => Sys2Proof.Machine.execInRankRemove s
  | .graphRankRead => Sys2Proof.Machine.execGraphRankRead s
  | .cursorOpen => Sys2Proof.Machine.execCursorOpen s
  | .cursorNext => Sys2Proof.Machine.execCursorNext s
  | .cursorClose => Sys2Proof.Machine.execCursorClose s
  | .graphWriteback => Sys2Proof.Machine.execGraphWriteback s
  | .translate => Sys2Proof.Machine.execTranslate s
  | .hbmAccess => Sys2Proof.Machine.execHbmAccess s
  | .refreshVisit => Sys2Proof.Machine.execRefreshVisit s
  | .errorDetected => Sys2Proof.Machine.execErrorDetected s
  | .selftestComplete => Sys2Proof.Machine.execSelftestComplete s
  | .recordWrite => Sys2Proof.Machine.execRecordWrite s
  | .watchdogExpire => Sys2Proof.Machine.execWatchdogExpire s
  | .groupHalt => Sys2Proof.Machine.execGroupHalt s
  | .restartEntry => Sys2Proof.Machine.execRestartEntry s
  | .teamHaltComplete => Sys2Proof.Machine.execTeamHaltComplete s
  | .preemptRequest => Sys2Proof.Machine.execPreemptRequest s
  | .teamImageWrite => Sys2Proof.Machine.execTeamImageWrite s
  | .teamRestore => Sys2Proof.Machine.execTeamRestore s
  | .suspendComplete => Sys2Proof.Machine.execSuspendComplete s
  | .teardownComplete => Sys2Proof.Machine.execTeardownComplete s
  | .packetHeadCheck => Sys2Proof.Machine.execPacketHeadCheck s
  | .depPoll => Sys2Proof.Machine.execDepPoll s
  | .dispatchStart => Sys2Proof.Machine.execDispatchStart s
  | .teamPlace => Sys2Proof.Machine.execTeamPlace s
  | .wayConversion => Sys2Proof.Machine.execWayConversion s
  | .clusterGangStart => Sys2Proof.Machine.execClusterGangStart s
  | .teamRetire => Sys2Proof.Machine.execTeamRetire s
  | .kernelComplete => Sys2Proof.Machine.execKernelComplete s
  | .slotMap => Sys2Proof.Machine.execSlotMap s
  | .quantumExpiry => Sys2Proof.Machine.execQuantumExpiry s
  | .slotDrainComplete => Sys2Proof.Machine.execSlotDrainComplete s
  | .priorityPreempt => Sys2Proof.Machine.execPriorityPreempt s
  | .keystoneArrival => Sys2Proof.Machine.execKeystoneArrival s
  | .packetSuspect => Sys2Proof.Machine.execPacketSuspect s
  | .keystoneHoldExpire => Sys2Proof.Machine.execKeystoneHoldExpire s
  | .keystoneRegenerate => Sys2Proof.Machine.execKeystoneRegenerate s
  | .routePacket => Sys2Proof.Machine.execRoutePacket s
  | .weepReplyTimeout => Sys2Proof.Machine.execWeepReplyTimeout s
  | .mapAdopt => Sys2Proof.Machine.execMapAdopt s
  | .stubForward => Sys2Proof.Machine.execStubForward s
  | .bucketHandover => Sys2Proof.Machine.execBucketHandover s
  | .hostWindowRead => Sys2Proof.Machine.execHostWindowRead s
  | .hostWindowWrite => Sys2Proof.Machine.execHostWindowWrite s
  | .physApertureRead => Sys2Proof.Machine.execPhysApertureRead s
  | .physApertureWrite => Sys2Proof.Machine.execPhysApertureWrite s
  | .hingeInboundRequest => Sys2Proof.Machine.execHingeInboundRequest s
  | .hingeLock => Sys2Proof.Machine.execHingeLock s
  | .hingeFlitReplay => Sys2Proof.Machine.execHingeFlitReplay s
  | .hingeLinkLoss => Sys2Proof.Machine.execHingeLinkLoss s
  | .hingeTrainFail => Sys2Proof.Machine.execHingeTrainFail s
  | .perstDeassert => Sys2Proof.Machine.execPerstDeassert s
  | .hotReset => Sys2Proof.Machine.execHotReset s
  | .bringUp => Sys2Proof.Machine.execBringUp s
  | .linkTrained => Sys2Proof.Machine.execLinkTrained s
  | .linkRecovery => Sys2Proof.Machine.execLinkRecovery s
  | .linkLost => Sys2Proof.Machine.execLinkLost s
  | .mainPowerLoss => Sys2Proof.Machine.execMainPowerLoss s
  | .lifetimeFlush => Sys2Proof.Machine.execLifetimeFlush s
  | .powerStateEntry => Sys2Proof.Machine.execPowerStateEntry s
  | .wakeEvent => Sys2Proof.Machine.execWakeEvent s
  | .powerExitComplete => Sys2Proof.Machine.execPowerExitComplete s
  | .ctxCreate => Sys2Proof.Machine.execCtxCreate s
  | .ctxEnable => Sys2Proof.Machine.execCtxEnable s
  | .ctxSuspend => Sys2Proof.Machine.execCtxSuspend s
  | .ctxResume => Sys2Proof.Machine.execCtxResume s
  | .ctxDestroy => Sys2Proof.Machine.execCtxDestroy s
  | .ctxReclaim => Sys2Proof.Machine.execCtxReclaim s
  | .ctxQuota => Sys2Proof.Machine.execCtxQuota s
  | .ctxQuery => Sys2Proof.Machine.execCtxQuery s
  | .qRegister => Sys2Proof.Machine.execQRegister s
  | .qEnable => Sys2Proof.Machine.execQEnable s
  | .qDisable => Sys2Proof.Machine.execQDisable s
  | .qResume => Sys2Proof.Machine.execQResume s
  | .qSkip => Sys2Proof.Machine.execQSkip s
  | .qUnregister => Sys2Proof.Machine.execQUnregister s
  | .qQuery => Sys2Proof.Machine.execQQuery s
  | .qbell => Sys2Proof.Machine.execQbell s
  | .tlbinvPage => Sys2Proof.Machine.execTlbinvPage s
  | .tlbinvRegion => Sys2Proof.Machine.execTlbinvRegion s
  | .tlbinvAsid => Sys2Proof.Machine.execTlbinvAsid s
  | .tlbinvAll => Sys2Proof.Machine.execTlbinvAll s
  | .pfdoneResolve => Sys2Proof.Machine.execPfdoneResolve s
  | .pfdoneFail => Sys2Proof.Machine.execPfdoneFail s
  | .pfdoneAll => Sys2Proof.Machine.execPfdoneAll s
  | .faqpop => Sys2Proof.Machine.execFaqpop s
  | .bplAdd => Sys2Proof.Machine.execBplAdd s
  | .bplRead => Sys2Proof.Machine.execBplRead s
  | .smapMove => Sys2Proof.Machine.execSmapMove s
  | .smapRetire => Sys2Proof.Machine.execSmapRetire s
  | .smapRead => Sys2Proof.Machine.execSmapRead s
  | .hlctlEnSet => Sys2Proof.Machine.execHlctlEnSet s
  | .hlctlEnClear => Sys2Proof.Machine.execHlctlEnClear s
  | .errtailWrite => Sys2Proof.Machine.execErrtailWrite s
  | .fabcntRead => Sys2Proof.Machine.execFabcntRead s
  | .refcfgRead => Sys2Proof.Machine.execRefcfgRead s
  | .hlstatRead => Sys2Proof.Machine.execHlstatRead s
  | .errstatRead => Sys2Proof.Machine.execErrstatRead s
  | .pwrstatRead => Sys2Proof.Machine.execPwrstatRead s
  | .lifecmd => Sys2Proof.Machine.execLifecmd s
  | .idAttest => Sys2Proof.Machine.execIdAttest s
  | .idStage => Sys2Proof.Machine.execIdStage s
  | .registerWrite => Sys2Proof.Machine.execRegisterWrite s
  | .hostReadCompletion => Sys2Proof.Machine.execHostReadCompletion s
  | .hingeReply => Sys2Proof.Machine.execHingeReply s
  | .nonvolatileWriteComplete => Sys2Proof.Machine.execNonvolatileWriteComplete s

end Sys2Proof.Machine
end

