-- ==== Sys2Proof/Machine/Events.lean ====
section
/-!
DEFINITION. The events the module's own units take without being asked, in the order in which the model takes them
when it chooses itself (R151: any enabled step may come next; log 1). Events of the world outside, errors and evictions come
from the agenda alone.
-/
namespace Sys2Proof.Machine

/-- An event on one object. -/
def ev (i : Instr) (a b : Nat) : Instr × Subject := (i, { noSubject with a := a, b := b })

/-- As `ev`, with flag set. -/
def evFlag (i : Instr) (a b : Nat) : Instr × Subject := (i, { noSubject with a := a, b := b, flag := true })

/-- Events of a group's own units. -/
def groupEvents (k : Nat) (g : Group) : List (Instr × Subject) :=
  (g.sbusy.filter (fun x => decide (x.op = 0))).map (fun x => ev .scalarResultWrite k x.reg.toNat)
    ++ g.lbusy.map (fun x => ev .laneResultWrite k x.id)
    ++ (if g.fifo.isEmpty then [] else [ev .drain k 0])
    ++ (if g.fetches.isEmpty then [] else [ev .fetch k 0])
    ++ [ev .dsfillReadback k 0, ev .groupHalt k 0, ev .exitComplete k 0, ev .restartEntry k 0]
    ++ (if g.ops.isEmpty then [] else [ev .counterRetire k 0])
    ++ (if g.engq.isEmpty then [] else
      [.engineCmdStart, .kStep, .trellisStep, .embGRow, .embRBag, .gbulkRecord, .tzeroStep, .tresStep, .engineCmdEnd].map (fun i => ev i k 0))
    ++ g.copies.flatMap (fun c => [ev .copyGranuleWrite k c.op, ev .copyComplete k c.op])
    ++ g.moves.map (fun m => ev .tilePortMove k m.op)
    ++ g.syncs.flatMap (fun y => [ev .acqDrop k y.op, ev .relSyncWrite k y.op])
    ++ g.binds.flatMap (fun y => [ev .bindApply k y.op, ev .unbindApply k y.op])
    ++ g.loads.flatMap (fun l => [ev .patternEntryLoad k l.op, ev .windowFill k l.op, ev .cursorOpen k l.op])

/-- Events of the mesh, the slices and the controllers. -/
def memoryEvents (s : State) : List (Instr × Subject) :=
  s.fabric.flatMap (fun m => [ev .fill 0 m.id, ev .deliver 0 m.id, ev .routePacket 0 m.id])
    ++ (s.fabric.filter (·.suspect)).flatMap (fun m =>
      [(.routePacket, { noSubject with b := m.id, c := 1 })])
    ++ (List.range (if s.fabric.any (·.suspect) then s.keystones.length else 0)).flatMap (fun i =>
      [ev .keystoneArrival 0 i, ev .keystoneHoldExpire 0 i])
    ++ s.arrived.flatMap (fun m => [ev .perform 0 m.id, ev .stubForward 0 m.id, ev .translate 0 m.id, ev .hbmAccess 0 m.id])
    ++ s.demands.map (fun d => (.perform, { noSubject with a := d.1, b := d.2, c := 1 }))
    ++ (List.range s.heldWrites.length).map (fun i => evFlag .perform 0 i)
    ++ s.remotes.map (fun r => ev .remoteScratchPerform 0 r.id)
    ++ s.offers.flatMap (fun o => [ev .xshflOfferArrival 0 o.op, ev .xshflOfferRetry 0 o.op])
    ++ s.queueOps.map (fun q => ev .queueRefusalReturn q.grp q.op)
    ++ s.greqs.flatMap (fun r =>
      [.graphRankRead, .reserveInSlot, .outInsert, .inInsert, .reserveCancel, .outRemove, .inRankRemove, .inRemove, .cursorOpen,
       .cursorNext, .cursorClose].map (fun i => ev i 0 r.id))
    ++ (s.moves.take 1).flatMap (fun m => ev .bucketHandover m.bucket 0 ::
      (List.range 192 ++ (List.range 18).map (1000 + ·) ++ [2000] ++ (List.range 96).map (3000 + ·)).map (fun h => ev .mapAdopt h m.bucket))

/-- Events of cores, teams, the scheduler, the queue manager and the context manager. -/
def unitEvents (s : State) : List (Instr × Subject) :=
  (s.cores.map (·.1)).flatMap (fun c =>
    [.actBankLoaded, .actSwapPerform, .ovlLoadDecide, .ovlEvRequest, .teamPinUpdate, .imageReadComplete, .wayConversion, .reloadRetry].map
      (fun i => ev i c 0))
    ++ ((s.teams.filter (fun p => decide (p.2.state ≠ .retired))).map (·.1)).flatMap (fun t =>
      [.clusterGangStart, .teamRetire, .teamRestore, .teamImageWrite, .teamHaltComplete, .preemptRequest, .widerArrival, .widerRelease].map
        (fun i => ev i t 0))
    ++ ((s.kernels.filter (fun p => decide (p.2.state ≠ .complete))).map (·.1)).flatMap (fun n =>
      [.depPoll, .dispatchStart, .teamPlace, .priorityPreempt, .kernelComplete].map (fun i => ev i n 0))
    ++ (s.queues.map (·.1)).flatMap (fun q => [evFlag .qbell q 0, ev .packetHeadCheck q 0])
    ++ [ev .slotMap 0 0] ++ s.slots.map (fun p => ev .slotDrainComplete p.1 0)
    ++ s.launches.map (fun r => ev .launchAppend 0 r.op)
    ++ (s.ctxs.map (·.1)).flatMap (fun a => [ev .suspendComplete a 0, ev .teardownComplete a 0, evFlag .ctxQuota a 0])
    ++ ((s.ctxs.filter (fun p => decide (p.2.state ≠ .active))).map (·.1)).map (fun a => ev .graphWriteback a 0)
    ++ [evFlag .ctxEnable 0 0, evFlag .ctxResume 0 0, evFlag .qRegister 0 0, evFlag .qUnregister 0 0, evFlag .tlbinvAll 0 0, evFlag .hostWindowRead 0 0]
    ++ (s.ports.filterMap (·.link)).map (fun k => evFlag .hingeInboundRequest k 0)
    ++ [ev .powerExitComplete 0 0, ev .recordWrite 0 0, ev .nonvolatileWriteComplete 0 0, evFlag .nonvolatileWriteComplete 0 0,
        evFlag .lifecmd 0 0, ev .linkTrained 0 0, ev .bringUp 0 0]

/-- A list from its n-th place on, then its start. -/
def rotate (l : List (Instr × Subject)) (n : Nat) : List (Instr × Subject) := l.drop (n % l.length) ++ l.take (n % l.length)

/-- The events that may come next; each has its turn at the front. A Contained link trains again only from outside (R391). -/
def pendingEvents (s : State) : List (Instr × Subject) :=
  let all := s.groups.flatMap (fun p => groupEvents p.1 p.2) ++ memoryEvents s ++ unitEvents s
  rotate (if s.link = .contained then all.filter (fun e => decide (e.1 ≠ .linkTrained)) else all) (s.steps / 2)

/-- What only the passing of time brings, when nothing else can come next: a watchdog, a quantum, an idle device. -/
def lastEvents (s : State) : List (Instr × Subject) :=
  s.slots.map (fun p => ev .quantumExpiry p.1 0) ++ (s.teams.map (·.1)).map (fun t => ev .watchdogExpire t 0) ++ [ev .powerStateEntry 0 0]

end Sys2Proof.Machine
end

