-- ==== Sys2Proof/Machine/Run.lean ====
section
/-!
DEFINITION. Running one attempt and choosing the attempt a step takes.
-/
namespace Sys2Proof.Machine

/-- A block of a restored lane queue whose overlay's place on this core is not known yet (R83, R140). -/
def unplacedBlock (g : Group) : Option LaneBlock := g.laneq.find? (fun b => decide (32 ≤ b.islot))

/-- Something of the group's other than a slot's transfer waits for an overlay (R140). -/
def partWaits (g : Group) (part : Nat) : Bool := g.reloads.any (fun r => decide (r.part = part))

/-- Such a block finds its overlay before the group issues; the slot of its LX parks while it must be loaded. -/
def placeBlock (s : State) (k : Nat) (b : LaneBlock) : Out :=
  let s := { s with cur := { noSubject with grp := k, second := b.second, lxpc := b.lxpc, ovlid := b.ovlid } }
  if partWaits (s.grp k) 1 then .next (notOffered s)
  else match resolve s k none b.ovlid with
  | .here n s =>
    .next (s.modGrp k (fun g => { g with laneq := g.laneq.map (fun x => if x.ovlid = b.ovlid && decide (32 ≤ x.islot) then { x with islot := n } else x) }))
  | .wait n s => .next (parkFor s k b.second .ovlrestore b.ovlid (some n) 1)
  | .room s => .next (parkFor s k b.second .ovlrestore b.ovlid none 1)
  | .trap sub s => .next (takeTrap s k .overlay sub (issueInfo s))

/-- The lane word at the head of the queue, one of this slot's, would raise a counter that is full: the slot waits with COUNTER
(R174). -/
def headCounterFull (s : State) (k : Nat) (second : Bool) : Bool :=
  let g := s.grp k
  match headBlock s k with
  | some b =>
    decide (b.second = second) && decide (b.islot < 32) && g.laneStall.isNone
      && (match decodeLane (blockWord s k b) with
        | .ok i => (laneParts i).any (fun p =>
            match laneClass p.1 with
            | some c => decide (63 ≤ g.count c) && (decide (p.1 = .xshfl) || decide (actingLanes g b.mask p.2 ≠ 0))
            | none => false)
        | .error _ => false)
  | none => false

/-- The next scalar word of a slot: the slot first enters its overlay (R140) and waits for its phase (R181); then the
word at its program counter is decoded and executed. -/
def runSlot (s : State) (k : Nat) (second : Bool) : Out :=
  let sl := (s.grp k).slot second
  let s := { s with cur := slotSubject s k second }
  if notOffering (s.grp k) second || (unplacedBlock (s.grp k)).isSome || headCounterFull s k second then .next (notOffered s)
  else if !sl.entered then .next (enterSlot s k second)
  else match sideWait s k second with
    | some s => .next s
    | none =>
      match decodeScalar (slotWord s k second) with
      | .error e => .next (trapScalar (countIssue s) .illop (illopCode e) (illopInfo s))
      | .ok i => exec i s

/-- The next word of the lane queue (R31, R112). -/
def runLane (s : State) (k : Nat) : Out :=
  match unplacedBlock (s.grp k), headBlock s k with
  | some b, _ => placeBlock s k b
  | none, none => .next (notOffered s)
  | none, some b =>
    let s := { s with cur := laneSubject s k b }
    if (s.grp k).laneStall.isSome then .next (notOffered s)
    else match decodeLane s.cur.word with
      | .error e => .next (trapLane s .illop (illopCode e) (illopInfo s))
      | .ok i => exec i s

/-- The replay record is gone once its word has issued. -/
def dropReplay (k : Nat) (z : Bool) : Out → Out
  | .next t =>
    if t.cur.held then .next t
    else .next ((t.modGrp k (fun g => { g with replay := none, laneRej := none })).modSlot k z (fun sl => { sl with rej := none }))
  | r => r

/-- The word of a replay record, for the recorded lanes (R363): a lane word by its block's LX and index, or a scalar
word. -/
def runReplay (s : State) (k : Nat) : Out :=
  match (s.grp k).replay with
  | none => .next (notOffered s)
  | some (lanes, pos, widx, z) =>
    if partWaits (s.grp k) 2 then .next (notOffered s)
    else match resolve s k none pos.1 with
    | .here n s =>
      dropReplay k z <|
      let c := s.coreOf k
      let at0 : Subject := { noSubject with grp := k, second := z, mask := lanes, lxpc := pos.2, ovlid := pos.1,
                                            widx := widx, replay := true }
      if widx = 0xFFFF then
        let w := scalarAt s c n pos.2
        let s := { s with cur := { at0 with word := w.setWidth 96 } }
        match decodeScalar w with
        | .ok i => exec i s
        | .error e => .next (trapScalar s .illop (illopCode e) (illopInfo s))
      else
        match decodeScalar (scalarAt s c n pos.2) with
        | .ok (.lx _ off) =>
          let w := laneAt s c n (off.toNat + widx)
          let s := { s with cur := { at0 with word := w } }
          match decodeLane w with
          | .ok i => exec i s
          | .error e => .next (trapLane s .illop (illopCode e) (illopInfo s))
        | _ =>
          let s := { s with cur := at0 }
          .next (trapLane s .illop (illopCode .undefval) (illopInfo s))
    | .wait n s => .next (parkFor s k z .ovlrestore pos.1 (some n) 2)
    | .room s => .next (parkFor s k z .ovlrestore pos.1 none 2)
    | .trap sub s =>
      .next (takeTrap (s.modGrp k (fun g => { g with replay := none })) k .overlay sub
        { issueInfo s with ovlid := pos.1, off := pos.2, second := z, widx := widx })

def runAttempt (s : State) : Attempt → Out
  | .event i x => exec i { s with cur := x }
  | .lane k => runLane s k
  | .slot k z => runSlot s k z
  | .replay k => runReplay s k

/-- The first attempt that is taken; an attempt that waits leaves its reason. -/
def tryAll (s : State) : List Attempt → Out
  | [] => .next (notOffered s)
  | a :: as =>
    match runAttempt s a with
    | .next t => if t.cur.held then tryAll { t with cur := noSubject } as else .next t
    | r => r

/-- A group offers a candidate. -/
def offersWord (s : State) (k : Nat) : Bool :=
  (offers s k).any (fun a =>
    match runAttempt s a with
    | .next t => !t.cur.held
    | _ => true)

/-- Issue of a partition: its first candidate issues, the others count the skip (R110). -/
def tryPart (s : State) (p : Nat) : Out :=
  match tryAll s (partAttempts s p) with
  | .next t =>
    if t.cur.held then .next t
    else
      let k := t.cur.grp
      let others := (issuers s).filter (fun j => decide (j ≠ k) && decide (partOf s j = p))
      .next (settleIssue t p (others.filter (offersWord s)))
  | r => r

def tryParts (s : State) : List Nat → Out
  | [] => .next (notOffered s)
  | p :: ps =>
    match tryPart s p with
    | .next t => if t.cur.held then tryParts { t with cur := noSubject } ps else .next t
    | r => r

def tryEvents (s : State) : List (Instr × Subject) → Out
  | [] => .next (notOffered s)
  | (i, x) :: es =>
    match exec i { s with cur := x } with
    | .next t => if t.cur.held then tryEvents { t with cur := noSubject } es else .next t
    | r => r

/-- One of two choices, the first that is taken. -/
def orElse (s : State) (f g : State → Out) : Out :=
  match f s with
  | .next t => if t.cur.held then g { t with cur := noSubject } else .next t
  | r => r

/-- What comes next: the head of the agenda; else, in turn, a word or an event of the module's own units; else, where none of them has
asked for a line or sent a message, what time brings. -/
def choose (s : State) : Out :=
  match s.agenda with
  | (i, x) :: rest => exec i { s with agenda := rest, cur := x }
  | [] =>
    let words (s : State) := tryParts s (turns s)
    let events (s : State) := tryEvents s (pendingEvents s)
    let last (t : State) : Out :=
      if t.nextId = s.nextId && t.demands = s.demands then tryEvents t (lastEvents t) else .next (notOffered t)
    orElse s (fun s => if s.steps % 2 = 0 then orElse s words events else orElse s events words) last

/-- Without main power nothing runs but what brings it back: PERST# deasserted, the head of the agenda (R458, R466). -/
def unpowered (s : State) : Out :=
  match s.agenda with
  | (.perstDeassert, x) :: rest => exec .perstDeassert { s with agenda := rest, cur := x }
  | _ => .fault .powerLost

/-- The step is over. -/
def finishStep : Out → Out
  | .next t => .next { t with cur := noSubject, steps := t.steps + 1 }
  | r => r

/-! ## Placing one instruction -/

/-- The overlay of `withFetchWord`: the bytes of a scalar word at offset 0, or one scalar word of zeros and a lane
word behind it. -/
def placedStore (nbits w : Nat) : StoreSlot :=
  let img := if nbits ≤ 32 then leBytes 4 w else List.replicate 4 0 ++ leBytes 12 w
  { emptyStore with
    state := .resident, gen := 1, holders := [(1, 0)], frames := 1, bytes := img.length, laneoff := 4, image := img,
    entry := 1 }

def placedGroup (nbits id : Nat) : Group :=
  let sl := { deadSlot with live := true, ok := keyWord 0 1 0, mask := BitVec.allOnes 96 }
  let b : LaneBlock := { id := id, acqHold := [], fenceHold := [], ovlid := 0, islot := 0, off := 0, count := 1, next := 0, mask := BitVec.allOnes 96, second := false,
                         lxpc := 0 }
  { absentGroup with
    phase := .running, team := 0, grpid := 0, grant := 256, slot0 := sl, laneq := if nbits ≤ 32 then [] else [b] }

/-- A running team of one group on core 0 in an Active context, at a scalar word or with a lane word at the head of
its queue. -/
def placeWord1 (s : State) (nbits w : Nat) : State :=
  { s with
    agenda := [], partNext := 0, steps := 2 * s.steps, nextId := s.nextId + 1, powered := true, link := .up,
    regs := { s.regs with ready := true },
    ctxs := AMap.put s.ctxs 1 { freeCtx with state := .active, frameq := 96, scrq := 18, qslotq := 64 },
    kernels := AMap.put s.kernels 1 { absentKernel with state := .running, asid := 1, groups := 1, teams := 1, regs := 256,
                                                        tiles := 16, placed := 1 },
    teams := AMap.put s.teams 0 { absentTeam with state := .running, asid := 1, kernel := 1, groups := 1, grant := 256,
                                                  tiles := List.range 16 },
    cores := AMap.put s.cores 0 ((s.core 0).setStore 0 (placedStore nbits w)),
    groups := AMap.put s.groups 0 (placedGroup nbits s.nextId) }

end Sys2Proof.Machine
end

