-- ==== Sys2Proof/Machine/Step.lean ====
section
/-!
DEFINITION. One step of the module, and the placing of one instruction where the next step fetches.
-/
namespace Sys2Proof.Machine

/-- One step of the machine: nothing without main power (R466); else what `choose` takes. -/
def step (s : State) : Host.Outcome State Fault Refusal :=
  finishStep (if s.powered then choose s else unpowered s)

/-- s with one instruction placed where the next step fetches it (log 26). -/
def State.withFetchWord (s : State) (nbits w : Nat) : State := placeWord1 s nbits w

end Sys2Proof.Machine
end

