-- ==== Sys2Proof/Safety.lean ====
section
/-!
DEFINITION. The words in which claims about the machine are made: what it is for an instruction to answer a next state,
what a group offers, and what a word leaves unchanged.
-/
namespace Sys2Proof.Machine

/-- The instruction answers a next state, and P holds of it. -/
def Answers (o : Out) (P : State → Prop) : Prop := ∃ t, o = .next t ∧ P t

/-- The instruction does something: it answers a next state, and is not kept waiting in it. -/
def Takes (o : Out) (P : State → Prop) : Prop := ∃ t, o = .next t ∧ t.cur.held = false ∧ P t

/-- Nothing but the groups differs. -/
def OnlyGroups (s t : State) : Prop := { t with groups := s.groups } = s

/-- Nothing but group k differs. -/
def OnlyGroup (s t : State) (k : Nat) : Prop := OnlyGroups s t ∧ ∀ j, j ≠ k → t.grp j = s.grp j

/-- The word being issued meets no hold, and is not a replay (R31, R232, R363). -/
def Free (s : State) (n : Needs) : Prop := s.cur.replay = false ∧ scalarHazard s s.cur.grp n = false

/-- A scalar register as the issuing slot of s reads it in t (R114, R231). -/
def regAfter (s t : State) (r : SIndex) : SReg := readS t s.cur.grp s.cur.second r.toNat

/-- The issuing slot, before and after. -/
def issuing (s t : State) : PcSlot := (t.grp s.cur.grp).slot s.cur.second

/-- The slot of s went on to an offset, with `prior` before its next word in program order (R147): its word was folded into SIGACC if it had not issued before (R119), it is no longer kept
back or counted as rejected (R125, R288), and nothing else of it changed but its mask. -/
def WentAfter (s t : State) (off : Nat) (prior : List Nat) : Prop :=
  let x := issuing s s
  let y := issuing s t
  y.pc = off ∧ y.prior = prior ∧ y.reason = .none ∧ y.issued = false ∧ y.waitPhase = none
    ∧ y.acc = (if x.issued then x.acc else crcWord x.acc (s.cur.word.setWidth 32))
    ∧ y.kept = (x.issued && x.kept) ∧ y.rej = (if x.issued then x.rej else none)
    ∧ { y with pc := x.pc, reason := x.reason, issued := x.issued, waitPhase := x.waitPhase, acc := x.acc,
               lastIssue := x.lastIssue, mask := x.mask,
               kept := x.kept, rej := x.rej, prior := x.prior } = x

/-- The slot of s went on to an offset, and issued nothing that its later words could have to wait for. -/
def WentTo (s t : State) (off : Nat) : Prop := WentAfter s t off (issuing s s).prior

/-- The other slot of the group is as it was. -/
def OtherSlot (s t : State) : Prop := (t.grp s.cur.grp).slot (!s.cur.second) = (s.grp s.cur.grp).slot (!s.cur.second)

/-- Of the group, only scalar registers, slots, busy registers and the counts of issue differ: lane registers, predicates,
windows, cursors, FPST, SATF, IDEMPC, the stacks, the counters and what is outstanding are as they were. -/
def KeepsGroup (s t : State) : Prop :=
  let g := s.grp s.cur.grp
  { t.grp s.cur.grp with s := g.s, slot0 := g.slot0, slot1 := g.slot1, sbusy := g.sbusy, skip := g.skip, skid := g.skid,
                         lastpos := g.lastpos, lastslot := g.lastslot } = g

/-- Every scalar register but d reads as before, in both slots. -/
def KeepsScalars (s t : State) (d : SIndex) : Prop :=
  ∀ r : SIndex, r ≠ d → ∀ z, readS t s.cur.grp z r.toNat = readS s s.cur.grp z r.toNat

/-- The mask of the issuing slot is as it was. -/
def KeepsMask (s t : State) : Prop := (issuing s t).mask = (issuing s s).mask

/-- What a word whose one result is scalar register d leaves: memory, caches, scratch, teams, contexts, queues and every
other group are untouched, and of its own group only d, the issuing slot's position and the counts of issue change. -/
def ScalarFrame (s t : State) (d : SIndex) : Prop :=
  OnlyGroup s t s.cur.grp ∧ KeepsGroup s t ∧ OtherSlot s t ∧ KeepsScalars s t d
    ∧ (¬ (60 ≤ d.toNat ∧ d.toNat ≤ 62) → KeepsMask s t)

end Sys2Proof.Machine
end

