-- ==== Sys2Proof/Certificates/Slice0/Obligations.lean ====
section
/-!
DEFINITION. What the provers are asked to prove of the machine, from the numbered rules of spec/. The tables and predicates
of each statement stand before it; what an instruction leaves unchanged is said with the frames of Sys2Proof/Safety.lean.
-/
open Sys2Proof Sys2Proof.Machine

namespace Sys2Proof.Claims

/-! ## Scalar integer words (R233–R236) -/

/-- R233 with two operands, but for the divisions: what each word gives for sa = x, sb = y. -/
def registerWords (d a b : SIndex) (x y : DWord) : List (Instr × DWord) :=
  [(.add d a b, BitVec.ofInt 64 (x.toInt + y.toInt)), (.sub d a b, BitVec.ofInt 64 (x.toInt - y.toInt)),
   (.and d a b, x &&& y), (.or d a b, x ||| y), (.xor d a b, x ^^^ y), (.andn d a b, x &&& ~~~y),
   (.sll d a b, BitVec.ofNat 64 (x.toNat * 2 ^ (y.toNat % 64))), (.srl d a b, BitVec.ofNat 64 (x.toNat / 2 ^ (y.toNat % 64))),
   (.sra d a b, BitVec.ofInt 64 (x.toInt / 2 ^ (y.toNat % 64))), (.mul d a b, BitVec.ofInt 64 (x.toInt * y.toInt)),
   (.mulh d a b, BitVec.ofInt 64 (x.toInt * y.toInt / 2 ^ 64)), (.mulhu d a b, BitVec.ofNat 64 (x.toNat * y.toNat / 2 ^ 64)),
   (.min d a b, BitVec.ofInt 64 (min x.toInt y.toInt)), (.max d a b, BitVec.ofInt 64 (max x.toInt y.toInt)),
   (.minu d a b, BitVec.ofNat 64 (min x.toNat y.toNat)), (.maxu d a b, BitVec.ofNat 64 (max x.toNat y.toNat)),
   (.addw d a b, (BitVec.ofNat 32 (x.toNat + y.toNat)).signExtend 64),
   (.subw d a b, (BitVec.ofInt 32 ((x.toNat : Int) - y.toNat)).signExtend 64)]

/-- R233: the divisions. -/
def divisionWords (d a b : SIndex) (x y : DWord) : List (Instr × DWord) :=
  [(.div d a b, if y = 0 then BitVec.ofInt 64 (-1) else BitVec.ofInt 64 (x.toInt.tdiv y.toInt)),
   (.divu d a b, if y = 0 then BitVec.ofNat 64 (2 ^ 64 - 1) else BitVec.ofNat 64 (x.toNat / y.toNat)),
   (.rem d a b, if y = 0 then x else BitVec.ofInt 64 (x.toInt - y.toInt * x.toInt.tdiv y.toInt)),
   (.remu d a b, if y = 0 then x else BitVec.ofNat 64 (x.toNat % y.toNat))]

/-- R236: the compares. -/
def compareWords (d a b : SIndex) (x y : DWord) : List (Instr × Bool) :=
  [(.seq d a b, decide (x.toNat = y.toNat)), (.sne d a b, decide (x.toNat ≠ y.toNat)), (.slt d a b, decide (x.toInt < y.toInt)),
   (.sltu d a b, decide (x.toNat < y.toNat)), (.sle d a b, decide (x.toInt ≤ y.toInt)), (.sleu d a b, decide (x.toNat ≤ y.toNat))]

/-- Leading zero bits of a value below 2^64, and its one bits. -/
def leadingZeros (x : DWord) : Nat := if x = 0 then 64 else 63 - Nat.log2 x.toNat
def oneBits (x : DWord) : Nat := ((List.range 64).filter (fun i => x.toNat.testBit i)).length

/-- R233–R235 with one operand: what each word gives for sa = x. -/
def unaryWords (d a : SIndex) (i : BitVec 14) (x : DWord) : List (Instr × DWord) :=
  [(.clz d a, BitVec.ofNat 64 (leadingZeros x)), (.popc d a, BitVec.ofNat 64 (oneBits x)),
   (.addi d a i, BitVec.ofInt 64 (x.toInt + i.toInt)), (.andi d a i, BitVec.ofNat 64 (x.toNat &&& i.toNat)),
   (.ori d a i, BitVec.ofNat 64 (x.toNat ||| i.toNat)), (.xori d a i, BitVec.ofNat 64 (x.toNat ^^^ i.toNat)),
   (.slli d a i, BitVec.ofNat 64 (x.toNat * 2 ^ i.toNat)), (.srli d a i, BitVec.ofNat 64 (x.toNat / 2 ^ i.toNat)),
   (.srai d a i, BitVec.ofInt 64 (x.toInt / 2 ^ i.toNat)), (.slti d a i, if x.toInt < i.toInt then 1 else 0),
   (.sltiu d a i, if x.toNat < (BitVec.ofInt 64 i.toInt).toNat then 1 else 0), (.muli d a i, BitVec.ofInt 64 (x.toInt * i.toInt))]

/-- The result x was written to d (s0 stays 0), nothing else changed, and the slot goes on at the next word (R208, R231). -/
def Wrote (s t : State) (d : SIndex) (x : SReg) : Prop :=
  regAfter s t d = (if d = 0 then ⟨0, false⟩ else x) ∧ ScalarFrame s t d ∧ WentTo s t ((issuing s s).pc + 1)

/-- The word did not issue: its slot waits with a reason, and nothing else changed (R107). -/
def Waits (s t : State) (r : Reason) : Prop :=
  t.cur.held = true ∧ { t with groups := s.groups, cur := s.cur } = s ∧ (∀ j, j ≠ s.cur.grp → t.grp j = s.grp j) ∧
    (issuing s t).reason = r ∧ OtherSlot s t ∧ { (issuing s t) with reason := (issuing s s).reason } = issuing s s ∧
    { (t.grp s.cur.grp) with slot0 := (s.grp s.cur.grp).slot0, slot1 := (s.grp s.cur.grp).slot1 } = s.grp s.cur.grp

end Sys2Proof.Claims

open Sys2Proof.Claims

/-- R233: each register–register word of the integer family but the divisions writes what its row says of sa and sb, poisoned
with either, and changes nothing else. -/
def Sys2Proof.Claims.RegisterWordResults : Prop :=
  ∀ (d a b : SIndex) (s : State), Free s { rd := [a.toNat, b.toNat], wr := [d.toNat] } →
    ∀ p ∈ registerWords d a b (rs s a).val (rs s b).val, WellFormed p.1 →
      Answers (exec p.1 s) (fun t => Wrote s t d ⟨p.2, (rs s a).poison || (rs s b).poison⟩)

/-- R233, R232: a division with the unit free writes its row's result; with a division in progress in the partition its slot
waits with HAZARD. -/
def Sys2Proof.Claims.DivisionResults : Prop :=
  ∀ (d a b : SIndex) (s : State), Free s { rd := [a.toNat, b.toNat], wr := [d.toNat] } →
    ∀ p ∈ divisionWords d a b (rs s a).val (rs s b).val, WellFormed p.1 →
      (dividerBusy s s.cur.grp = false →
        Answers (exec p.1 s) (fun t => Wrote s t d ⟨p.2, (rs s a).poison || (rs s b).poison⟩)) ∧
      (dividerBusy s s.cur.grp = true → Answers (exec p.1 s) (fun t => Waits s t .hazard))

/-- R233–R235: CLZ, POPC and the immediate words write what their rows say of sa and the immediate; LI writes its constant,
and LUI shifts its own destination. -/
def Sys2Proof.Claims.ImmediateWordResults : Prop :=
  ∀ (d a : SIndex) (i : BitVec 14) (s : State),
    (Free s { rd := [a.toNat], wr := [d.toNat] } → ∀ p ∈ unaryWords d a i (rs s a).val, WellFormed p.1 →
      Answers (exec p.1 s) (fun t => Wrote s t d ⟨p.2, (rs s a).poison⟩)) ∧
    (∀ n : BitVec 20, Free s { rd := [], wr := [d.toNat] } → WellFormed (.li d n) →
      Answers (exec (.li d n) s) (fun t => Wrote s t d ⟨BitVec.ofInt 64 n.toInt, false⟩)) ∧
    (∀ n : BitVec 20, Free s { rd := [d.toNat], wr := [d.toNat] } → WellFormed (.lui d n) →
      Answers (exec (.lui d n) s) (fun t =>
        Wrote s t d ⟨BitVec.ofNat 64 ((rs s d).val.toNat * 2 ^ 20 ||| n.toNat), (rs s d).poison⟩))

/-- R236: the words with OP = 0x02 decode by FN; a compare writes 1 or 0; a conditional move writes sa, or sd with its own value and poison,
poisoned with sb, and counts as a write of sd either way: behind a pending write of sd it waits. -/
def Obligations.CompareAndSelectResults : Prop :=
  ∀ (d a b : SIndex) (s : State),
    (∀ p ∈ [((0x00 : Byte), Instr.seq d a b), (0x01, .sne d a b), (0x02, .slt d a b), (0x03, .sltu d a b), (0x04, .sle d a b),
        (0x05, .sleu d a b), (0x08, .cmovNz d a b), (0x09, .cmovZ d a b)],
      decodeScalar ((0x02 : BitVec 6) ++ d ++ a ++ b ++ p.1) = .ok p.2) ∧
    (Free s { rd := [a.toNat, b.toNat], wr := [d.toNat] } →
      ∀ p ∈ compareWords d a b (rs s a).val (rs s b).val, WellFormed p.1 →
        Answers (exec p.1 s) (fun t => Wrote s t d ⟨if p.2 then 1 else 0, (rs s a).poison || (rs s b).poison⟩)) ∧
    (∀ p ∈ [(Instr.cmovNz d a b, decide ((rs s b).val ≠ 0)), (Instr.cmovZ d a b, decide ((rs s b).val = 0))], WellFormed p.1 →
      (Free s { rd := [a.toNat, b.toNat, d.toNat], wr := [d.toNat] } → Answers (exec p.1 s) (fun t =>
        Wrote s t d ⟨(if p.2 then rs s a else rs s d).val, (if p.2 then rs s a else rs s d).poison || (rs s b).poison⟩)) ∧
      (s.cur.replay = false → d ≠ 0 → (∃ x ∈ (s.grp s.cur.grp).sbusy, x.reg = d) → Answers (exec p.1 s) (fun t =>
        t.cur.held = true ∧ regAfter s t d = rs s d ∧ (issuing s t).pc = (issuing s s).pc)))

/-- R208, R231–R235: every scalar arithmetic, logic, shift and constant word writes the result its rule gives and changes nothing else. -/
def Obligations.ScalarWordResults : Prop :=
  Claims.RegisterWordResults ∧ Claims.DivisionResults ∧ Claims.ImmediateWordResults

/-- R31, R232: a scalar word that needs a register, a predicate or a flag of a result still to come does not issue: its slot
waits, with HAZARD unless the operation it waits for is parked on a page (R361). -/
def Obligations.HazardWaits : Prop :=
  ∀ (i : Instr) (n : Needs) (s : State) (body : State → Out), scalarCheck i = none → s.cur.replay = false →
    scalarHazard s s.cur.grp n = true →
      Answers (issueScalar i n s body) (fun t => Waits s t .hazard ∨ (Waits s t .pagefault ∧ (s.grp s.cur.grp).ops.any (·.parked) = true))

namespace Sys2Proof.Claims

/-! ## Control (R115–R121, R209, R210, R237–R248, R251–R254) -/

/-- No register was written: what is left of the scalar frame (R231). -/
def NoResult (s t : State) : Prop :=
  OnlyGroup s t s.cur.grp ∧ KeepsGroup s t ∧ OtherSlot s t ∧ KeepsMask s t ∧
    ∀ (r : SIndex) (z : Bool), readS t s.cur.grp z r.toNat = readS s s.cur.grp z r.toNat

/-- R210: the test of a condition on a register, whose low word read signed is w. -/
def condHolds (c : BitVec 4) (x : DWord) : Bool :=
  let test (n : Nat) (v : Int) : Bool :=
    if n = 0 then decide (v = 0) else if n = 1 then decide (v ≠ 0) else if n = 2 then decide (v < 0)
    else if n = 3 then decide (0 ≤ v) else if n = 4 then decide (v ≤ 0) else decide (0 < v)
  let n := c.toNat
  if n < 6 then test n x.toInt
  else if n = 6 then decide (x.toNat % 2 = 1)
  else if n = 7 then decide (x.toNat % 2 = 0)
  else if n < 14 then test (n - 8) (x.setWidth 32 : Word).toInt
  else true

/-- R209: the offset lies in the scalar section of the slot's overlay. -/
def inSection (s : State) (off : Int) : Prop :=
  0 ≤ off ∧ off < scalarWords s (s.coreOf s.cur.grp) (issuing s s).islot

/-- A trap ends in this (R121, R395): the group halted at the word, its header says class and sub-code, and the record says
what and where; the team halts when it is the team's first. -/
def TrapTaken (s t : State) (cls : TrapClass) (sub : Nat) : Prop :=
  let k := s.cur.grp
  let g := s.grp k
  (t.grp k).phase = .halted ∧ (t.grp k).haltpc = some (s.cur.ovlid, s.cur.lxpc) ∧ (t.grp k).haltslot = s.cur.second ∧
    (g.trapcls = 0 → (t.grp k).trapcls = cls.code ∧ (t.grp k).trapsub = sub) ∧
    ((s.team g.team).primgrp = none → (t.team g.team).state = .halting ∧ (t.team g.team).primgrp = some g.grpid ∧
      (t.grp k).primary = true) ∧
    (s.link ≠ .contained → ∃ r : Rec, t.records = s.records ++ [r] ∧ r.sev = 3 ∧ r.cls = cls.code ∧ r.sub = sub ∧
      r.unit = s.coreOf k ∧ r.asid = s.asidOf k ∧ r.grpid = g.grpid ∧ r.teamid = (s.team g.team).teamid)

/-- The group runs, in a team that runs no handler: a trap halts it (R121). -/
def TrapsHere (s : State) : Prop :=
  (s.grp s.cur.grp).phase = .running ∧ (s.teamOf s.cur.grp).state ≠ .handler

/-- Memory is untouched: HBM, L2, every L1, scratch and tile, and what is on its way (R147). -/
def SameMemory (s t : State) : Prop :=
  t.hbm = s.hbm ∧ t.hbmPoison = s.hbmPoison ∧ t.l2 = s.l2 ∧ t.fabric = s.fabric ∧ t.arrived = s.arrived ∧
    ∀ c, (t.core c).l1 = (s.core c).l1 ∧ (t.core c).scratch = (s.core c).scratch ∧
      (t.core c).scratchPoison = (s.core c).scratchPoison ∧ (t.core c).tiles = (s.core c).tiles

/-- Lane registers, predicates, windows, cursors and the flags of the group are as they were. -/
def SameLanes (s t : State) : Prop :=
  let g := s.grp s.cur.grp
  let h := t.grp s.cur.grp
  h.v = g.v ∧ h.p = g.p ∧ h.w = g.w ∧ h.c = g.c ∧ h.fpst = g.fpst ∧ h.satf = g.satf

/-- Every other group is as it was. -/
def OtherGroups (s t : State) : Prop := ∀ j, j ≠ s.cur.grp → t.grp j = s.grp j

end Sys2Proof.Claims

/-- R210, R237: a branch whose test holds goes to pc + offset, one whose test fails to the next word, and writes nothing; a
taken one whose target lies outside the scalar section traps OVERLAY, OFFSET. -/
def Sys2Proof.Claims.BranchTakesItsTarget : Prop :=
  ∀ (c : BitVec 4) (a : SIndex) (o : BitVec 16) (s : State), WellFormed (.brCond c a o) → Free s { rd := if c = 0xE then [] else [a.toNat] } →
    (c = 0xE ∨ (rs s a).poison = false) →
      let target : Int := (issuing s s).pc + o.toInt
      (condHolds c (rs s a).val = false → Answers (exec (.brCond c a o) s) (fun t => NoResult s t ∧ WentTo s t ((issuing s s).pc + 1))) ∧
      (condHolds c (rs s a).val = true → inSection s target →
        Answers (exec (.brCond c a o) s) (fun t => NoResult s t ∧ WentTo s t target.toNat)) ∧
      (condHolds c (rs s a).val = true → ¬ inSection s target → TrapsHere s →
        Answers (exec (.brCond c a o) s) (fun t => TrapTaken s t .overlay 6))

/-- R116: a BRD on a predicate equal in every active lane is a branch; on a mixed one the issuing slot keeps the lanes of F
at the next word, the other slot takes the lanes of T at the target, and JOINA and JOINM are pushed (here with the other
slot not live and the records within the four on chip). -/
def Sys2Proof.Claims.DivergenceSplitsTheMask : Prop :=
  ∀ (p : BitVec 3) (o : BitVec 16) (s : State), WellFormed (.brd p o) →
    Free s { rd := [60, 61, 62], wr := [60, 61, 62], preds := [p.toNat] } →
    let g := s.grp s.cur.grp
    let m := (issuing s s).mask
    let tk := m &&& (g.pred p.toNat).bits
    let fl := m &&& ~~~(g.pred p.toNat).bits
    let target : Int := (issuing s s).pc + o.toInt
    m &&& (g.pred p.toNat).poison = 0 →
      (tk = 0 → Answers (exec (.brd p o) s) (fun t => NoResult s t ∧ WentTo s t ((issuing s s).pc + 1))) ∧
      (tk ≠ 0 → fl = 0 → inSection s target → Answers (exec (.brd p o) s) (fun t => NoResult s t ∧ WentTo s t target.toNat)) ∧
      (tk ≠ 0 → fl ≠ 0 → inSection s target → (g.slot (!s.cur.second)).live = false → g.drecs.length ≤ 2 → 2 ≤ g.room.toNat →
        Answers (exec (.brd p o) s) (fun t =>
          let h := t.grp s.cur.grp
          (issuing s t).mask = fl ∧ (issuing s t).pc = (issuing s s).pc + 1 ∧
          (h.slot (!s.cur.second)).live = true ∧ (h.slot (!s.cur.second)).mask = tk ∧ (h.slot (!s.cur.second)).pc = target.toNat ∧
          h.drecs = [DRec.joinA 0 false, DRec.joinM m 0 0] ++ g.drecs ∧ h.room = g.room - 2 ∧ h.ptr = g.ptr + 2 ∧
          OnlyGroup s t s.cur.grp ∧ SameLanes s t ∧ h.s = g.s)) ∧
      (tk ≠ 0 → fl ≠ 0 → inSection s target → (g.slot (!s.cur.second)).live = false → g.room.toNat < 2 → TrapsHere s →
        Answers (exec (.brd p o) s) (fun t => TrapTaken s t .divg 1))

/-- R117: the first JOIN of a pair records its target and its lanes and ends its slot; the second, at the same place with the
lanes that are missing, goes to the target with all the lanes of the split, and enters its overlay there (R140, R142). -/
def Sys2Proof.Claims.JoinReconverges : Prop :=
  ∀ (o : BitVec 26) (s : State), WellFormed (.join o) → Free s { rd := [60, 61, 62], wr := [60, 61, 62] } →
    let g := s.grp s.cur.grp
    let x := (issuing s s).mask
    let target : Int := (issuing s s).pc + o.toInt
    inSection s target →
      (∀ a jm o' f' rest, g.drecs = DRec.joinA a false :: DRec.joinM jm o' f' :: rest → x &&& ~~~jm = 0 →
        Answers (exec (.join o) s) (fun t =>
          (issuing s t).live = false ∧
          (t.grp s.cur.grp).drecs = DRec.joinA x true :: DRec.joinM jm (issuing s s).ovlid target.toNat :: rest ∧
          (t.grp s.cur.grp).room = g.room ∧ OtherSlot s t ∧ OnlyGroup s t s.cur.grp ∧ SameLanes s t ∧ (t.grp s.cur.grp).s = g.s)) ∧
      (∀ a jm rest, g.drecs = DRec.joinA a true :: DRec.joinM jm (issuing s s).ovlid target.toNat :: rest → x &&& a = 0 → x ||| a = jm →
        Answers (exec (.join o) s) (fun t =>
          (issuing s t).mask = jm ∧ (issuing s t).pc = target.toNat ∧ (t.grp s.cur.grp).drecs = rest ∧
          (t.grp s.cur.grp).room = g.room + 2 ∧ OtherSlot s t ∧ OtherGroups s t ∧ SameMemory s t ∧ SameLanes s t ∧
          (t.grp s.cur.grp).s = g.s ∧ ((t.core (s.coreOf s.cur.grp)).storeSlot (issuing s s).islot).entry = s.steps + 1))

/-- R116, R117: BRD splits the mask, JOIN brings its sides together again. -/
def Obligations.DivergenceAndJoin : Prop :=
  Claims.DivergenceSplitsTheMask ∧ Claims.JoinReconverges

/-- R118, R240–R243: CALL and CALLO push the place of the next word, write it to ln and enter their target, CALLO in the
overlay its key resolves to; RET goes back to the place on top and pops it; a ninth call traps RSTACK. -/
def Sys2Proof.Claims.CallsAndReturns : Prop :=
  ∀ (s : State),
    let k := s.cur.grp
    let g := s.grp k
    let here : RetEnt := ⟨(issuing s s).ovlid, (issuing s s).pc + 1⟩
    let entered (t : State) (ovl : BitVec 16) (n off : Nat) (st : List RetEnt) : Prop :=
      (issuing s t).pc = off ∧ (issuing s t).ovlid = ovl ∧ (issuing s t).islot = n ∧ (t.grp k).rstack = st ∧
        OtherGroups s t ∧ SameMemory s t ∧ SameLanes s t
    (∀ o : BitVec 26, WellFormed (.call o) → Free s { wr := [57] } → g.diverged = false →
      let target : Int := (issuing s s).pc + o.toInt
      inSection s target →
        (g.rstack.length < 8 → Answers (exec (.call o) s) (fun t =>
          entered t (issuing s s).ovlid (issuing s s).islot target.toNat (here :: g.rstack) ∧
          readS t k s.cur.second 57 = ⟨returnWord here, false⟩)) ∧
        (8 ≤ g.rstack.length → TrapsHere s → Answers (exec (.call o) s) (fun t => TrapTaken s t .rstack 1))) ∧
    (∀ (a b : SIndex) (n : Nat), WellFormed (.callo a b) → Free s { rd := [a.toNat, b.toNat], wr := [57] } → g.diverged = false →
      g.rstack.length < 8 → (rs s a).poison = false → (rs s b).poison = false →
      resolve s k (some (rs s a).val) (keyOvlid (rs s a).val) = .here n s → (rs s b).val.toNat < scalarWords s (s.coreOf k) n →
        Answers (exec (.callo a b) s) (fun t =>
          entered t (heldAs s (s.coreOf k) n (s.asidOf k) (keyOvlid (rs s a).val)) n (rs s b).val.toNat (here :: g.rstack) ∧
          readS t k s.cur.second 57 = ⟨returnWord here, false⟩)) ∧
    (∀ (e : RetEnt) (rest : List RetEnt) (n : Nat), Free s {} → g.diverged = false → g.rstack = e :: rest →
      resolve s k none e.ovlid = .here n s → e.off < scalarWords s (s.coreOf k) n →
        Answers (exec .ret s) (fun t => entered t e.ovlid n e.off rest)) ∧
    (Free s {} → g.diverged = false → g.rstack = [] → TrapsHere s → Answers (exec .ret s) (fun t => TrapTaken s t .rstack 2))

/-- R118, R210, R237, R240–R243: branches go where their test says; calls push where they return to. -/
def Obligations.BranchesAndCalls : Prop :=
  Claims.BranchTakesItsTarget ∧ Claims.CallsAndReturns

/-- R246: LX queues its block under the slot's mask, and goes on; with four blocks in the queue it waits with LXFULL; a block that
leaves the lane section traps LANERANGE. The block keeps the holds of its slot, and comes before the slot's next word (R147). -/
def Sys2Proof.Claims.LaneBlocksAreQueued : Prop :=
  ∀ (c : BitVec 6) (o : BitVec 20) (s : State), WellFormed (.lx c o) → Free s { rd := [60, 61, 62] } →
    let g := s.grp s.cur.grp
    let x := issuing s s
    let b : LaneBlock := { ovlid := x.ovlid, islot := x.islot, off := o.toNat, count := c.toNat + 1, next := 0, mask := x.mask,
                           second := s.cur.second, lxpc := x.pc, id := s.nextId, acqHold := x.acqHold, fenceHold := x.fenceHold }
    let fits : Prop := o.toNat + c.toNat + 1 ≤ laneWords s (s.coreOf s.cur.grp) x.islot
    (fits → g.blocksHeld < 4 → Answers (exec (.lx c o) s) (fun t =>
      (t.grp s.cur.grp).laneq = g.laneq ++ [b] ∧ WentAfter s t (x.pc + 1) (g.stillPrior x.prior ++ [s.nextId]) ∧
        OnlyGroup { s with nextId := s.nextId + 1 } t s.cur.grp ∧ OtherSlot s t ∧ KeepsMask s t ∧
        SameLanes s t ∧ (t.grp s.cur.grp).s = g.s)) ∧
    (fits → 4 ≤ g.blocksHeld → Answers (exec (.lx c o) s) (fun t => Waits s t .lxfull)) ∧
    (¬ fits → TrapsHere s → Answers (exec (.lx c o) s) (fun t => TrapTaken s t .overlay 7))

/-- R120: SIGCHK goes on where ACC[19:0] agrees with its signature or SIGSKIP is set, and raises SIGNATURE, sub-code 1, where not, the
record's DATA with the value that did not match; in every case the accumulator starts again from zero and SIGSKIP is clear. -/
def Obligations.SignatureCheck : Prop :=
  ∀ (n : BitVec 20) (s : State), WellFormed (.sigchk n) → Free s {} →
    let x := issuing s s
    (x.sigskip = true ∨ x.acc.extractLsb' 0 20 = n → Answers (exec (.sigchk n) s) (fun t =>
      (issuing s t).acc = 0 ∧ (issuing s t).sigskip = false ∧ (issuing s t).pc = x.pc + 1 ∧ OnlyGroup s t s.cur.grp ∧
        KeepsGroup s t ∧ OtherSlot s t ∧ KeepsMask s t)) ∧
    (x.sigskip = false → x.acc.extractLsb' 0 20 ≠ n → TrapsHere s →
      Answers (exec (.sigchk n) s) (fun t => TrapTaken s t .signature 1 ∧ (issuing s t).acc = 0 ∧ (issuing s t).sigskip = false ∧
        (s.link ≠ .contained → ∃ r, t.records = s.records ++ [r] ∧ r.data = BitVec.ofNat 64 (x.acc.toNat + n.toNat * 2 ^ 32))))

/-- R398: IDEM.BEGIN, with no operation but stores outstanding, opens a region at the next word with the present ROOM and no
restart used; IDEM.END closes it. In a diverged group both trap. -/
def Obligations.IdempotentRegions : Prop :=
  ∀ (s : State),
    let g := s.grp s.cur.grp
    let x := issuing s s
    let framed (t : State) : Prop := WentTo s t (x.pc + 1) ∧ OnlyGroup s t s.cur.grp ∧ OtherSlot s t ∧ KeepsMask s t ∧
      SameLanes s t ∧ (t.grp s.cur.grp).s = g.s ∧ (t.grp s.cur.grp).drecs = g.drecs ∧ (t.grp s.cur.grp).ops = g.ops
    (Free s { ctr := [.ld, .cp, .tl, .gr, .en] } → g.diverged = false → g.ops.all (fun o => decide (o.cls = .st)) = true →
      Answers (exec .idemBegin s) (fun t =>
        let w := (t.grp s.cur.grp).idempc
        idemOpen w = true ∧ idemUsed w = false ∧ idemEroom w = g.room ∧ idemOvlid w = x.ovlid ∧
          idemOff w = (x.pc + 1) % 2 ^ 14 ∧ idemHen w = idemHen g.idempc ∧ idemHoff w = idemHoff g.idempc ∧ framed t)) ∧
    (Free s {} → g.diverged = false → Answers (exec .idemEnd s) (fun t =>
      idemOpen (t.grp s.cur.grp).idempc = false ∧ (∀ i, i ≠ 63 → (t.grp s.cur.grp).idempc.getLsbD i = g.idempc.getLsbD i) ∧ framed t)) ∧
    (g.diverged = true → TrapsHere s →
      (Free s { ctr := [.ld, .cp, .tl, .gr, .en] } → Answers (exec .idemBegin s) (fun t => TrapTaken s t .divg 7)) ∧
      (Free s {} → Answers (exec .idemEnd s) (fun t => TrapTaken s t .divg 7)))

/-- R105, R251, R252, R254: EXIT of an undiverged group issues and waits with EXITDRAIN, of one with records on its stack traps
DIVG; TRAP traps USER with the low byte of its register; LAUNCH sends its request to the queue manager and goes on. -/
def Sys2Proof.Claims.ExitTrapAndLaunch : Prop :=
  ∀ (s : State),
    let k := s.cur.grp
    let g := s.grp k
    (Free s {} → g.diverged = false → g.drecs = [] → g.dbelow = 0 → Answers (exec .exit s) (fun t =>
      (issuing s t).reason = .exitdrain ∧ (issuing s t).issued = true ∧ (issuing s t).pc = (issuing s s).pc ∧ OtherGroups s t ∧
        SameMemory s t ∧ SameLanes s t ∧ (t.grp k).s = g.s)) ∧
    (Free s {} → TrapsHere s → (g.diverged = true ∨ g.drecs ≠ [] ∨ 0 < g.dbelow) →
      Answers (exec .exit s) (fun t => TrapTaken s t .divg 2)) ∧
    (∀ a : SIndex, WellFormed (.trap a) → Free s { rd := [a.toNat] } → TrapsHere s →
      Answers (exec (.trap a) s) (fun t => TrapTaken s t .user ((rs s a).val.toNat % 256))) ∧
    (∀ d a b : SIndex, WellFormed (.launch d a b) → Free s { rd := [a.toNat, b.toNat], wr := [d.toNat], ctr := [.st] } →
      (rs s a).poison = false → (rs s b).poison = false → (rs s a).val.toNat < 2 ^ 12 →
        Answers (exec (.launch d a b) s) (fun t =>
          (∃ r : LaunchReq, t.launches = s.launches ++ [r] ∧ r.grp = k ∧ r.sd = d ∧ r.queue = (rs s a).val.toNat ∧
            r.addr = (rs s b).val.toNat ∧ r.op = s.nextId) ∧
          WentTo s t ((issuing s s).pc + 1) ∧ OtherGroups s t ∧ SameMemory s t ∧ SameLanes s t ∧ (t.grp k).s = g.s))

/-- R136, R144, R145: OVL.LD, OVL.EV, OVL.PIN and OVL.UNPIN put their request at the end of the core's store queue and go on;
OVL.LD raises CP. -/
def Sys2Proof.Claims.OverlayRequests : Prop :=
  ∀ (d a : SIndex) (s : State), (rs s a).poison = false →
    let k := s.cur.grp
    let c := s.coreOf k
    let sent (t : State) (q : OvlReq) : Prop :=
      (t.core c).ovlreqs = (s.core c).ovlreqs ++ [q] ∧ (issuing s t).pc = (issuing s s).pc + 1 ∧ OtherGroups s t ∧ SameMemory s t ∧
        SameLanes s t ∧ (t.grp k).s = (s.grp k).s
    s.cur.replay = false →
    (WellFormed (.ovlLd d a) → Free s { rd := [a.toNat], wr := [d.toNat], ctr := [.cp] } → (s.grp k).count .cp < 63 →
      Answers (exec (.ovlLd d a) s) (fun t => sent t (.load k s.nextId d (rs s a).val.toNat) ∧
        (t.grp k).count .cp = (s.grp k).count .cp + 1)) ∧
    (WellFormed (.ovlEv d a) → Free s { rd := [a.toNat], wr := [d.toNat] } →
      Answers (exec (.ovlEv d a) s) (fun t => sent t (.evict k s.nextId s.cur.second d (rs s a).val))) ∧
    (WellFormed (.ovlPin d a) → Free s { rd := [a.toNat], wr := [d.toNat] } →
      Answers (exec (.ovlPin d a) s) (fun t => sent t (.pin k s.nextId s.cur.second d (rs s a).val true))) ∧
    (WellFormed (.ovlUnpin d a) → Free s { rd := [a.toNat], wr := [d.toNat] } →
      Answers (exec (.ovlUnpin d a) s) (fun t => sent t (.pin k s.nextId s.cur.second d (rs s a).val false)))

/-- R136, R144, R145, R246: LX queues a lane block; the overlay words send their requests to the store. -/
def Obligations.LaneBlocksAndOverlays : Prop :=
  Claims.LaneBlocksAreQueued ∧ Claims.OverlayRequests

/-- R227, R249, R250: SRD writes the special register's value as it stands after the SRD's own folding; SWR puts the value in
the register's read/write bits, and reading it back gives them. -/
def Obligations.SpecialRegisters : Prop :=
  ∀ (s : State),
    let k := s.cur.grp
    (∀ (d : SIndex) (n : BitVec 14), WellFormed (.srd d n) → Free s (sregNeeds n.toNat d.toNat false) →
      Answers (exec (.srd d n) s) (fun t => Wrote s t d ⟨sregRead (foldWord s) k n.toNat, false⟩)) ∧
    (∀ (a : SIndex) (n : BitVec 14), WellFormed (.swr a n) → Free s (sregNeeds n.toNat a.toNat true) → (rs s a).poison = false →
      (n.toNat = 0x15 → (s.grp k).drecs = [] ∧ (s.grp k).dbelow = 0) →
        Answers (exec (.swr a n) s) (fun t =>
          let x := (rs s a).val
          (n.toNat = 0x10 → sregRead t k 0x10 = x &&& 0x1F) ∧
          (n.toNat = 0x11 → sregRead t k 0x11 = x &&& 0xFFFFFFFF) ∧ (n.toNat = 0x12 → sregRead t k 0x12 = x &&& 0xFFFFFFFF) ∧
          (n.toNat = 0x13 → sregRead t k 0x13 = x &&& 0xFFFFFFFF) ∧
          (n.toNat = 0x14 → sregRead t k 0x14 = x) ∧
          (n.toNat = 0x15 → sregRead t k 0x15 = BitVec.ofNat 64 ((x.toNat / 2 ^ 52) * 2 ^ 52 + x.toNat / 16 % 2 ^ 48 * 16)) ∧
          (n.toNat = 0x16 → sregRead t k 0x16 = x &&& idemMask) ∧
          (issuing s t).pc = (issuing s s).pc + 1 ∧ OnlyGroup s t k ∧ OtherGroups s t ∧ (t.grp k).s = (s.grp k).s ∧
          (t.grp k).v = (s.grp k).v ∧ (t.grp k).p = (s.grp k).p))

/-- R253, R401: in its handler RETT 0 and 1 leave the handler by a restore, 1 to each region's entry; RETT 2 is a context
fault, SUB 5; outside a handler RETT is an illegal instruction. -/
def Sys2Proof.Claims.ReturnFromTrap : Prop :=
  ∀ (a : SIndex) (s : State), WellFormed (.rett a) → Free s { rd := [a.toNat] } →
    let k := s.cur.grp
    let t0 := (s.grp k).team
    (inHandler s k = true → (s.grp k).quiet = true → (rs s a).poison = false →
      (∀ n : Nat, n < 2 → (rs s a).val.toNat = n → Answers (exec (.rett a) s) (fun t =>
        (t.team t0).state = .restoring ∧ (t.team t0).restartAll = decide (n = 1) ∧ (t.grp k).phase = .halted ∧ OtherGroups s t ∧
          SameMemory s t)) ∧
      ((rs s a).val.toNat = 2 → (s.ctx (s.asidOf k)).state = .active → Answers (exec (.rett a) s) (fun t =>
        (t.ctx (s.asidOf k)).state = .faulted ∧ (t.ctx (s.asidOf k)).sub = 5 ∧ SameMemory s t))) ∧
    (inHandler s k = false → TrapsHere s → Answers (exec (.rett a) s) (fun t => TrapTaken s t .illop (illopCode .undefval)))


/-- R105, R251–R254, R401: EXIT, TRAP and LAUNCH issue; RETT leaves the handler. -/
def Obligations.ExitTrapAndReturn : Prop :=
  Claims.ExitTrapAndLaunch ∧ Claims.ReturnFromTrap

namespace Sys2Proof.Claims

/-! ## Scalar memory, atomics and order (R147–R185, R283–R307) -/

/-- Bytes in memory read as before: HBM, L2, every byte of every L1, every scratch array and tile (R147). -/
def SameBytes (s t : State) : Prop :=
  t.hbm = s.hbm ∧ t.hbmPoison = s.hbmPoison ∧ t.l2 = s.l2 ∧ (∀ c asid a, l1Byte t c asid a = l1Byte s c asid a) ∧
    ∀ c, (t.core c).scratch = (s.core c).scratch ∧ (t.core c).scratchPoison = (s.core c).scratchPoison ∧
      (t.core c).tiles = (s.core c).tiles

/-- The operation the word starts is a new one: nothing outstanding of the group bears its name. -/
def NewName (s : State) : Prop :=
  (∀ o ∈ (s.grp s.cur.grp).ops, o.id < s.nextId) ∧ (∀ l ∈ (s.grp s.cur.grp).loads, l.op < s.nextId) ∧
    (∀ f ∈ (s.grp s.cur.grp).fetches, f.op < s.nextId) ∧ (∀ e ∈ (s.grp s.cur.grp).fifo, e.op < s.nextId) ∧
    (∀ b ∈ (s.grp s.cur.grp).sbusy, b.op < s.nextId ∨ b.op = 0) ∧ (∀ r ∈ s.remotes, r.op < s.nextId) ∧ (∀ x ∈ s.gops, x.op < s.nextId) ∧
    0 < s.nextId

/-- A scalar word of a counter class is free to go: no ACQ or FENCE of its slot before it is open, its address is not
poisoned, and its counter is below 63 (R159, R163, R174, R286). -/
def MayGo (s : State) (cls : CtrClass) (a : SIndex) : Prop :=
  memoryHeld (s.grp s.cur.grp) s.cur.second true = false ∧ (rs s a).poison = false ∧ (s.grp s.cur.grp).count cls < 63

/-- And no store of a queued lane word of its slot comes before it (R153; log 47). -/
def MayAccess (s : State) (cls : CtrClass) (a : SIndex) : Prop := MayGo s cls a ∧ behindLaneStore s = false

/-- A scalar word offered without the entries it needs (R287): its slot waits with RETRY and its rejection is counted; nothing is
sent and no counter rises. -/
def TurnedAway (s t : State) : Prop :=
  t.cur.held = true ∧ (issuing s t).reason = .retry ∧ (issuing s t).pc = (issuing s s).pc ∧
    (∃ r, (issuing s t).rej = some r ∧ r.count = (match (issuing s s).rej with | some q => q.count | none => 0) + 1) ∧
    OtherSlot s t ∧ OtherGroups s t ∧ SameMemory s t ∧ SameLanes s t ∧ (t.grp s.cur.grp).s = (s.grp s.cur.grp).s ∧
    (t.grp s.cur.grp).ops = (s.grp s.cur.grp).ops ∧ t.remotes = s.remotes

/-- What every such word does: its counter rises, its slot goes on, and the group's lane state and the other groups stay. -/
def Started (s t : State) (cls : CtrClass) : Prop :=
  (t.grp s.cur.grp).count cls = (s.grp s.cur.grp).count cls + 1 ∧ (issuing s t).pc = (issuing s s).pc + 1 ∧ OtherSlot s t ∧
    SameLanes s t

/-- R211, R289, R293: the loads and their width, sign extension and whether they read a cluster window. -/
def loadWords (d a : SIndex) (o : BitVec 10) (m : BitVec 1) : List (Instr × Nat × Bool × Bool) :=
  [(.ldb d a o m, 0, false, false), (.ldh d a o m, 1, false, false), (.ldw d a o m, 2, false, false), (.ldd d a o m, 3, false, false),
   (.ldbs d a o, 0, true, false), (.ldhs d a o, 1, true, false), (.ldws d a o, 2, true, false),
   (.rldb d a o m, 0, decide (m = 1), true), (.rldh d a o m, 1, decide (m = 1), true), (.rldw d a o m, 2, decide (m = 1), true),
   (.rldd d a o, 3, false, true)]

/-- R289, R293: the stores. -/
def storeWords (d a : SIndex) (o : BitVec 10) (m : BitVec 1) : List (Instr × Nat × Bool) :=
  [(.stb d a o m, 0, false), (.sth d a o m, 1, false), (.stw d a o m, 2, false), (.std d a o m, 3, false), (.rstb d a o, 0, true),
   (.rsth d a o, 1, true), (.rstw d a o, 2, true), (.rstd d a o, 3, true)]

/-- What an instruction accepts (R284). -/
def regionsOf (remote : Bool) : Accepts := if remote then ⟨false, false, true⟩ else ⟨true, true, false⟩

/-- R209 SM: sa + sext(OFF10) × 2^SZ. -/
def smAddress (s : State) (a : SIndex) (o : BitVec 10) (sz : Nat) : Nat :=
  (BitVec.ofInt 64 ((rs s a).val.toInt + o.toInt * 2 ^ sz)).toNat

/-- The value of n bytes, extended (R289). -/
def extended (sz : Nat) (sext : Bool) (bs : List PByte) : DWord :=
  if sext then (BitVec.ofNat (8 * 2 ^ sz) (pvalue bs)).signExtend 64 else BitVec.ofNat 64 (pvalue bs)

/-- R295: what memory becomes, at .w and at .d. -/
def atomicRows (d a b : SIndex) : List (Instr × Option Instr × (Int → Int → Int → Int) × Bool) :=
  [(.atomAddW d a b, some (.atomAddD d a b), fun o x _ => o + x, true),
   (.atomXchgW d a b, some (.atomXchgD d a b), fun _ x _ => x, true),
   (.atomCasW d a b, some (.atomCasD d a b), fun o x c => if o = c then x else o, true),
   (.atomMinW d a b, some (.atomMinD d a b), fun o x _ => min o x, true),
   (.atomMaxW d a b, some (.atomMaxD d a b), fun o x _ => max o x, true),
   (.atomMinuW d a b, some (.atomMinuD d a b), fun o x _ => min o x, false),
   (.atomMaxuW d a b, some (.atomMaxuD d a b), fun o x _ => max o x, false)]

/-- R295: the bitwise rows, and FADD. -/
def atomicBits (d a b : SIndex) : List (Instr × Nat × (DWord → DWord → DWord)) :=
  [(.atomAndW d a b, 2, fun o x => o &&& x), (.atomOrW d a b, 2, fun o x => o ||| x), (.atomXorW d a b, 2, fun o x => o ^^^ x),
   (.atomAndD d a b, 3, fun o x => o &&& x), (.atomOrD d a b, 3, fun o x => o ||| x), (.atomXorD d a b, 3, fun o x => o ^^^ x),
   (.atomFaddW d a b, 2, fun o x => BitVec.ofNat 64 (fpAdd fp32 0 o.toNat (x.toNat % 2 ^ 32)).1)]

/-- A register value of 2^sz bytes as an integer, signed or not. -/
def intOf (sz : Nat) (sg : Bool) (x : DWord) : Int :=
  if sz = 2 then (if sg then (x.setWidth 32 : Word).toInt else ((x.setWidth 32 : Word).toNat : Int))
  else (if sg then x.toInt else (x.toNat : Int))

/-- Every atomic with its width and the value memory takes from old, sb and sd. -/
def atomicWords (d a b : SIndex) : List (Instr × Nat × (DWord → DWord → DWord → DWord)) :=
  (atomicRows d a b).flatMap (fun r =>
    (r.1, 2, fun o x c => BitVec.ofInt 64 (r.2.2.1 (intOf 2 r.2.2.2 o) (intOf 2 r.2.2.2 x) (intOf 2 r.2.2.2 c))) ::
      (r.2.1.map (fun i => (i, 3, fun o x c => BitVec.ofInt 64 (r.2.2.1 (intOf 3 r.2.2.2 o) (intOf 3 r.2.2.2 x) (intOf 3 r.2.2.2 c))))).toList)
    ++ (atomicBits d a b).map (fun r => (r.1, r.2.1, fun o x _ => r.2.2 o x))

/-- n bytes of a team's scratch array take a value; every other cell of every array keeps its byte. -/
def ScratchTook (s t : State) (tm o n : Nat) (v : DWord) : Prop :=
  let x := s.team tm
  (∀ i, i < n → AMap.get 0 (t.core x.core).scratch (scratchKey x (o + i)) = v.extractLsb' (8 * i) 8) ∧
  (∀ key, (∀ i, i < n → key ≠ scratchKey x (o + i)) → AMap.get 0 (t.core x.core).scratch key = AMap.get 0 (s.core x.core).scratch key) ∧
  ∀ c, c ≠ x.core → (t.core c).scratch = (s.core c).scratch

end Sys2Proof.Claims

/-- R151, R153, R287, R289, R293: a load that may go raises LD and its slot goes on, whatever its place; memory reads as before. From own
scratch it brings its value at once, zero- or sign-extended, with the bytes' poison; from linear space every sector that it
misses is to be fetched; to another member's scratch a request goes for each block, and with no miss-status entry free the word is
rejected (R287). Behind a queued lane store of its slot it waits with HAZARD (R153; the model's reading, log 47). -/
def Obligations.ScalarLoads : Prop :=
  ∀ (d a : SIndex) (o : BitVec 10) (m : BitVec 1) (s : State),
    ∀ p ∈ loadWords d a o m, WellFormed p.1 → Free s { rd := [a.toNat], wr := [d.toNat] } → MayGo s .ld a → NewName s →
      let k := s.cur.grp
      let tm := (s.grp k).team
      let n := 2 ^ p.2.1
      let addr := smAddress s a o p.2.1
      (behindLaneStore s = true → Answers (exec p.1 s) (fun t => Waits s t .hazard)) ∧ (behindLaneStore s = false →
      (∀ x, locate s tm (regionsOf p.2.2.2) addr n = .ok (.own x) →
        Answers (exec p.1 s) (fun t => Started s t .ld ∧ SameBytes s t ∧ OtherGroups s t ∧ KeepsScalars s t d ∧
          regAfter s t d = (if d = 0 then ⟨0, false⟩
            else ⟨extended p.2.1 p.2.2.1 (scratchRead s tm x n), ppoison (scratchRead s tm x n)⟩))) ∧
      (∀ x, locate s tm (regionsOf p.2.2.2) addr n = .ok (.lin x) → 2 ≤ mshrFree s (s.coreOf k) →
        Answers (exec p.1 s) (fun t => Started s t .ld ∧ SameBytes s t ∧ OtherGroups s t ∧ KeepsScalars s t d ∧
          ∀ i, i < n → fifoByte (s.grp k) (s.asidOf k) (x + i) = none → l1Byte s (s.coreOf k) (s.asidOf k) (x + i) = none →
            ∃ f ∈ (t.grp k).fetches, f.op = s.nextId ∧ f.line = (x + i) / 128)) ∧
      (∀ mb x, locate s tm (regionsOf p.2.2.2) addr n = .ok (.win mb x) → x + n ≤ 2 ^ 20 → 2 ≤ mshrFree s (s.coreOf k) →
        Answers (exec p.1 s) (fun t => Started s t .ld ∧ SameBytes s t ∧ OtherGroups s t ∧ KeepsScalars s t d ∧
          ∀ i, i < n → ∃ r ∈ t.remotes, r.op = s.nextId ∧ r.grp = k ∧ r.member = mb ∧ r.block = (x + i) / 128)) ∧
      (∀ mb x, locate s tm (regionsOf p.2.2.2) addr n = .ok (.win mb x) → mshrFree s (s.coreOf k) = 0 → s.cur.widx = 0xFFFF →
        Answers (exec p.1 s) (TurnedAway s)) ∧
      (∀ sub, locate s tm (regionsOf p.2.2.2) addr n = .error sub → TrapsHere s →
        Answers (exec p.1 s) (fun t => TrapTaken s t .mem sub)))

/-- R148, R151, R153, R286, R289, R293: a store that may go raises ST and its slot goes on. Its bytes join the group's FIFO, where a
read finds them with the data's poison; or they are in own scratch at once; or a request goes for each block of another
member's scratch. No other byte of memory changes. -/
def Obligations.ScalarStores : Prop :=
  ∀ (d a : SIndex) (o : BitVec 10) (m : BitVec 1) (s : State),
    ∀ p ∈ storeWords d a o m, WellFormed p.1 → Free s { rd := [a.toNat, d.toNat] } → MayAccess s .st a →
      let k := s.cur.grp
      let tm := (s.grp k).team
      let n := 2 ^ p.2.1
      let addr := smAddress s a o p.2.1
      let v := rs s d
      (∀ x, locate s tm (regionsOf p.2.2) addr n = .ok (.lin x) → 2 ≤ fifoFree s k →
        Answers (exec p.1 s) (fun t => Started s t .st ∧ SameMemory s t ∧ OtherGroups s t ∧ (t.grp k).s = (s.grp k).s ∧
          (∀ i, i < n → fifoByte (t.grp k) (s.asidOf k) (x + i) = some ⟨v.val.extractLsb' (8 * i) 8, v.poison⟩) ∧
          (∀ b, (b < x ∨ x + n ≤ b) → fifoByte (t.grp k) (s.asidOf k) b = fifoByte (s.grp k) (s.asidOf k) b))) ∧
      (∀ x, locate s tm (regionsOf p.2.2) addr n = .ok (.own x) →
        Answers (exec p.1 s) (fun t => Started s t .st ∧ ScratchTook s t tm x n v.val ∧ OtherGroups s t ∧ (t.grp k).s = (s.grp k).s ∧
          (t.grp k).fifo = (s.grp k).fifo ∧ t.hbm = s.hbm ∧ t.l2 = s.l2 ∧
          (v.poison = true → ∀ i, i < n → (scratchGet t tm (x + i)).poison = true))) ∧
      (∀ mb x, locate s tm (regionsOf p.2.2) addr n = .ok (.win mb x) → x + n ≤ 2 ^ 20 → 2 ≤ mshrFree s (s.coreOf k) →
        Answers (exec p.1 s) (fun t => Started s t .st ∧ SameMemory s { t with fabric := s.fabric } ∧ OtherGroups s t ∧ (t.grp k).s = (s.grp k).s ∧
          ∀ i, i < n → ∃ r ∈ t.remotes, r.op = s.nextId ∧ r.grp = k ∧ r.member = mb ∧ r.block = (x + i) / 128)) ∧
      (∀ sub, locate s tm (regionsOf p.2.2) addr n = .error sub → TrapsHere s →
        Answers (exec p.1 s) (fun t => TrapTaken s t .mem sub))

/-- R168, R295: an atomic that may go raises LD. In own scratch it is performed at once: sd takes the old value, zero-extended,
and memory the row's value; no other byte changes. In linear space its request is to be sent. A misaligned one traps ALIGN. -/
def Obligations.ScalarAtomics : Prop :=
  ∀ (d a b : SIndex) (s : State), ∀ p ∈ atomicWords d a b, WellFormed p.1 →
    Free s { rd := [a.toNat, b.toNat] ++ (if p.1 = .atomCasW d a b ∨ p.1 = .atomCasD d a b then [d.toNat] else []), wr := [d.toNat] } →
    MayAccess s .ld a → NewName s → (rs s b).poison = false → (rs s d).poison = false →
      let k := s.cur.grp
      let tm := (s.grp k).team
      let n := 2 ^ p.2.1
      let addr := (rs s a).val.toNat
      (∀ x, locate s tm ⟨true, true, false⟩ addr n = .ok (.own x) → addr % n = 0 → ppoison (scratchRead s tm x n) = false →
        Answers (exec p.1 s) (fun t =>
          let old : DWord := BitVec.ofNat 64 (pvalue (scratchRead s tm x n))
          Started s t .ld ∧ OtherGroups s t ∧ KeepsScalars s t d ∧ regAfter s t d = (if d = 0 then ⟨0, false⟩ else ⟨old, false⟩) ∧
            ScratchTook s t tm x n (p.2.2 old (rs s b).val (rs s d).val) ∧ t.hbm = s.hbm ∧ t.l2 = s.l2)) ∧
      (∀ x, locate s tm ⟨true, true, false⟩ addr n = .ok (.lin x) → addr % n = 0 → 1 ≤ mshrFree s (s.coreOf k) →
        Answers (exec p.1 s) (fun t => (t.grp k).count .ld = (s.grp k).count .ld + 1 ∧ (issuing s t).pc = (issuing s s).pc + 1 ∧
          SameLanes s t ∧ t.hbm = s.hbm ∧ t.l2 = s.l2 ∧ ∃ f ∈ (t.grp k).fetches, f.op = s.nextId ∧ f.line = x / 128)) ∧
      (∀ l, locate s tm ⟨true, true, false⟩ addr n = .ok l → addr % n ≠ 0 → TrapsHere s →
        Answers (exec p.1 s) (fun t => TrapTaken s t .mem 4))

/-- R154, R158, R159: an ACQ that may go reads its word at its point, raises LD and holds the slot's later memory words; a REL
that may go raises ST and follows the stores that came before it. -/
def Obligations.AcquireAndRelease : Prop :=
  ∀ (d a b : SIndex) (s : State),
    let k := s.cur.grp
    let g := s.grp k
    let addr := (rs s a).val.toNat
    s.cur.replay = false → bindHeld g s.cur.second = false → NewName s →
    (∀ p ∈ [(Instr.acqTeam d a, 0), (.acqCluster d a, 1), (.acqDevice d a, 2), (.acqSystem d a, 3)], ∀ l,
      WellFormed p.1 → Free s { rd := [a.toNat], wr := [d.toNat] } → MayGo s .ld a → syncPlace s k p.2 addr = .ok l →
      ((∃ o, l = .own o) ∨ mshrFree s (s.coreOf k) ≠ 0) →
        Answers (exec p.1 s) (fun t => Started s t .ld ∧ SameMemory s { t with fabric := s.fabric } ∧ OtherGroups s t ∧
          (t.grp k).s = g.s ∧ s.nextId ∈ (issuing s t).acqHold ∧
          ∃ y ∈ (t.grp k).syncs, y.op = s.nextId ∧ y.isRel = false ∧ y.scope = p.2 ∧ y.word = addr ∧ y.sd = d)) ∧
    (∀ p ∈ [(Instr.relTeam a b, 0), (.relCluster a b, 1), (.relDevice a b, 2), (.relSystem a b, 3)], ∀ l,
      WellFormed p.1 → Free s { rd := [a.toNat, b.toNat] } → (rs s a).poison = false → (rs s b).poison = false →
      syncPlace s k p.2 addr = .ok l → queuedMemory s k s.cur.second = false → g.count .st < 63 →
        Answers (exec p.1 s) (fun t => Started s t .st ∧ SameMemory s t ∧ OtherGroups s t ∧ (t.grp k).s = g.s ∧
          ∃ y, (t.grp k).syncs = g.syncs ++ [y] ∧ y.op = s.nextId ∧ y.isRel = true ∧ y.scope = p.2 ∧ y.word = addr ∧
            y.value = rs s b ∧ y.after = fencedPending g s.cur.second))

/-- R301: BIND and UNBIND raise ST, hold the slot's later ACQ and REL, and send their request to the binding cache. -/
def Obligations.BindingRequests : Prop :=
  ∀ (d a b : SIndex) (s : State),
    let k := s.cur.grp
    let g := s.grp k
    s.cur.replay = false → g.count .st < 63 →
    (WellFormed (.bind d a b) → Free s { rd := [a.toNat, b.toNat, b.toNat + 1], wr := [d.toNat] } → (rs s a).poison = false →
      (rs s b).poison = false → (rs s (b + 1)).poison = false →
        Answers (exec (.bind d a b) s) (fun t => Started s t .st ∧ SameMemory s t ∧ OtherGroups s t ∧ (t.grp k).s = g.s ∧
          s.nextId ∈ (issuing s t).bindHold ∧ ∃ y, (t.grp k).binds = g.binds ++ [y] ∧ y.op = s.nextId ∧ y.isBind = true ∧
            y.sync = (rs s a).val.toNat ∧ y.base = (rs s b).val.toNat ∧ y.len = (rs s (b + 1)).val.toNat ∧ y.sd = d)) ∧
    (WellFormed (.unbind a) → Free s { rd := [a.toNat] } → (rs s a).poison = false → (rs s a).val.toNat < 2 ^ 12 →
        Answers (exec (.unbind a) s) (fun t => Started s t .st ∧ SameMemory s t ∧ OtherGroups s t ∧ (t.grp k).s = g.s ∧
          s.nextId ∈ (issuing s t).bindHold ∧ ∃ y, (t.grp k).binds = g.binds ++ [y] ∧ y.op = s.nextId ∧ y.isBind = false ∧
            y.entry = (rs s a).val.toNat))

/-- R163, R303: a FENCE goes on at once and holds the slot's later memory words behind every open operation it covers. R162,
R304: a maintenance word raises ST and names its lines; one of length 0 has reached its falling point. -/
def Sys2Proof.Claims.FenceAndMaintenance : Prop :=
  ∀ (a b : SIndex) (s : State),
    let k := s.cur.grp
    let g := s.grp k
    queuedMemory s k s.cur.second = false →
    (Free s {} → Answers (exec .fence s) (fun t => WentTo s { t with groups := AMap.put t.groups k ((t.grp k).modSlot s.cur.second
        (fun sl => { sl with fenceHold := (issuing s s).fenceHold })) } ((issuing s s).pc + 1) ∧
      (∀ id ∈ fencedPending g s.cur.second, id ∈ (issuing s t).fenceHold) ∧ OnlyGroup s t k ∧ KeepsGroup s t ∧ OtherSlot s t)) ∧
    (∀ p ∈ [(Instr.cleanL1 a b, 0, 1), (.cleanL2 a b, 0, 2), (.invL1 a b, 1, 1), (.invL2 a b, 1, 2), (.clinvL1 a b, 2, 1), (.clinvL2 a b, 2, 2)],
      WellFormed p.1 → Free s { rd := [a.toNat, b.toNat] } → MayGo s .st a → (rs s b).poison = false →
      let lo := (rs s a).val.toNat
      let n := (rs s b).val.toNat
      n ≤ 2 ^ 40 → lo + n ≤ windowBase → lo < windowBase →
        Answers (exec p.1 s) (fun t => Started s t .st ∧ SameMemory s t ∧ OtherGroups s t ∧ (t.grp k).s = g.s ∧
          (n = 0 → (t.grp k).pending s.nextId = false) ∧
          (n ≠ 0 → ∃ y, (t.grp k).maints = g.maints ++ [y] ∧ y.op = s.nextId ∧ y.kind = p.2.1 ∧ y.level = p.2.2 ∧ y.lo = lo / 128 ∧
            y.hi = (lo + n - 1) / 128)))

/-- R176: a WAIT goes on once every class it names is at or below its threshold, and until then waits in place with COUNTER
(PAGEFAULT where a parked operation holds a class); WAITR takes its one threshold from a register. -/
def Sys2Proof.Claims.CounterWaits : Prop :=
  ∀ (s : State),
    let g := s.grp s.cur.grp
    let goes (t : State) : Prop := NoResult s t ∧ WentTo s t ((issuing s s).pc + 1)
    let stays (t : State) : Prop := (issuing s t).pc = (issuing s s).pc ∧ (issuing s t).issued = true ∧
      ((issuing s t).reason = .counter ∨ (issuing s t).reason = .pagefault) ∧ OtherGroups s t ∧ SameMemory s t ∧ SameLanes s t ∧
      (t.grp s.cur.grp).s = g.s ∧ (t.grp s.cur.grp).ops = g.ops
    (∀ (e r t0 c v l : BitVec 4),
      let named : List (CtrClass × BitVec 4) := [(.ld, l), (.st, v), (.cp, c), (.tl, t0), (.gr, r), (.en, e)]
      let low : Prop := ∀ q ∈ named, q.2 ≠ 15 → g.count q.1 ≤ q.2.toNat
      Free s (waitNeeds s { ctr := (named.filter (fun q => decide (q.2 ≠ 15))).map (·.1) }) →
        (low → Answers (exec (.wait e r t0 c v l) s) goes) ∧ (¬ low → Answers (exec (.wait e r t0 c v l) s) stays)) ∧
    (∀ (c a : SIndex) (cls : CtrClass), WellFormed (.waitr c a) →
      (c.toNat, cls) ∈ [(0, CtrClass.ld), (1, .st), (2, .cp), (3, .tl), (4, .gr), (5, .en)] →
      Free s (waitNeeds s { rd := [a.toNat], ctr := [cls] }) → (rs s a).poison = false →
        (g.count cls ≤ (rs s a).val.toNat → Answers (exec (.waitr c a) s) goes) ∧
        ((rs s a).val.toNat < g.count cls → Answers (exec (.waitr c a) s) stays))

/-- R162, R163, R176, R303, R304: FENCE and cache maintenance start; WAIT and WAITR go on once their counters allow it. -/
def Obligations.MaintenanceAndWaits : Prop :=
  Claims.FenceAndMaintenance ∧ Claims.CounterWaits

/-- R180, R181, R185: BAR.INIT opens a barrier for its count and scope and keeps its phase; an arrival that is not the last raises
ARRIVED, the last one of a team barrier ends the phase; BAR.ARR writes the phase, BAR.SYNC waits for it, BAR.WAIT goes on once
its phase is complete. In Handler the team's barriers stand still: an arrival waits (R185). -/
def Obligations.TeamBarriers : Prop :=
  ∀ (n : BitVec 4) (s : State),
    let k := s.cur.grp
    let g := s.grp k
    let x := (s.team g.team).bar n.toNat
    let after (t : State) : Barrier := (t.team g.team).bar n.toNat
    let framed (t : State) : Prop := OtherGroups s t ∧ SameMemory s t ∧ SameLanes s t ∧
      ∀ b, b ≠ n.toNat → (t.team g.team).bar b = (s.team g.team).bar b
    let ready : Prop := queuedMemory s k s.cur.second = false ∧ fencedPending g s.cur.second = [] ∧ (s.team g.team).state ≠ .handler
    (∀ (a : SIndex), ∀ p ∈ [(Instr.barInitTeam a n, 0), (.barInitCluster a n, 1), (.barInitGrid a n, 2)],
      WellFormed p.1 → Free s { rd := [a.toNat] } → (rs s a).poison = false → x.state ≠ .forwarded → (x.state = .opened → x.arrived = 0) →
      (p.2 = 2 → (s.kernelOf k).coop = true) → 1 ≤ (rs s a).val.toNat → (rs s a).val.toNat ≤ 255 →
        Answers (exec p.1 s) (fun t => after t = { x with state := .opened, scope := p.2, expect := (rs s a).val.toNat, arrived := 0 } ∧
          WentTo s t ((issuing s s).pc + 1) ∧ framed t)) ∧
    (∀ (d : SIndex), WellFormed (.barArr d n) → Free s { wr := [d.toNat] } → ready → x.state = .opened →
      (x.arrived + 1 < x.expect → Answers (exec (.barArr d n) s) (fun t =>
        after t = { x with arrived := x.arrived + 1 } ∧ regAfter s t d = (if d = 0 then ⟨0, false⟩ else ⟨x.phase.setWidth 64, false⟩) ∧
          WentTo s t ((issuing s s).pc + 1) ∧ framed t)) ∧
      (x.expect ≤ x.arrived + 1 → x.scope = 0 → Answers (exec (.barArr d n) s) (fun t =>
        after t = { x with arrived := 0, phase := x.phase + 1, waiters := 0 } ∧
          regAfter s t d = (if d = 0 then ⟨0, false⟩ else ⟨x.phase.setWidth 64, false⟩) ∧ WentTo s t ((issuing s s).pc + 1) ∧ framed t))) ∧
    (Free s {} → ready → x.state = .opened → (issuing s s).issued = false →
      (x.expect ≤ x.arrived + 1 → x.scope = 0 → Answers (exec (.barSync n) s) (fun t =>
        after t = { x with arrived := 0, phase := x.phase + 1, waiters := 0 } ∧ (issuing s t).pc = (issuing s s).pc + 1 ∧ framed t)) ∧
      (x.arrived + 1 < x.expect → Answers (exec (.barSync n) s) (fun t =>
        (after t).arrived = x.arrived + 1 ∧ (after t).phase = x.phase ∧
          (after t).waiters = x.waiters ||| ((1 : Word) <<< (2 * g.grpid + (if s.cur.second then 1 else 0))) ∧
          (issuing s t).pc = (issuing s s).pc ∧ (issuing s t).reason = .barrier ∧ (issuing s t).waitPhase = some (n.toNat, x.phase) ∧
          framed t))) ∧
    (∀ (a : SIndex), WellFormed (.barWait a n) → Free s { rd := [a.toNat] } → (rs s a).poison = false → x.state ≠ .unarmed →
      let d := (x.phase.toNat + 2 ^ 16 - (rs s a).val.toNat % 2 ^ 16) % 2 ^ 16
      (1 ≤ d ∧ d ≤ 32767 → Answers (exec (.barWait a n) s) (fun t => NoResult s t ∧ WentTo s t ((issuing s s).pc + 1))) ∧
      (¬ (1 ≤ d ∧ d ≤ 32767) → Answers (exec (.barWait a n) s) (fun t =>
        (issuing s t).pc = (issuing s s).pc ∧ (issuing s t).reason = .barrier ∧ framed t))) ∧
    (x.state ≠ .unarmed → (s.team g.team).state = .handler → ∀ d : SIndex, WellFormed (.barArr d n) → Free s { wr := [d.toNat] } →
      Answers (exec (.barArr d n) s) (fun t => Waits s t .barrier)) ∧
    (x.state = .unarmed → TrapsHere s →
      (∀ d : SIndex, WellFormed (.barArr d n) → Free s { wr := [d.toNat] } → Answers (exec (.barArr d n) s) (fun t => TrapTaken s t .barrier 1)))

/-- R287, R288: what a core has free is left to its aged words, those rejected 16 times: a word that is not aged may take what no aged
word is waiting for, and of two aged words the one that became so later leaves the other what it needs. -/
def Obligations.AgedWordsComeFirst : Prop :=
  ∀ (s : State) (c k : Nat) (r : Rejected), k ∈ groupsOn s c → r ∈ agedWords s k →
    (∀ m, rejections s = some m → m.count < 16 ∨ r.stamp < m.stamp) →
      (0 < mshrFree s c → mshrFree s c + r.need + mshrUsed s c ≤ 1024) ∧
      (s.cur.grp = k → 0 < fifoFree s k → fifoFree s k + r.fifo + fifoUsed s k ≤ 192)

namespace Sys2Proof.Claims

/-! ## Lane words that compute (R219, R256–R282) -/

/-- The lane word being issued passes its checks and holds and has no poisoned guard (R215, R221, R257, R258). -/
def LaneFree (s : State) (op : LaneOp) (f : LaneFields) : Prop :=
  s.cur.replay = false ∧ laneCheck op f = none ∧ grantCheck (s.grp s.cur.grp).grant op f = none ∧
    laneBusy (s.grp s.cur.grp) [(op, f)] = false ∧ guardPoison (s.grp s.cur.grp) s.cur.mask f = 0

/-- R113, R213: the lanes of the block's mask where the guard is true. -/
def acts (s : State) (f : LaneFields) (l : Nat) : Bool :=
  s.cur.mask.getLsbD l && (decide (f.pg = 0) || (((s.grp s.cur.grp).pred f.pg.toNat).bits.getLsbD l != f.pn))

/-- The lane queue once its next word has issued (R32, R112). -/
def queueAfter : List LaneBlock → List LaneBlock
  | [] => []
  | b :: bs => if b.next + 1 < b.count then { b with next := b.next + 1 } :: bs else bs

/-- What every computing lane word leaves: memory, teams, cores and the other groups; of its own group the windows, cursors,
stacks, counters and everything outstanding. -/
def LaneFrame (s t : State) : Prop :=
  let g := s.grp s.cur.grp
  { t with groups := s.groups, nextId := s.nextId } = s ∧ OtherGroups s t ∧ (t.grp s.cur.grp).laneq = queueAfter g.laneq ∧
    (t.grp s.cur.grp).laneRej = none ∧
    { (t.grp s.cur.grp) with v := g.v, p := g.p, s := g.s, slot0 := g.slot0, slot1 := g.slot1, fpst := g.fpst, satf := g.satf,
                             lbusy := g.lbusy, laneq := g.laneq, laneRej := g.laneRej, skip := g.skip, skid := g.skid, lastpos := g.lastpos,
                             lastslot := g.lastslot } = g

/-- Register vd took res in the acting lanes; every other element of every register is as it was, and so are predicates, scalar
registers and the program counters (R256). -/
def LaneWrote (s t : State) (f : LaneFields) (vd : BitVec 9) (res : Nat → LElt) : Prop :=
  let g := s.grp s.cur.grp
  let h := t.grp s.cur.grp
  (∀ r l, l < 96 → h.velt r l = if r = vd.toNat ∧ acts s f l = true then res l else g.velt r l) ∧
    h.p = g.p ∧ h.s = g.s ∧ h.slot0 = g.slot0 ∧ h.slot1 = g.slot1 ∧ LaneFrame s t

/-- Predicate pd took a bit and its poison in the acting lanes, and nothing else changed but FPST (R263). -/
def PredWrote (s t : State) (f : LaneFields) (bit poison : Nat → Bool) : Prop :=
  let g := s.grp s.cur.grp
  let h := t.grp s.cur.grp
  (∀ q l, l < 96 → (h.pred q).bits.getLsbD l = (if q = f.vd.toNat ∧ acts s f l = true then bit l else (g.pred q).bits.getLsbD l) ∧
    (h.pred q).poison.getLsbD l = (if q = f.vd.toNat ∧ acts s f l = true then poison l else (g.pred q).poison.getLsbD l)) ∧
    h.v = g.v ∧ h.s = g.s ∧ h.satf = g.satf ∧ h.slot0 = g.slot0 ∧ h.slot1 = g.slot1 ∧ LaneFrame s t

/-- A lane's element of a register of the group. -/
def elem (s : State) (r : BitVec 9) (l : Nat) : LElt := (s.grp s.cur.grp).velt r.toNat l

/-- A word read as INT32, or unsigned. -/
def asInt (u : Bool) (x : Word) : Int := if u then (x.toNat : Int) else x.toInt

/-- R260: the words that accept SAT, with how many sources each has and its exact result; the flag says whether U applies. -/
def exactWords (f : LaneFields) : List (Instr × LaneOp × Nat × Bool × (Word → Word → Word → Int)) :=
  let u := f.xmod.getLsbD 0
  [(.vadd f, .vadd, 2, true, fun a b _ => asInt u a + asInt u b), (.vsub f, .vsub, 2, true, fun a b _ => asInt u a - asInt u b),
   (.vmul f, .vmul, 2, true, fun a b _ => asInt u a * asInt u b),
   (.vmad f, .vmad, 3, true, fun a b c => asInt u a * asInt u b + asInt u c),
   (.vdot2 f, .vdot2, 3, false, fun a b c =>
     (a.extractLsb' 0 16).toInt * (b.extractLsb' 0 16).toInt + (a.extractLsb' 16 16).toInt * (b.extractLsb' 16 16).toInt + c.toInt),
   (.vabs f, .vabs, 1, false, fun a _ _ => if a.toInt < 0 then -a.toInt else a.toInt)]

/-- The bounds a saturated result is held to (R56). -/
def satLow (u : Bool) : Int := if u then 0 else -2147483648
def satHigh (u : Bool) : Int := if u then 4294967295 else 2147483647
def saturated (u : Bool) (x : Int) : Int := if x < satLow u then satLow u else if satHigh u < x then satHigh u else x

/-- R260, R262: the words of one value per lane without SAT, with how many sources each has. -/
def plainWords (f : LaneFields) : List (Instr × LaneOp × Nat × (Word → Word → Word)) :=
  let u := f.xmod.getLsbD 0
  [(.vmulh f, .vmulh, 2, fun a b => BitVec.ofInt 32 (asInt u a * asInt u b / 2 ^ 32)),
   (.vmin f, .vmin, 2, fun a b => BitVec.ofInt 32 (min (asInt u a) (asInt u b))),
   (.vmax f, .vmax, 2, fun a b => BitVec.ofInt 32 (max (asInt u a) (asInt u b))),
   (.vand f, .vand, 2, fun a b => a &&& b), (.vor f, .vor, 2, fun a b => a ||| b), (.vxor f, .vxor, 2, fun a b => a ^^^ b),
   (.vandn f, .vandn, 2, fun a b => a &&& ~~~b), (.vnot f, .vnot, 1, fun a _ => ~~~a),
   (.vshl f, .vshl, 2, fun a b => BitVec.ofNat 32 (a.toNat * 2 ^ (b.toNat % 32))),
   (.vshr f, .vshr, 2, fun a b => BitVec.ofNat 32 (a.toNat / 2 ^ (b.toNat % 32))),
   (.vsar f, .vsar, 2, fun a b => BitVec.ofInt 32 (a.toInt / 2 ^ (b.toNat % 32))),
   (.vpopc f, .vpopc, 1, fun a _ => BitVec.ofNat 32 ((List.range 32).filter (fun i => a.toNat.testBit i)).length),
   (.vclz f, .vclz, 1, fun a _ => BitVec.ofNat 32 (if a = 0 then 32 else 31 - Nat.log2 a.toNat)),
   (.vmov f, .vmov, 1, fun a _ => a)]

/-- The poison of the first n of three elements. -/
def poisonOf (n : Nat) (a b c : LElt) : Bool := a.poison || (decide (2 ≤ n) && b.poison) || (decide (3 ≤ n) && c.poison)

/-- R263: the integer compares. -/
def laneCompares (f : LaneFields) : List (Instr × LaneOp × (Word → Word → Bool)) :=
  [(.vcmpEq f, .vcmpEq, fun a b => decide (a.toNat = b.toNat)), (.vcmpNe f, .vcmpNe, fun a b => decide (a.toNat ≠ b.toNat)),
   (.vcmpLt f, .vcmpLt, fun a b => decide (a.toInt < b.toInt)), (.vcmpLe f, .vcmpLe, fun a b => decide (a.toInt ≤ b.toInt)),
   (.vcmpLtu f, .vcmpLtu, fun a b => decide (a.toNat < b.toNat)), (.vcmpLeu f, .vcmpLeu, fun a b => decide (a.toNat ≤ b.toNat))]

/-- R263: the floating-point compares, on FP32 values that are not NaN; and when a NaN raises IV. -/
def floatCompares (f : LaneFields) : List (Instr × LaneOp × (Nat → Nat → Bool) × Bool) :=
  [(.vfcmpEq f, .vfcmpEq, fun a b => fpEq fp32 a b, false), (.vfcmpLt f, .vfcmpLt, fun a b => fpLt fp32 a b, true),
   (.vfcmpLe f, .vfcmpLe, fun a b => fpLt fp32 a b || fpEq fp32 a b, true)]

/-- R266, R267: the floating-point words of one result per element. -/
def floatWords (f : LaneFields) : List (Instr × LaneOp × Nat × (Fmt → Nat → Nat → Nat → Nat × FpFlags)) :=
  let rm := f.rm.toNat
  [(.vfadd f, .vfadd, 2, fun t a b _ => fpAdd t rm a b), (.vfsub f, .vfsub, 2, fun t a b _ => fpSub t rm a b),
   (.vfmul f, .vfmul, 2, fun t a b _ => fpMul t rm a b), (.vfma f, .vfma, 3, fun t a b c => fpFma t rm a b c),
   (.vfms f, .vfms, 3, fun t a b c => fpFma t rm a b (negate t c)), (.vfdiv f, .vfdiv, 2, fun t a b _ => fpDiv t rm a b),
   (.vfsqrt f, .vfsqrt, 1, fun t a _ _ => fpSqrt t rm a), (.vfmin f, .vfmin, 2, fun t a b _ => fpMinMax t false a b),
   (.vfmax f, .vfmax, 2, fun t a b _ => fpMinMax t true a b),
   (.vfabs f, .vfabs, 1, fun t a _ _ => (if t.sign a then negate t a else a, 0)), (.vfneg f, .vfneg, 1, fun t a _ _ => (negate t a, 0)),
   (.vfrcp f, .vfrcp, 1, fun t a _ _ => fpRcp t rm a), (.vfrsq f, .vfrsq, 1, fun t a _ _ => fpRsq t rm a),
   (.vfexp2 f, .vfexp2, 1, fun t a _ _ => fpExp2 t rm a), (.vflog2 f, .vflog2, 1, fun t a _ _ => fpLog2 t rm a),
   (.vfsin f, .vfsin, 1, fun t a _ _ => fpSin t rm a), (.vfcos f, .vfcos, 1, fun t a _ _ => fpCos t rm a)]

/-- R265: a lane's result, one FP32 element or two of 16 bits, each from the same-numbered elements of the sources. -/
def floatLane (f : LaneFields) (fn : Fmt → Nat → Nat → Nat → Nat × FpFlags) (a b c : Word) : Nat × FpFlags :=
  let half (t : Fmt) : Nat × FpFlags :=
    let lo := fn t (a.toNat % 2 ^ 16) (b.toNat % 2 ^ 16) (c.toNat % 2 ^ 16)
    let hi := fn t (a.toNat / 2 ^ 16) (b.toNat / 2 ^ 16) (c.toNat / 2 ^ 16)
    (lo.1 + hi.1 * 2 ^ 16, lo.2 ||| hi.2)
  match f.xmod.toNat % 4 with
  | 0 => fn fp32 a.toNat b.toNat c.toNat
  | 1 => half fp16
  | _ => half bf16

end Sys2Proof.Claims

/-- R56, R256, R258, R260: the integer words with SAT write, in each acting lane, the exact result wrapped, or with SAT held to its
bounds, the lane's SATF bit then set where that changed it; poisoned with any source. -/
def Sys2Proof.Claims.SaturatingLaneWords : Prop :=
  ∀ (f : LaneFields) (s : State), ∀ p ∈ exactWords f, LaneFree s p.2.1 f →
    let x (l : Nat) : Int := p.2.2.2.2 (elem s f.va l).val (elem s f.vb l).val (elem s f.vc l).val
    let u := p.2.2.2.1 && f.xmod.getLsbD 0
    Answers (exec p.1 s) (fun t =>
      LaneWrote s t f f.vd (fun l => ⟨BitVec.ofInt 32 (if f.sat then saturated u (x l) else x l),
        poisonOf p.2.2.1 (elem s f.va l) (elem s f.vb l) (elem s f.vc l)⟩) ∧
      (∀ l, l < 96 → (t.grp s.cur.grp).satf.getLsbD l =
        ((s.grp s.cur.grp).satf.getLsbD l || (acts s f l && f.sat && decide (saturated u (x l) ≠ x l)))) ∧
      (t.grp s.cur.grp).fpst = (s.grp s.cur.grp).fpst)

/-- R256, R258, R260, R262, R264: the integer, logic, shift and move words of one value per lane write it in each acting lane,
poisoned with any source, and touch no flag; VID, VBCAST and its immediate form write the lane number, the register, the
immediate. -/
def Sys2Proof.Claims.PlainLaneWords : Prop :=
  ∀ (f : LaneFields) (s : State),
    let flags (t : State) : Prop := (t.grp s.cur.grp).satf = (s.grp s.cur.grp).satf ∧ (t.grp s.cur.grp).fpst = (s.grp s.cur.grp).fpst
    (∀ p ∈ plainWords f, LaneFree s p.2.1 f → Answers (exec p.1 s) (fun t =>
      LaneWrote s t f f.vd (fun l => ⟨p.2.2.2 (elem s f.va l).val (elem s f.vb l).val,
        poisonOf p.2.2.1 (elem s f.va l) (elem s f.vb l) (elem s f.vb l)⟩) ∧ flags t)) ∧
    (LaneFree s .vid f → Answers (exec (.vid f) s) (fun t => LaneWrote s t f f.vd (fun l => ⟨BitVec.ofNat 32 l, false⟩) ∧ flags t)) ∧
    (LaneFree s .vbcast f → Answers (exec (.vbcast f) s) (fun t =>
      LaneWrote s t f f.vd (fun _ => ⟨(laneScalar s f.va).val.setWidth 32, (laneScalar s f.va).poison⟩) ∧ flags t)) ∧
    (LaneFree s .vbcastImm f → Answers (exec (.vbcastImm f) s) (fun t => LaneWrote s t f f.vd (fun _ => ⟨f.imm, false⟩) ∧ flags t))

/-- R56, R256, R258, R260, R262, R264: the integer lane words write the acting lanes. -/
def Obligations.IntegerLaneWords : Prop :=
  Claims.SaturatingLaneWords ∧ Claims.PlainLaneWords

/-- R261, R262: VSHRR rounds its shifted value, a tie toward +∞, and with .n16 holds it to 16 bits, setting SATF where that
changes it; VBFX takes the field of b[12:8] + 1 bits at b[4:0], extended by its top bit or by zeros. -/
def Obligations.ShiftRoundAndBitField : Prop :=
  ∀ (f : LaneFields) (s : State),
    (LaneFree s .vshrr f → Answers (exec (.vshrr f) s) (fun t =>
      let r (l : Nat) : Int :=
        let sh := (elem s f.vb l).val.toNat % 32
        ((elem s f.va l).val.toInt + (if sh = 0 then 0 else 2 ^ (sh - 1))) / 2 ^ sh
      let n16 (x : Int) : Int := if x < -32768 then -32768 else if 32767 < x then 32767 else x
      LaneWrote s t f f.vd (fun l => ⟨BitVec.ofInt 32 (if f.xmod.getLsbD 0 then n16 (r l) else r l),
        (elem s f.va l).poison || (elem s f.vb l).poison⟩) ∧
      ∀ l, l < 96 → (t.grp s.cur.grp).satf.getLsbD l =
        ((s.grp s.cur.grp).satf.getLsbD l || (acts s f l && f.xmod.getLsbD 0 && decide (n16 (r l) ≠ r l))))) ∧
    (LaneFree s .vbfx f → Answers (exec (.vbfx f) s) (fun t =>
      ∃ res, LaneWrote s t f f.vd res ∧ ∀ l, l < 96 →
        let a := (elem s f.va l).val
        let pos := (elem s f.vb l).val.toNat % 32
        let len := (elem s f.vb l).val.toNat / 256 % 32 + 1
        let bit (i : Nat) : Bool := if i < 32 then a.getLsbD i else f.xmod.getLsbD 0 && a.getLsbD 31
        (res l).poison = ((elem s f.va l).poison || (elem s f.vb l).poison) ∧
        ∀ i, i < 32 → (res l).val.getLsbD i = (if i < len then bit (pos + i) else f.xmod.getLsbD 0 && bit (pos + len - 1))))

/-- R256, R258, R263: a compare writes its bit and the sources' poison in the acting lanes of pd; the floating-point compares
are false on a NaN, VFCMP.UN true, and raise IV for a signalling one, LT and LE for any. -/
def Sys2Proof.Claims.LaneCompares : Prop :=
  ∀ (f : LaneFields) (s : State),
    let pz (l : Nat) : Bool := (elem s f.va l).poison || (elem s f.vb l).poison
    let nan (l : Nat) : Bool := isNan fp32 (elem s f.va l).val.toNat || isNan fp32 (elem s f.vb l).val.toNat
    let snan (l : Nat) : Bool := isSnan fp32 (elem s f.va l).val.toNat || isSnan fp32 (elem s f.vb l).val.toNat
    let raised (t : State) (iv : Nat → Bool) : Prop := (t.grp s.cur.grp).fpst = (s.grp s.cur.grp).fpst |||
      (if (List.range 96).any (fun l => acts s f l && iv l) then flagIV else 0)
    (∀ p ∈ laneCompares f, LaneFree s p.2.1 f → Answers (exec p.1 s) (fun t =>
      PredWrote s t f (fun l => p.2.2 (elem s f.va l).val (elem s f.vb l).val) pz ∧ raised t (fun _ => false))) ∧
    (∀ p ∈ floatCompares f, LaneFree s p.2.1 f → Answers (exec p.1 s) (fun t =>
      PredWrote s t f (fun l => !nan l && p.2.2.1 (elem s f.va l).val.toNat (elem s f.vb l).val.toNat) pz ∧
        raised t (if p.2.2.2 then nan else snan))) ∧
    (LaneFree s .vfcmpUn f → Answers (exec (.vfcmpUn f) s) (fun t => PredWrote s t f nan pz ∧ raised t snan))

/-- R258, R263: PAND, POR, PXOR and PNOT write their bits in the acting lanes, poisoned with any source; VSEL takes va where pc is
true and vb where not, poisoned with the chosen source and the predicate bit. -/
def Sys2Proof.Claims.PredicateLogicAndSelect : Prop :=
  ∀ (f : LaneFields) (s : State),
    let a := (s.grp s.cur.grp).pred f.va.toNat
    let b := (s.grp s.cur.grp).pred f.vb.toNat
    let c := (s.grp s.cur.grp).pred f.vc.toNat
    let both (l : Nat) : Bool := a.poison.getLsbD l || b.poison.getLsbD l
    (∀ p ∈ [(Instr.pand f, LaneOp.pand, fun x y => x && y), (.por f, .por, fun x y => x || y), (.pxor f, .pxor, fun x y => xor x y)],
      LaneFree s p.2.1 f → Answers (exec p.1 s) (fun t =>
        PredWrote s t f (fun l => p.2.2 (a.bits.getLsbD l) (b.bits.getLsbD l)) both ∧ (t.grp s.cur.grp).fpst = (s.grp s.cur.grp).fpst)) ∧
    (LaneFree s .pnot f → Answers (exec (.pnot f) s) (fun t =>
      PredWrote s t f (fun l => !a.bits.getLsbD l) (fun l => a.poison.getLsbD l) ∧ (t.grp s.cur.grp).fpst = (s.grp s.cur.grp).fpst)) ∧
    (LaneFree s .vsel f → Answers (exec (.vsel f) s) (fun t =>
      LaneWrote s t f f.vd (fun l =>
        let x := if c.bits.getLsbD l then elem s f.va l else elem s f.vb l
        ⟨x.val, x.poison || c.poison.getLsbD l⟩) ∧
      (t.grp s.cur.grp).fpst = (s.grp s.cur.grp).fpst ∧ (t.grp s.cur.grp).satf = (s.grp s.cur.grp).satf))

/-- R256, R258, R263: lane compares write predicates; predicate words combine them; VSEL picks by one. -/
def Obligations.LaneComparesAndSelect : Prop :=
  Claims.LaneCompares ∧ Claims.PredicateLogicAndSelect

/-- R47, R258, R265–R267: a floating-point word writes, in each acting lane, its function of each element under RM, poisoned with
any source, and every flag an acting lane raised is set in FPST. -/
def Sys2Proof.Claims.FloatLaneWords : Prop :=
  ∀ (f : LaneFields) (s : State), ∀ p ∈ floatWords f, LaneFree s p.2.1 f →
    let r (l : Nat) : Nat × FpFlags := floatLane f p.2.2.2 (elem s f.va l).val (elem s f.vb l).val (elem s f.vc l).val
    Answers (exec p.1 s) (fun t =>
      LaneWrote s t f f.vd (fun l => ⟨BitVec.ofNat 32 (r l).1, poisonOf p.2.2.1 (elem s f.va l) (elem s f.vb l) (elem s f.vc l)⟩) ∧
      (t.grp s.cur.grp).fpst = ((List.range 96).filter (acts s f)).foldl (fun m l => m ||| (r l).2) (s.grp s.cur.grp).fpst ∧
      (t.grp s.cur.grp).satf = (s.grp s.cur.grp).satf)

/-- R268: VCVT converts one element of va and writes it as one element of vd; with INS the rest of vd stays, else it is zero. -/
def Sys2Proof.Claims.ConversionWritesOneElement : Prop :=
  ∀ (f : LaneFields) (s : State), LaneFree s .vcvt f → Answers (exec (.vcvt f) s) (fun t =>
    ∃ res, LaneWrote s t f f.vd res ∧ ∀ l, l < 96 →
      let sw := cvtBits (cvtSrc f)
      let dw := cvtBits (cvtDst f)
      let x := (elem s f.va l).val.toNat / 2 ^ (sw * cvtSrcEl f) % 2 ^ sw
      let old : Nat := if cvtIns f then (elem s f.vd l).val.toNat else 0
      (res l).poison = ((elem s f.va l).poison || (cvtIns f && (elem s f.vd l).poison)) ∧
      ∀ i, i < 32 → (res l).val.getLsbD i =
        (if dw * cvtDstEl f ≤ i ∧ i < dw * cvtDstEl f + dw
         then ((convert (cvtSrc f) (cvtDst f) f.rm.toNat f.sat x).1 % 2 ^ dw).testBit (i - dw * cvtDstEl f) else old.testBit i))

/-- R47, R258, R265–R268: the floating-point lane words round once; a conversion writes one element. -/
def Obligations.FloatLaneResults : Prop :=
  Claims.FloatLaneWords ∧ Claims.ConversionWritesOneElement

/-- R269: VRDI reads and VWRI writes the register its index reaches, in each acting lane; an index that reaches a register
outside the grant traps LANE, 6. -/
def Sys2Proof.Claims.IndirectRegisters : Prop :=
  ∀ (f : LaneFields) (s : State),
    let k := s.cur.grp
    let reach (base : BitVec 9) (l : Nat) : Nat := base.toNat + (elem s f.vb l).val.toNat
    (∀ l, l < 96 → acts s f l = true → (elem s f.vb l).poison = false) →
    (LaneFree s .vrdi f →
      ((∀ l, l < 96 → acts s f l = true → reach f.va l < (s.grp k).grant) →
        Answers (exec (.vrdi f) s) (fun t => LaneWrote s t f f.vd (fun l => (s.grp k).velt (reach f.va l) l))) ∧
      ((∃ l, l < 96 ∧ acts s f l = true ∧ (s.grp k).grant ≤ reach f.va l) → TrapsHere s →
        Answers (exec (.vrdi f) s) (fun t => TrapTaken s t .lane 6))) ∧
    (LaneFree s .vwri f →
      ((∀ l, l < 96 → acts s f l = true → reach f.vd l < (s.grp k).grant) →
        Answers (exec (.vwri f) s) (fun t => LaneFrame s t ∧ (t.grp k).p = (s.grp k).p ∧ (t.grp k).s = (s.grp k).s ∧
          (t.grp k).slot0 = (s.grp k).slot0 ∧ (t.grp k).slot1 = (s.grp k).slot1 ∧ ∀ r l, l < 96 →
          (t.grp k).velt r l = if r = reach f.vd l ∧ acts s f l = true then elem s f.va l else (s.grp k).velt r l)) ∧
      ((∃ l, l < 96 ∧ acts s f l = true ∧ (s.grp k).grant ≤ reach f.vd l) → TrapsHere s →
        Answers (exec (.vwri f) s) (fun t => TrapTaken s t .lane 6)))

/-- R65, R270, R271: VREDI writes the sum, the least, the greatest, or the and, or, xor of the acting lanes' elements to a scalar
register, VREDF their FP32 reduction in ascending lane order; poisoned with any of them; no lane register changes. -/
def Sys2Proof.Claims.Reductions : Prop :=
  ∀ (f : LaneFields) (s : State) (d : SIndex), d.toNat = f.vd.toNat →
    let k := s.cur.grp
    let xs := ((List.range 96).filter (acts s f)).map (fun l => elem s f.va l)
    let kept (t : State) : Prop := LaneFrame s t ∧ (t.grp k).v = (s.grp k).v ∧ (t.grp k).p = (s.grp k).p ∧ KeepsScalars s t d
    let u := f.xmod.getLsbD 3
    let is := xs.map (fun x => asInt u x.val)
    (LaneFree s .vredi f → Answers (exec (.vredi f) s) (fun t => kept t ∧
      (d ≠ 0 → (regAfter s t d).poison = xs.any (·.poison) ∧
        (f.xmod.toNat % 8 = 0 → (regAfter s t d).val = BitVec.ofInt 64 is.sum) ∧
        (f.xmod.toNat % 8 = 1 → xs ≠ [] → (∃ v ∈ is, (regAfter s t d).val = BitVec.ofInt 64 v ∧ ∀ w ∈ is, v ≤ w)) ∧
        (f.xmod.toNat % 8 = 2 → xs ≠ [] → (∃ v ∈ is, (regAfter s t d).val = BitVec.ofInt 64 v ∧ ∀ w ∈ is, w ≤ v)) ∧
        (f.xmod.toNat % 8 = 3 → (regAfter s t d).val = (xs.foldl (fun m (x : LElt) => m &&& x.val) 0xFFFFFFFF).setWidth 64) ∧
        (f.xmod.toNat % 8 = 4 → (regAfter s t d).val = (xs.foldl (fun m (x : LElt) => m ||| x.val) 0).setWidth 64) ∧
        (f.xmod.toNat % 8 = 5 → (regAfter s t d).val = (xs.foldl (fun m (x : LElt) => m ^^^ x.val) 0).setWidth 64)))) ∧
    (LaneFree s .vredf f → Answers (exec (.vredf f) s) (fun t => kept t ∧
      (d ≠ 0 → (regAfter s t d).poison = xs.any (·.poison) ∧
        (regAfter s t d).val = BitVec.ofNat 64 (reduceFp (f.xmod.toNat % 4) (xs.map (·.val))).1)))

/-- R65, R269–R271: registers named by a lane value; reductions over the acting lanes. -/
def Obligations.IndirectAndReductions : Prop :=
  Claims.IndirectRegisters ∧ Claims.Reductions

/-- R272–R274: VPERM takes, in each acting lane, the element of the lane its pattern byte names, or zero; VSLIDE the element d
places on, and by FILL a zero, vb's element or the edge beyond the ends. -/
def Obligations.CrossbarWords : Prop :=
  ∀ (f : LaneFields) (s : State),
    let k := s.cur.grp
    let e := (s.core (s.coreOf k)).pattern (f.imm.toNat % 64)
    let per : Nat := if f.xmod.getLsbD 0 then 2 else 1
    let w : Nat := 32 / per
    let n : Int := 96 * (per : Int)
    let piece (r : BitVec 9) (x : Nat) : Nat := (elem s r (x / per)).val.toNat / 2 ^ (w * (x % per)) % 2 ^ w
    (LaneFree s .vperm f → e.poison = false → e.tag = s.asidOf k → Answers (exec (.vperm f) s) (fun t =>
      LaneWrote s t f f.vd (fun l =>
        let b := (e.bytes[l]?.getD 0).toNat
        if b < 96 then elem s f.va b else ⟨0, false⟩))) ∧
    (LaneFree s .vperm f → e.poison = false → e.tag ≠ s.asidOf k → TrapsHere s →
      Answers (exec (.vperm f) s) (fun t => TrapTaken s t .lane 1)) ∧
    (LaneFree s .vslide f → Answers (exec (.vslide f) s) (fun t =>
      ∃ res, LaneWrote s t f f.vd res ∧ ∀ l, l < 96 → ∀ h, h < per →
        let x : Int := (per * l + h : Nat) + f.imm.toInt
        let fill := f.xmod.toNat / 2 % 4
        let got := (res l).val.toNat / 2 ^ (w * h) % 2 ^ w
        (0 ≤ x ∧ x < n → got = piece f.va x.toNat) ∧
        (¬ (0 ≤ x ∧ x < n) → fill = 0 → got = 0) ∧
        (¬ (0 ≤ x ∧ x < n) → -n ≤ x ∧ x < 2 * n → fill = 1 → got = piece f.vb (if n ≤ x then x - n else x + n).toNat) ∧
        (¬ (0 ≤ x ∧ x < n) → fill = 2 → got = piece f.va (if n ≤ x then n - 1 else 0).toNat)))

/-- R63, R64, R277, R279, R282: ACT.EVAL writes its segment's a × x + b from the current bank; WVAL the window's weight, times its
BF16 scale with .sc; each traps where its bank or window is not this context's or not valid. -/
def Obligations.TableWords : Prop :=
  ∀ (f : LaneFields) (s : State),
    let k := s.cur.grp
    let b := (s.core (s.coreOf k)).curAct
    let win (l : Nat) : WElt := (s.grp k).win (f.va.toNat % 4) l
    (LaneFree s .actEval f → b.tag = s.asidOf k → Answers (exec (.actEval f) s) (fun t =>
      LaneWrote s t f f.vd (fun l =>
        let r := evalAct b f.rm.toNat (elem s f.va l).val.toNat
        ⟨BitVec.ofNat 32 r.1.1, (elem s f.va l).poison || actPoison b (elem s f.va l).val.toNat r.2⟩))) ∧
    (LaneFree s .actEval f → b.tag ≠ s.asidOf k → TrapsHere s → Answers (exec (.actEval f) s) (fun t => TrapTaken s t .lane 2)) ∧
    (LaneFree s .wval f → (∀ l, l < 96 → acts s f l = true → winValid (win l).val = true) → Answers (exec (.wval f) s) (fun t =>
      LaneWrote s t f f.vd (fun l =>
        let x := (win l).val
        let g := rateG (winRate x)
        let j := winK x % g
        let y := (winBits x * 0x9E37 + j * 0x6A09 + winSeed x) % 2 ^ 16
        let v : Int := ((y % 16 + y / 16 % 16 + y / 256 % 16 + y / 4096 % 16 : Nat) : Int) - 30
        if f.xmod.getLsbD 0
        then ⟨BitVec.ofNat 32 (scaledWeight v ((elem s f.vb l).val.toNat % 2 ^ 16)), (win l).poison || (elem s f.vb l).poison⟩
        else ⟨BitVec.ofInt 32 v, (win l).poison⟩))) ∧
    (LaneFree s .wval f → (∃ l, l < 96 ∧ acts s f l = true ∧ winValid (win l).val = false) → TrapsHere s →
      Answers (exec (.wval f) s) (fun t => TrapTaken s t .lane 4))

/-- R218–R220: a legal paired word does what its two words would, each reading what stood before either wrote: a register, a
predicate bit takes what the half that writes it writes, and both halves' flags are set. -/
def Obligations.PairedLaneWord : Prop :=
  ∀ (u l : PairHalf) (s : State), halvesCheck u l = none → pairCheck u l = none → LaneFree s u.op (halfFields u) →
    LaneFree s l.op (halfFields l) →
    ((u.op = .actEval ∨ l.op = .actEval) → (s.core (s.coreOf s.cur.grp)).curAct.tag = s.asidOf s.cur.grp) →
    Answers (exec (.pairedLaneWord u l) s) (fun t => ∃ tu tl, exec (laneInstr u.op (halfFields u)) s = .next tu ∧
      exec (laneInstr l.op (halfFields l)) s = .next tl ∧
      let k := s.cur.grp
      let one {α : Type} [DecidableEq α] (old x y : α) : α := if x = old then y else x
      LaneFrame s t ∧ (t.grp k).s = (s.grp k).s ∧ (t.grp k).slot0 = (s.grp k).slot0 ∧ (t.grp k).slot1 = (s.grp k).slot1 ∧
      (∀ r x, x < 96 → (t.grp k).velt r x = one ((s.grp k).velt r x) ((tu.grp k).velt r x) ((tl.grp k).velt r x)) ∧
      (∀ q x, x < 96 →
        ((t.grp k).pred q).bits.getLsbD x = one (((s.grp k).pred q).bits.getLsbD x) (((tu.grp k).pred q).bits.getLsbD x)
          (((tl.grp k).pred q).bits.getLsbD x) ∧
        ((t.grp k).pred q).poison.getLsbD x = one (((s.grp k).pred q).poison.getLsbD x) (((tu.grp k).pred q).poison.getLsbD x)
          (((tl.grp k).pred q).poison.getLsbD x)) ∧
      (t.grp k).fpst = (tu.grp k).fpst ||| (tl.grp k).fpst ∧ (t.grp k).satf = (tu.grp k).satf ||| (tl.grp k).satf)

namespace Sys2Proof.Claims

/-! ## Lane words on memory (R272, R275, R280, R290–R300, R308–R313) -/

/-- The word belongs to a lane block, and no ACQ or FENCE that came before the block's LX is open (R32, R147, R159, R163). -/
def InBlock (s : State) (fenced : Bool) : Prop := s.cur.blk ≠ 0 ∧ laneHeld (s.grp s.cur.grp) s.cur.blk fenced = false

/-- A lane word of a counter class acts and meets no hold; its counter is below 63 (R113, R174). -/
def LaneGoes (s : State) (op : LaneOp) (f : LaneFields) (cls : CtrClass) (fenced : Bool) : Prop :=
  LaneFree s op f ∧ (∃ l, l < 96 ∧ acts s f l = true) ∧ InBlock s fenced ∧
    (s.grp s.cur.grp).count cls < 63

/-- What every such word does: its counter rises by one; the scalar registers, the slots and the other groups stay. -/
def LaneCounted (s t : State) (cls : CtrClass) : Prop :=
  let g := s.grp s.cur.grp
  let h := t.grp s.cur.grp
  h.count cls = g.count cls + 1 ∧ (∀ c, c ≠ cls → h.count c = g.count c) ∧ h.s = g.s ∧ h.slot0 = g.slot0 ∧ h.slot1 = g.slot1 ∧
    h.p = g.p ∧ h.fpst = g.fpst ∧ h.satf = g.satf ∧ h.c = g.c ∧ h.w = g.w ∧ OtherGroups s t ∧ t.teams = s.teams

/-- It leaves the lane queue. -/
def LaneTaken (s t : State) : Prop := (t.grp s.cur.grp).laneq = queueAfter (s.grp s.cur.grp).laneq

/-- Lanes that act. -/
def actCount (s : State) (f : LaneFields) : Nat := ((List.range 96).filter (acts s f)).length

/-- The lanes' addresses (R290, R292) and the elements they are made of. -/
def laneAddress (s : State) (f : LaneFields) (strided : Bool) (disp : Word) (l : Nat) : Nat :=
  if strided then stridePlace (laneScalar s f.va).val l f else lanePlace (laneScalar s f.va).val (elem s f.vb l).val f disp

def cleanAddress (s : State) (f : LaneFields) (strided : Bool) : Prop :=
  (laneScalar s f.va).poison = false ∧ (strided = false → ∀ l, l < 96 → acts s f l = true → (elem s f.vb l).poison = false)

/-- Strided, remote. -/
def laneLoads (f : LaneFields) : List (Instr × LaneOp × Bool × Bool) :=
  [(.vld f, .vld, false, false), (.vlds f, .vlds, true, false), (.vrld f, .vrld, false, true)]
def laneStores (f : LaneFields) : List (Instr × LaneOp × Bool × Bool) :=
  [(.vst f, .vst, false, false), (.vsts f, .vsts, true, false), (.vrst f, .vrst, false, true)]

/-- The value of n bytes extended to 32 bits, or 64 for a dword. -/
def laneExtended (sz : Nat) (sext : Bool) (bs : List PByte) : DWord :=
  if sext then (BitVec.ofNat (8 * 2 ^ sz) (pvalue bs)).signExtend 64 else BitVec.ofNat 64 (pvalue bs)

/-- An acting lane's result of 2^sz bytes at register vd, or the pair from it; every other element as before. -/
def LanesLoaded (s t : State) (f : LaneFields) (sz : Nat) (res : Nat → DWord) (poison : Nat → Bool) : Prop :=
  ∀ r l, l < 96 → (t.grp s.cur.grp).velt r l =
    if acts s f l = true ∧ r = f.vd.toNat then ⟨(res l).extractLsb' 0 32, poison l⟩
    else if acts s f l = true ∧ sz = 3 ∧ r = f.vd.toNat + 1 then ⟨(res l).extractLsb' 32 32, poison l⟩
    else (s.grp s.cur.grp).velt r l

/-- Nothing but vd, and the register after it for a dword, may have changed. -/
def OnlyLanes (s t : State) (f : LaneFields) (sz : Nat) : Prop :=
  ∀ r l, l < 96 → (acts s f l = false ∨ (r ≠ f.vd.toNat ∧ (sz = 3 → r ≠ f.vd.toNat + 1))) →
    (t.grp s.cur.grp).velt r l = (s.grp s.cur.grp).velt r l

/-- Byte i of a lane's value of n bytes; a pair is poisoned with either of its elements (R286). -/
def laneByte (s : State) (n : Nat) (r : BitVec 9) (l i : Nat) : PByte :=
  ⟨((s.grp s.cur.grp).velt (r.toNat + i / 4) l).val.extractLsb' (8 * (i % 4)) 8,
    (elem s r l).poison || (decide (n = 8) && ((s.grp s.cur.grp).velt (r.toNat + 1) l).poison)⟩

end Sys2Proof.Claims

/-- R148, R290–R293: a lane load that may go raises LD once and leaves the queue, wherever it reads; memory reads as before. From own
scratch each acting lane has its value at once, extended, with its poison; from linear space every byte it misses is to be fetched;
to a cluster window a request goes for each block. A place an instruction may not reach traps MEM. -/
def Obligations.LaneLoads : Prop :=
  ∀ (f : LaneFields) (s : State), ∀ p ∈ laneLoads f, LaneGoes s p.2.1 f .ld true → NewName s → cleanAddress s f p.2.2.1 →
    let k := s.cur.grp
    let tm := (s.grp k).team
    let sz := f.xmod.toNat % 4
    let n := 2 ^ sz
    let addr (l : Nat) : Nat := laneAddress s f p.2.2.1 f.imm l
    let place (l : Nat) : Except Nat Loc := locate s tm (regionsOf p.2.2.2) (addr l) n
    let common (t : State) : Prop := LaneCounted s t .ld ∧ LaneTaken s t ∧ SameBytes s t ∧ OnlyLanes s t f sz
    (∀ x : Nat → Nat, (∀ l, l < 96 → acts s f l = true → place l = .ok (.own (x l))) → Answers (exec p.1 s) (fun t => common t ∧
      LanesLoaded s t f sz (fun l => laneExtended sz (f.xmod.getLsbD 2) (scratchRead s tm (x l) n))
        (fun l => ppoison (scratchRead s tm (x l) n)))) ∧
    (∀ x : Nat → Nat, (∀ l, l < 96 → acts s f l = true → place l = .ok (.lin (x l))) → 2 * actCount s f ≤ mshrFree s (s.coreOf k) →
      Answers (exec p.1 s) (fun t => common t ∧ ∀ l i, l < 96 → acts s f l = true → i < n →
        fifoByte (s.grp k) (s.asidOf k) (x l + i) = none → l1Byte s (s.coreOf k) (s.asidOf k) (x l + i) = none →
          ∃ q ∈ (t.grp k).fetches, q.op = s.nextId ∧ q.line = (x l + i) / 128)) ∧
    (∀ m x : Nat → Nat, (∀ l, l < 96 → acts s f l = true → place l = .ok (.win (m l) (x l)) ∧ x l + n ≤ 2 ^ 20) →
      2 * actCount s f ≤ mshrFree s (s.coreOf k) → Answers (exec p.1 s) (fun t => common t ∧
        ∀ l i, l < 96 → acts s f l = true → i < n →
          ∃ r ∈ t.remotes, r.op = s.nextId ∧ r.grp = k ∧ r.member = m l ∧ r.block = (x l + i) / 128)) ∧
    (∀ l sub, l < 96 → acts s f l = true → place l = .error sub → (∀ j, j < 96 → acts s f j = true → ∀ b, place j = .error b → sub ≤ b) →
      TrapsHere s → Answers (exec p.1 s) (fun t => TrapTaken s t .mem sub))

/-- R148, R286, R287, R290–R293: a lane store that may go raises ST once and leaves the queue. Its bytes join the group's FIFO, or are
in own scratch at once, the highest acting lane supplying a byte that several store; or a request goes for each block of another
member's scratch. Every other byte reads as before. -/
def Obligations.LaneStores : Prop :=
  ∀ (f : LaneFields) (s : State), ∀ p ∈ laneStores f, LaneGoes s p.2.1 f .st true → cleanAddress s f p.2.2.1 →
    let k := s.cur.grp
    let tm := (s.grp k).team
    let n := 2 ^ (f.xmod.toNat % 4)
    let addr (l : Nat) : Nat := laneAddress s f p.2.2.1 f.imm l
    let place (l : Nat) : Except Nat Loc := locate s tm (regionsOf p.2.2.2) (addr l) n
    let common (t : State) : Prop := LaneCounted s t .st ∧ LaneTaken s t ∧ (t.grp k).v = (s.grp k).v
    (∀ x : Nat → Nat, (∀ l, l < 96 → acts s f l = true → place l = .ok (.lin (x l))) → 2 * actCount s f ≤ fifoFree s k → Answers (exec p.1 s) (fun t => common t ∧
      SameMemory s t ∧
      (∀ l i, l < 96 → acts s f l = true → i < n →
        (∀ j, l < j → j < 96 → acts s f j = true → x l + i < x j ∨ x j + n ≤ x l + i) →
        fifoByte (t.grp k) (s.asidOf k) (x l + i) = some (laneByte s n f.vd l i)) ∧
      (∀ b, (∀ l, l < 96 → acts s f l = true → b < x l ∨ x l + n ≤ b) →
        fifoByte (t.grp k) (s.asidOf k) b = fifoByte (s.grp k) (s.asidOf k) b))) ∧
    (∀ x : Nat → Nat, (∀ l, l < 96 → acts s f l = true → place l = .ok (.own (x l))) → Answers (exec p.1 s) (fun t => common t ∧
      let team := s.team tm
      let cell (u : State) (key : Nat) : Byte := AMap.get 0 (u.core team.core).scratch key
      (∀ l i, l < 96 → acts s f l = true → i < n →
        (∀ j z, j < 96 → acts s f j = true → z < n → scratchKey team (x j + z) = scratchKey team (x l + i) → x j + z = x l + i ∧ j ≤ l) →
        cell t (scratchKey team (x l + i)) = (laneByte s n f.vd l i).val) ∧
      (∀ key, (∀ l i, l < 96 → acts s f l = true → i < n → key ≠ scratchKey team (x l + i)) → cell t key = cell s key) ∧
      (∀ c, c ≠ team.core → t.core c = s.core c) ∧ (t.grp k).fifo = (s.grp k).fifo ∧ t.hbm = s.hbm ∧ t.l2 = s.l2)) ∧
    (∀ m x : Nat → Nat, (∀ l, l < 96 → acts s f l = true → place l = .ok (.win (m l) (x l)) ∧ x l + n ≤ 2 ^ 20) →
      2 * actCount s f ≤ mshrFree s (s.coreOf k) → Answers (exec p.1 s) (fun t => common t ∧ SameMemory s { t with fabric := s.fabric } ∧ ∀ l i, l < 96 → acts s f l = true → i < n →
        ∃ r ∈ t.remotes, r.op = s.nextId ∧ r.grp = k ∧ r.member = m l ∧ r.block = (x l + i) / 128)) ∧
    (∀ l sub, l < 96 → acts s f l = true → place l = .error sub → (∀ j, j < 96 → acts s f j = true → ∀ b, place j = .error b → sub ≤ b) →
      TrapsHere s → Answers (exec p.1 s) (fun t => TrapTaken s t .mem sub))

/-- R148, R168, R296: a VATOM that may go raises LD once. In own scratch, where no two acting lanes meet, each lane's vd takes the old
value and memory the row's; in linear space a request goes for each acting lane. -/
def Obligations.LaneAtomics : Prop :=
  ∀ (f : LaneFields) (s : State), LaneGoes s .vatom f .ld true → NewName s → cleanAddress s f false →
    let k := s.cur.grp
    let tm := (s.grp k).team
    let team := s.team tm
    let sz := f.xmod.toNat % 4
    let n := 2 ^ sz
    let addr (l : Nat) : Nat := laneAddress s f false 0 l
    let operand (r : BitVec 9) (l : Nat) : DWord :=
      if sz = 3 then ((s.grp k).velt (r.toNat + 1) l).val ++ (elem s r l).val else (elem s r l).val.setWidth 64
    (∀ l, l < 96 → acts s f l = true → (laneByte s n f.vc l 0).poison = false ∧ (atomOpOf f = 2 → (laneByte s n f.vd l 0).poison = false)) →
    (∀ l, l < 96 → acts s f l = true → addr l % n = 0) →
    (∀ x : Nat → Nat, (∀ l, l < 96 → acts s f l = true → locate s tm ⟨true, true, false⟩ (addr l) n = .ok (.own (x l)) ∧
        ppoison (scratchRead s tm (x l) n) = false ∧
        ∀ j z i, j < 96 → acts s f j = true → z < n → i < n → scratchKey team (x j + z) = scratchKey team (x l + i) → j = l ∧ z = i) →
      Answers (exec (.vatom f) s) (fun t => LaneCounted s t .ld ∧ LaneTaken s t ∧
        LanesLoaded s t f sz (fun l => BitVec.ofNat 64 (pvalue (scratchRead s tm (x l) n))) (fun _ => false) ∧
        (∀ l, l < 96 → acts s f l = true → ∀ i, i < n → AMap.get 0 (t.core team.core).scratch (scratchKey team (x l + i)) =
          (atomicValue (atomOpOf f) n (BitVec.ofNat 64 (pvalue (scratchRead s tm (x l) n))) (operand f.vc l) (operand f.vd l)).extractLsb'
            (8 * i) 8) ∧
        (∀ key, (∀ l i, l < 96 → acts s f l = true → i < n → key ≠ scratchKey team (x l + i)) →
          AMap.get 0 (t.core team.core).scratch key = AMap.get 0 (s.core team.core).scratch key) ∧ t.hbm = s.hbm ∧ t.l2 = s.l2)) ∧
    (∀ x : Nat → Nat, (∀ l, l < 96 → acts s f l = true → locate s tm ⟨true, true, false⟩ (addr l) n = .ok (.lin (x l))) →
      actCount s f ≤ mshrFree s (s.coreOf k) → Answers (exec (.vatom f) s) (fun t => (t.grp k).count .ld = (s.grp k).count .ld + 1 ∧
        LaneTaken s t ∧ (t.grp k).v = (s.grp k).v ∧ t.hbm = s.hbm ∧ t.l2 = s.l2 ∧
        ∀ l, l < 96 → acts s f l = true → ∃ q ∈ (t.grp k).fetches, q.op = s.nextId ∧ q.line = x l / 128))

/-- R272, R276, R280: VPTLD, ACT.LD, WLD and WADV raise LD and load into their pattern entry, activation image or windows; ACT.SWAP
raises LD and joins the core's table unit. A window word checks the bytes each lane fetches, and WADV fetches none for a lane that stays in
its group of weights. No table, window or memory changes as they issue. -/
def Obligations.TableLoads : Prop :=
  ∀ (f : LaneFields) (s : State),
    let k := s.cur.grp
    let tm := (s.grp k).team
    let c := s.coreOf k
    let a := laneScalar s f.va
    let quiet (t : State) : Prop := LaneCounted s t .ld ∧ LaneTaken s t ∧ SameBytes s t ∧ (t.grp k).v = (s.grp k).v ∧
      (t.core c).patterns = (s.core c).patterns ∧ (t.core c).act0 = (s.core c).act0 ∧ (t.core c).act1 = (s.core c).act1 ∧
      (t.core c).actCur = (s.core c).actCur
    let loading (t : State) (d : LoadDest) : Prop := ∃ x ∈ (t.grp k).loads, x.op = s.nextId ∧ x.dest = d
    NewName s →
    (∀ loc, LaneGoes s .vptld f .ld true → a.poison = false → a.val.toNat % 32 = 0 →
      locate s tm (regionsOf false) a.val.toNat 96 = .ok loc → 3 ≤ mshrFree s c →
        Answers (exec (.vptld f) s) (fun t => quiet t ∧ loading t (.pattern (f.imm.toNat % 64)) ∧ (t.core c).actReqs = (s.core c).actReqs)) ∧
    (∀ loc, LaneGoes s .actLd f .ld true → a.poison = false → a.val.toNat % 16 = 0 →
      locate s tm (regionsOf false) a.val.toNat 2064 = .ok loc → 66 ≤ mshrFree s c →
        Answers (exec (.actLd f) s) (fun t => quiet t ∧ loading t (.actBank 0) ∧
          (t.core c).actReqs = (s.core c).actReqs ++ [(k, s.nextId, none)])) ∧
    (LaneGoes s .vptld f .ld true → a.poison = false → a.val.toNat % 32 ≠ 0 → TrapsHere s →
      Answers (exec (.vptld f) s) (fun t => TrapTaken s t .lane 3)) ∧
    (LaneGoes s .actSwap f .ld true → Answers (exec (.actSwap f) s) (fun t => quiet t ∧
      (t.core c).actReqs = (s.core c).actReqs ++ [(k, s.nextId, some (f.vd.setWidth 6))])) ∧
    (∀ w, parseStream (laneScalar s f.vc).val = some w → (laneScalar s f.vb).poison = false → (laneScalar s f.vc).poison = false →
      3 * actCount s f ≤ mshrFree s c →
      let there (i : Nat) : Prop := ∀ r ∈ numberRuns (winBytes w i).1,
        ∃ x, locate s tm (regionsOf false) (streamAddr (laneScalar s f.vb).val r.1) r.2 = .ok x
      (LaneGoes s .wld f .ld true →
        (∀ l, l < 96 → acts s f l = true → (elem s f.va l).poison = false ∧ (elem s f.va l).val.toNat < w.nw ∧
          there (elem s f.va l).val.toNat) →
          Answers (exec (.wld f) s) (fun t => quiet t ∧ loading t (.window (f.vd.toNat % 4)))) ∧
      (LaneGoes s .wadv f .ld true →
        (∀ l, l < 96 → acts s f l = true → let x := ((s.grp k).win (f.vd.toNat % 4) l).val
          let i := (winK x + 1) % w.nw
          winValid x = true ∧ winRate x = w.rate ∧ winSeed x = w.seed ∧ (i / rateG w.rate ≠ winK x / rateG w.rate → there i)) →
          Answers (exec (.wadv f) s) (fun t => quiet t ∧ loading t (.window (f.vd.toNat % 4))))) ∧
    (LaneGoes s .wadv f .ld true → (laneScalar s f.vb).poison = false → (laneScalar s f.vc).poison = false →
      parseStream (laneScalar s f.vc).val = none → TrapsHere s → Answers (exec (.wadv f) s) (fun t => TrapTaken s t .lane 4))

namespace Sys2Proof.Claims

/-- The barrier and the sync word a copy names are fit for it (R180, R285). -/
def CopyFit (s : State) (f : LaneFields) : Prop :=
  let k := s.cur.grp
  let y := readS s k s.cur.second (immSreg f).toNat
  ((immRel f || immAcq f) = true → y.poison = false ∧ ∃ l, syncPlace s k (immScope f) y.val.toNat = .ok l) ∧
    (immBe f = true → ((s.teamOf k).bar (immBar f)).state ≠ .unarmed)

end Sys2Proof.Claims

/-- R172, R298–R300: VCP, VCPC and CPY raise CP, leave the queue and join the group's copies with the bytes they are to move; no byte of
memory and no register changes as they issue. A CPY of more than 2^20 bytes, or whose ranges overlap, traps. -/
def Sys2Proof.Claims.CopyWords : Prop :=
  ∀ (f : LaneFields) (s : State),
    let k := s.cur.grp
    let tm := (s.grp k).team
    let n := 4 * 2 ^ (f.xmod.toNat % 4)
    let b := (laneScalar s f.vb)
    let c := (laneScalar s f.vc)
    let src (l : Nat) : Nat := lanePlace c.val (elem s f.va l).val f 0
    let dst (l : Nat) : Nat := lanePlace b.val (elem s f.vd l).val f 0
    let lanes := (List.range 96).filter (acts s f)
    let joins (t : State) (ps : List (Nat × Nat × Nat × Nat)) (commit : Option (SIndex × Nat × DWord)) : Prop :=
      LaneCounted s t .cp ∧ LaneTaken s t ∧ SameMemory s t ∧ (t.grp k).v = (s.grp k).v ∧
        ∃ y, (t.grp k).copies = (s.grp k).copies ++ [y] ∧ y.op = s.nextId ∧ y.pieces = ps ∧ y.data = none ∧ y.commit = commit ∧
          y.acq = immAcq f ∧ y.rel = immRel f ∧ y.bar = if immBe f then some (immBar f) else none
    CopyFit s f → b.poison = false → c.poison = false →
    (LaneGoes s .vcp f .cp false →
      (∀ l, l < 96 → acts s f l = true → (elem s f.va l).poison = false ∧ (elem s f.vd l).poison = false ∧
        (∃ x, locate s tm ⟨true, true, true⟩ (src l) n = .ok x) ∧ ∃ x, locate s tm ⟨true, true, true⟩ (dst l) n = .ok x) →
      Answers (exec (.vcp f) s) (fun t => joins t (lanes.map (fun l => (l, src l, dst l, n))) none)) ∧
    (LaneGoes s .vcpc f .cp false → (readS s k s.cur.second (immSreg f).toNat).poison = false → b.val.toNat % 128 = 0 →
      (∃ x, locate s tm ⟨false, true, false⟩ b.val.toNat 8 = .ok x) →
      (∀ l, l < 96 → acts s f l = true → (elem s f.va l).poison = false ∧
        (∃ x, locate s tm ⟨true, true, true⟩ (src l) n = .ok x) ∧
        ∃ x, locate s tm ⟨false, true, false⟩ (b.val.toNat + 128 + n * l) n = .ok x) →
      Answers (exec (.vcpc f) s) (fun t => joins t (lanes.map (fun l => (l, src l, b.val.toNat + 128 + n * l, n)))
        (some (f.vd.setWidth 6, b.val.toNat, (readS s k s.cur.second (immSreg f).toNat).val)))) ∧
    (LaneGoes s .cpy f .cp false → (laneScalar s f.va).poison = false →
      let len := (laneScalar s f.va).val.toNat
      let d := b.val.toNat
      let r := c.val.toNat
      let own (a : Nat) : Nat := normalAddr s k a
      let placed : Prop := (∃ x, locate s tm ⟨true, true, true⟩ r len = .ok x) ∧ ∃ x, locate s tm ⟨true, true, true⟩ d len = .ok x
      (len = 0 → Answers (exec (.cpy f) s) (fun t => joins t [] none)) ∧
      (0 < len → len ≤ 2 ^ 20 → placed → (own r + len ≤ own d ∨ own d + len ≤ own r) →
        Answers (exec (.cpy f) s) (fun t => joins t [(0, r, d, len)] none)) ∧
      (2 ^ 20 < len → placed → (own r + len ≤ own d ∨ own d + len ≤ own r) → TrapsHere s →
        Answers (exec (.cpy f) s) (fun t => TrapTaken s t .mem 9)) ∧
      (0 < len → len ≤ 2 ^ 20 → placed → own r < own d + len → own d < own r + len → TrapsHere s →
        Answers (exec (.cpy f) s) (fun t => TrapTaken s t .mem 10)))

/-- R308, R310–R313: XSHFL raises LD and offers the register of its acting lanes to the group its word names; its word stays until it is
answered. QPUSH raises ST and QPOP LD, and a request goes to the queue's array; a blocking word stays, an .nb one leaves the queue. -/
def Sys2Proof.Claims.ExchangeWords : Prop :=
  ∀ (f : LaneFields) (s : State),
    let k := s.cur.grp
    let g := s.grp k
    let w := laneScalar s f.vb
    (LaneFree s .xshfl f → InBlock s true → g.count .ld < 63 → w.poison = false → partnerOk s k w.val = true →
      (∀ y ∈ s.offers, y.partner ≠ teamGrp s k) → NewName s → Answers (exec (.xshfl f) s) (fun t =>
        LaneCounted s t .ld ∧ SameMemory s { t with fabric := s.fabric } ∧ (t.grp k).v = g.v ∧ (t.grp k).laneq = g.laneq ∧ (t.grp k).laneStall = some s.nextId ∧
        ∃ x, t.offers = s.offers ++ [x] ∧ x.op = s.nextId ∧ x.grp = k ∧ x.vd = f.vd.toNat ∧ x.place = 0 ∧
          x.partner = (w.val.toNat % 2 ^ 24, w.val.toNat / 2 ^ 24 % 16) ∧ x.tag = w.val.toNat / 2 ^ 28 % 256 ∧
          (∀ l, l < 96 → x.act.getLsbD l = acts s f l ∧ x.vals[l]? = some (elem s f.va l)))) ∧
    (LaneFree s .xshfl f → InBlock s true → g.count .ld < 63 → w.poison = false → partnerOk s k w.val = false →
      TrapsHere s → Answers (exec (.xshfl f) s) (fun t => TrapTaken s t .mem 13)) ∧
    (∀ m o, locate s g.team ⟨false, false, true⟩ w.val.toNat 16 = .ok (.win m o) → w.val.toNat % 16 = 0 → w.poison = false →
      f.xmod.getLsbD 1 = false → 1 ≤ mshrFree s (s.coreOf k) →
      ∀ p ∈ [(Instr.qpush f, LaneOp.qpush, CtrClass.st, true), (.qpop f, .qpop, .ld, false)], LaneGoes s p.2.1 f p.2.2.1 true →
        Answers (exec p.1 s) (fun t => LaneCounted s t p.2.2.1 ∧ SameMemory s { t with fabric := s.fabric } ∧ (t.grp k).v = g.v ∧
          (t.grp k).laneq = (if f.xmod.getLsbD 0 then queueAfter g.laneq else g.laneq) ∧
          (t.grp k).laneStall = (if f.xmod.getLsbD 0 then g.laneStall else some s.nextId) ∧
          (∃ q, t.queueOps = s.queueOps ++ [q] ∧ q.op = s.nextId ∧ q.grp = k ∧ q.push = p.2.2.2 ∧ q.nb = f.xmod.getLsbD 0 ∧ q.left = 1) ∧
          ∃ r, t.remotes = s.remotes ++ [r] ∧ r.op = s.nextId ∧ r.grp = k ∧ r.member = m ∧ r.block = o / 128))

/-- R172, R298–R300, R308, R310–R313: copies, shuffles and queue words as they issue. -/
def Obligations.CopyAndExchangeWords : Prop :=
  Claims.CopyWords ∧ Claims.ExchangeWords

namespace Sys2Proof.Claims

/-! ## Engine words and graph words as they issue (R314–R355) -/

/-- An engine word acts, and meets no hold: no ACQ of its slot open, fewer than four commands queued, EN below 63 (R159, R314). -/
def EngineGoes (s : State) (op : LaneOp) (f : LaneFields) : Prop :=
  LaneGoes s op f .en false ∧ (s.grp s.cur.grp).engq.length < 4

/-- The command joined the group's queue with its operands; the word left the lane queue; nothing in memory or the tiles changed. -/
def Queued (s t : State) (f : LaneFields) (v1 v2 v3 : DWord) : Prop :=
  let k := s.cur.grp
  LaneCounted s t .en ∧ LaneTaken s t ∧ SameMemory s t ∧ (t.grp k).v = (s.grp k).v ∧
    ∃ c, (t.grp k).engq = (s.grp k).engq ++ [c] ∧ c.op = s.nextId ∧ c.word = s.cur.word ∧ c.opv1 = v1 ∧ c.opv2 = v2 ∧ c.opv3 = v3 ∧
      c.step = 0 ∧ c.started = false ∧ c.finished = false ∧ ∀ l, l < 96 → c.act.getLsbD l = acts s f l

/-- No group of the team holds a shadow bank of one of these tiles, but the issuing group where `mine` (R327, R330). -/
def Unshadowed (s : State) (mine : Bool) (ts : List Nat) : Prop :=
  ∀ b ∈ [16, 17, 18, 19], ∀ j t, ((s.core (s.coreOf s.cur.grp)).bank b).owner = some (j, t) → t ∈ ts →
    (s.grp j).team = (s.grp s.cur.grp).team → mine = true ∧ j = s.cur.grp

/-- R320, R322: the dense words and the bytes of a column. -/
def denseWords (f : LaneFields) : List (Instr × LaneOp × Nat) :=
  [(.tmmaE4m3 f, .tmmaE4m3, 64), (.tmmaE5m2 f, .tmmaE5m2, 64), (.tmmaI8 f, .tmmaI8, 64), (.tmmaBf16 f, .tmmaBf16, 128),
   (.tmmaF16 f, .tmmaF16, 128), (.tmmaE2m1 f, .tmmaE2m1, 48)]

/-- R326: the trellis words and their columns. -/
def trellisWords (f : LaneFields) : List (Instr × LaneOp × Nat) :=
  [(.tmmaT16 f, .tmmaT16, 16), (.tmmaT32 f, .tmmaT32, 32), (.tmmaT64 f, .tmmaT64, 64)]

/-- What SPEC asks: the kernel may speculate, and every tile can have a bank (R327). -/
def SpecFit (s : State) (f : LaneFields) (ts : List Nat) : Prop :=
  Unshadowed s (f.xmod.getLsbD 0) ts ∧
    (f.xmod.getLsbD 0 = true → (s.kernelOf s.cur.grp).spec = true ∧ (claimBanks s s.cur.grp ts).isSome = true)

end Sys2Proof.Claims

/-- R314, R317, R320, R324, R326, R328: TMMA, TZERO, TRES, TLD and TST pass their checks and are queued (TLD and TST raise TL) with the
registers they read; a tile or a column beyond the team's traps TILE, 1, and a column count that is no multiple of 16 in 16–512 TILE, 2. -/
def Sys2Proof.Claims.TileWords : Prop :=
  ∀ (f : LaneFields) (s : State),
    let k := s.cur.grp
    let tiles := (s.teamOf k).tiles.length
    let at_ := f.vd.toNat % 16
    let q := 128 * at_ + immC0 f
    let n := readS s k s.cur.second (immSn f).toNat
    let b := laneScalar s f.vb
    let w := laneScalar s f.vc
    (∀ p ∈ denseWords f, EngineGoes s p.2.1 f → b.poison = false → n.poison = false →
      let nn := n.val.toNat
      (nn % 16 = 0 → 16 ≤ nn → immC0 f + nn ≤ 512 → q + nn ≤ 128 * tiles → ownBase ≤ b.val.toNat → b.val.toNat < ownBase + 2 ^ 20 →
        b.val.toNat % 128 = 0 → b.val.toNat - ownBase + nn * p.2.2 ≤ scratchBytes s (s.grp k).team → SpecFit s f (columnTiles q nn) →
        Answers (exec p.1 s) (fun t => Queued s t f b.val n.val 0)) ∧
      (tiles ≤ at_ ∨ (128 * tiles < q + nn ∧ tiles ≤ 16) → TrapsHere s → Answers (exec p.1 s) (fun t => TrapTaken s t .tile 1)) ∧
      (nn % 16 ≠ 0 ∨ nn < 16 ∨ 512 < immC0 f + nn → q + max nn 1 ≤ 128 * tiles → TrapsHere s →
        Answers (exec p.1 s) (fun t => TrapTaken s t .tile 2))) ∧
    (∀ p ∈ trellisWords f, EngineGoes s p.2.1 f → b.poison = false → n.poison = false → w.poison = false →
      ∀ x, parseStream w.val = some x → n.val.toNat % 64 = 0 → n.val.toNat + 64 * p.2.2 ≤ x.nw → immC0 f + p.2.2 ≤ 512 →
        q + p.2.2 ≤ 128 * tiles → SpecFit s f (columnTiles q p.2.2) →
        Answers (exec p.1 s) (fun t => Queued s t f b.val w.val n.val)) ∧
    (∀ p ∈ trellisWords f, EngineGoes s p.2.1 f → b.poison = false → n.poison = false → w.poison = false → parseStream w.val = none →
        immC0 f + p.2.2 ≤ 512 → q + p.2.2 ≤ 128 * tiles → SpecFit s f (columnTiles q p.2.2) → TrapsHere s →
        Answers (exec p.1 s) (fun t => TrapTaken s t .tile 6)) ∧
    (EngineGoes s .tzero f → at_ + f.imm.toNat % 16 < tiles → Unshadowed s false ((List.range (f.imm.toNat % 16 + 1)).map (at_ + ·)) →
      Answers (exec (.tzero f) s) (fun t => Queued s t f 0 0 0)) ∧
    (EngineGoes s .tres f → (laneScalar s f.va).poison = false → at_ < tiles →
      Answers (exec (.tres f) s) (fun t => Queued s t f (laneScalar s f.va).val 0 0)) ∧
    (∀ p ∈ [(Instr.tld f, LaneOp.tld, true, f.va.toNat % 16, f.vd.toNat), (.tst f, .tst, false, at_, f.va.toNat)],
      LaneGoes s p.2.1 f .tl false → p.2.2.2.1 < tiles → (∀ c ∈ (s.grp k).engq, p.2.2.2.1 ∉ c.tiles) →
      (p.2.2.1 = false → Unshadowed s false [p.2.2.2.1]) →
        Answers (exec p.1 s) (fun t => LaneCounted s t .tl ∧ LaneTaken s t ∧ SameMemory s t ∧ (t.grp k).v = (s.grp k).v ∧
          ∃ y, (t.grp k).moves = (s.grp k).moves ++ [y] ∧ y.op = s.nextId ∧ y.load = p.2.2.1 ∧ y.tile = p.2.2.2.1 ∧
            y.q = f.imm.toNat % 4 ∧ y.reg = p.2.2.2.2))

/-- R314, R334, R337, R354: ENC.TC, EMB.G, EMB.R and GBULK with a block at a multiple of 64 in linear space and a fit sync word are queued
with both addresses; another block address traps TILE, BLOCK. -/
def Sys2Proof.Claims.BlockCommands : Prop :=
  ∀ (f : LaneFields) (s : State),
    ∀ p ∈ [(Instr.encTc f, LaneOp.encTc), (.embG f, .embG), (.embR f, .embR), (.gbulk f, .gbulk)], EngineGoes s p.2 f →
      let k := s.cur.grp
      let a := laneScalar s f.va
      let y := readS s k s.cur.second (immSreg f).toNat
      let uses : Prop := (immRel f || immAcq f) = true
      a.poison = false → (uses → y.poison = false) →
      (a.val.toNat % 64 = 0 → a.val.toNat + 64 ≤ windowBase → (uses → ∃ l, syncPlace s k (immScope f) y.val.toNat = .ok l) →
        Answers (exec p.1 s) (fun t => Queued s t f a.val (if immRel f || immAcq f then y.val else 0) 0)) ∧
      (a.val.toNat % 64 ≠ 0 ∨ windowBase < a.val.toNat + 64 → TrapsHere s →
        Answers (exec p.1 s) (fun t => TrapTaken s t .tile 7))

/-- R314, R317, R320, R324, R326, R328, R334, R337, R354: tile words and block commands join the engine queue. -/
def Obligations.EngineCommandWords : Prop :=
  Claims.TileWords ∧ Claims.BlockCommands

namespace Sys2Proof.Claims

/-- No graph request or word in flight bears the next name. -/
def NewGraphName (s : State) : Prop :=
  NewName s ∧ (∀ r ∈ s.greqs, r.id < s.nextId) ∧ (∀ r ∈ s.greqs, r.kind.ofCursor = true → r.grp ≠ s.cur.grp)

/-- GR rose; the word left the queue and waits for an answer of each acting lane; no register or memory changed. -/
def GraphStarted (s t : State) (f : LaneFields) : Prop :=
  let k := s.cur.grp
  LaneCounted s t .gr ∧ LaneTaken s t ∧ SameMemory s { t with fabric := s.fabric } ∧ (t.grp k).v = (s.grp k).v ∧
    ∃ x ∈ t.gops, x.op = s.nextId ∧ x.grp = k ∧ x.left = actCount s f ∧ x.fails = [] ∧ x.vs = if immSe f then some (immVs f) else none

/-- A request of a lane at a unit. -/
def LaneAsked (s t : State) (l : Nat) (kind : GKind) (stage : GStage) (unit : Nat) (P : GReq → Prop) : Prop :=
  ∃ r ∈ t.greqs, r.op = s.nextId ∧ r.grp = s.cur.grp ∧ r.lane = l ∧ r.kind = kind ∧ r.stage = stage ∧ r.unit = unit ∧ P r

/-- R347–R349: the words that ask about one vertex; whether they name a rank. -/
def vertexWords (f : LaneFields) : List (Instr × LaneOp × GKind × Bool) :=
  [(.gdeg f, .gdeg, .degree false, false), (.gdegIn f, .gdegIn, .degree true, false), (.gnbr f, .gnbr, .rank false, true),
   (.gnbrIn f, .gnbrIn, .rank true, true), (.gattr f, .gattr, .rank false, true), (.gattrIn f, .gattrIn, .rank true, true),
   (.gdel f, .gdel, .del, true), (.gdelIn f, .gdelIn, .delIn, true)]

end Sys2Proof.Claims

/-- R341–R346: a graph word raises GR, leaves the queue, and sends a request of each acting lane to the unit that owns its vertex, under
the graph number of its register; a poisoned graph number signals POISON, 4. -/
def Obligations.GraphWords : Prop :=
  ∀ (f : LaneFields) (s : State), NewGraphName s →
    let k := s.cur.grp
    let sg := readS s k s.cur.second (immSg f).toNat
    let gid := sg.val.toNat % 65536
    let clean (v : BitVec 9) : Prop := ∀ l, l < 96 → acts s f l = true → (elem s v l).poison = false
    let num (v : BitVec 9) (l : Nat) : Nat := (elem s v l).val.toNat
    (∀ p ∈ vertexWords f, LaneGoes s p.2.1 f .gr true → sg.poison = false → clean f.va → (p.2.2.2 = true → clean f.vb) →
      Answers (exec p.1 s) (fun t => GraphStarted s t f ∧ ∀ l, l < 96 → acts s f l = true →
        LaneAsked s t l p.2.2.1 .sent (graphOwner gid (num f.va l)) (fun r => r.gid = gid ∧ r.vertex = num f.va l ∧
          r.asid = s.asidOf k ∧ r.rank = if p.2.2.2 then num f.vb l else 0))) ∧
    (LaneGoes s .gadd f .gr true → sg.poison = false → clean f.va → clean f.vb → clean f.vc →
      Answers (exec (.gadd f) s) (fun t => GraphStarted s t f ∧ ∀ l, l < 96 → acts s f l = true →
        LaneAsked s t l .add .sent (graphOwner gid (num f.va l)) (fun r => r.gid = gid ∧ r.vertex = num f.va l ∧
          r.asid = s.asidOf k ∧ r.other = num f.vb l ∧ r.attr = num f.vc l))) ∧
    (∀ p ∈ vertexWords f, LaneGoes s p.2.1 f .gr true → sg.poison = true → TrapsHere s →
      idemOpen (s.grp k).idempc = false → Answers (exec p.1 s) (fun t => TrapTaken s t .poison 4))

/-- R201–R205, R346, R350–R353: a cursor word asks the owner of the lane's vertex, or of the vertex its open cursor stands on: an open
first closes that, and a lane that names a vertex waits while a lower lane has still to open it (R205); CSAVE stores each acting lane's 16 bytes; CREST loads them. -/
def Obligations.CursorWords : Prop :=
  ∀ (f : LaneFields) (s : State), NewGraphName s →
    let k := s.cur.grp
    let sg := readS s k s.cur.second (immSg f).toNat
    let gid := sg.val.toNat % 65536
    let cur := f.vc.toNat % 8
    let c (l : Nat) : Cursor := (s.grp k).cursor cur l
    let home (l : Nat) : Nat := graphOwner (c l).gid.toNat (c l).vertex.toNat
    let base := laneScalar s f.va
    let addr (l : Nat) : Nat := (base.val + BitVec.ofNat 64 (16 * l)).toNat
    (∀ p ∈ [(Instr.copen f, LaneOp.copen, false), (.copenLive f, .copenLive, true)], LaneGoes s p.2.1 f .gr true → sg.poison = false →
      (∀ l, l < 96 → acts s f l = true → (elem s f.va l).poison = false) →
      let v (l : Nat) : Nat := (elem s f.va l).val.toNat
      let first (l : Nat) : Nat × Nat := if (c l).isOpen then ((c l).gid.toNat, (c l).vertex.toNat) else (gid, v l)
      Answers (exec p.1 s) (fun t => GraphStarted s t f ∧
        (∀ l, l < 96 → acts s f l = true → ∃ r ∈ t.greqs, r.op = s.nextId ∧ r.grp = k ∧ r.lane = l ∧
          r.kind = .openCur p.2.2 (f.xmod.getLsbD 1) ∧ r.gid = gid ∧ r.vertex = v l ∧ r.cur = cur) ∧
        ((∀ j l, j < l → l < 96 → acts s f j = true → acts s f l = true → (c j).isOpen = true → first l ≠ (gid, v j)) →
          ∀ l, l < 96 → acts s f l = true →
            LaneAsked s t l (.openCur p.2.2 (f.xmod.getLsbD 1)) (if (c l).isOpen then .closing else .sent)
              (if (c l).isOpen then home l else graphOwner gid (v l)) (fun r => r.gid = gid ∧ r.vertex = v l ∧ r.cur = cur)))) ∧
    (∀ p ∈ [(Instr.cnext f, LaneOp.cnext, GKind.nextCur), (.cclose f, .cclose, .closeCur)], LaneGoes s p.2.1 f .gr true →
      (∀ l, l < 96 → acts s f l = true → (c l).isOpen = true) →
      Answers (exec p.1 s) (fun t => GraphStarted s t f ∧ ∀ l, l < 96 → acts s f l = true →
        LaneAsked s t l p.2.2 .sent (home l) (fun r => r.cur = cur))) ∧
    (LaneGoes s .csave f .gr true → base.poison = false → base.val.toNat % 16 = 0 → 13 ≤ fifoFree s k →
      (∀ l, l < 96 → acts s f l = true → ∃ x, locate s (s.grp k).team (regionsOf false) (addr l) 16 = .ok (.lin x)) →
      Answers (exec (.csave f) s) (fun t => LaneCounted s t .gr ∧ LaneTaken s t ∧ SameMemory s t ∧
        (∀ r l, l < 96 → (t.grp k).velt r l =
          if immSe f = true ∧ r = immVs f ∧ acts s f l = true then ⟨0, false⟩ else (s.grp k).velt r l) ∧
        (∀ l i, l < 96 → acts s f l = true → i < 16 → fifoByte (t.grp k) (s.asidOf k) (addr l + i) =
          some ⟨(cursorBytes (c l))[i]?.getD 0, false⟩) ∧
        (∀ b, (∀ l, l < 96 → acts s f l = true → b < addr l ∨ addr l + 16 ≤ b) →
          fifoByte (t.grp k) (s.asidOf k) b = fifoByte (s.grp k) (s.asidOf k) b))) ∧
    (LaneGoes s .crest f .gr true → base.poison = false → base.val.toNat % 16 = 0 → 49 ≤ mshrFree s (s.coreOf k) → s.cur.held = false →
      (∀ l, l < 96 → acts s f l = true → ∃ x, locate s (s.grp k).team (regionsOf false) (addr l) 16 = .ok x) →
      Answers (exec (.crest f) s) (fun t => LaneCounted s t .gr ∧ LaneTaken s t ∧ SameBytes s t ∧ (t.grp k).v = (s.grp k).v ∧
        (∃ x ∈ (t.grp k).loads, x.op = s.nextId ∧ x.dest = .cursor cur) ∧
        ∀ l, l < 96 → acts s f l = true → ∃ r ∈ t.greqs, r.op = s.nextId ∧ r.lane = l ∧ r.cur = cur ∧ r.stage = .loading))

namespace Sys2Proof.Claims

/-! ## Steps of the machine that no word issues (R151, R152) -/

/-- A group's outstanding operation has reached its falling point, or was never there. -/
def Ended (t : State) (k op : Nat) : Prop := (t.grp k).pending op = false

/-- A scalar register of a group's slot has a value: nothing at s0, and s58 is ok (R208). -/
def RegIs (t : State) (k : Nat) (z : Bool) (d : SIndex) (x : SReg) : Prop := d ≠ 0 → d ≠ 58 → readS t k z d.toNat = x

/-- The message is at its endpoint, which takes it. -/
def AtEnd (s : State) (m : Msg) : Prop := findMsg s.fabric s.cur.b = some m ∧ ejects s m = true

/-- The message has left the fabric. -/
def Taken (s t : State) (m : Msg) : Prop := t.fabric = s.fabric.filter (fun x => decide (x.id ≠ m.id))

/-- The request has been performed: the next of its line is due, and its reply is in the fabric (R152). -/
def Replied (s t : State) (m : Msg) (r : RepBody) : Prop :=
  AMap.get 0 t.expect (numKey m.requester m.asid m.line) = m.num + 1 ∧ t.arrived = s.arrived.filter (fun x => decide (x.id ≠ m.id)) ∧
    ∃ y, t.fabric = s.fabric ++ [y] ∧ y.id = m.id ∧ y.requester = m.requester ∧ y.grp = m.grp ∧ y.body = .rep r ∧ y.router = m.slice

/-- The request is due at the slice that holds its bucket, and it is not with a peer (R152). -/
def DueAt (s : State) (m : Msg) : Prop :=
  findMsg s.arrived s.cur.b = some m ∧ nextFor s m.asid m.line = some m ∧ owner s (bucketOf m.asid m.line) = m.slice ∧ atPeer s m = false

/-- Its line is there too, and none of its bytes are those of a held write (R360). -/
def DueHere (s : State) (m : Msg) (x : L2Line) : Prop :=
  DueAt s m ∧ l2Line s m.asid m.line = some x ∧ heldAt s m.asid m.line = []

/-- Every other line of L2 is as it was. -/
def OtherL2 (s t : State) (asid line : Nat) : Prop :=
  ∀ key, key ≠ lineKey asid line → (t.l2.find? (fun p => decide (p.1 = key))).map (·.2) = (s.l2.find? (fun p => decide (p.1 = key))).map (·.2)

/-- One packet has entered the fabric, at a port of a router; nothing else differs but the identifiers. -/
def Sends (s t : State) (asid line port router : Nat) (b : MsgBody) : Prop :=
  ∃ y, t.fabric = s.fabric ++ [y] ∧ y.asid = asid ∧ y.line = line ∧ y.inj = some port ∧ y.router = router ∧ y.body = b

/-- Messages that go to a slice or a controller, and wait there to be performed. -/
def waitsThere : MsgBody → Bool
  | .req _ | .line _ | .dirty _ | .access _ _ _ | .store _ _ => true
  | _ => false

/-- Nothing of a group differs but bytes of lines written back since, beside its requests (R153). -/
def KeepsFetches (s t : State) (k : Nat) : Prop :=
  { t.grp k with fetches := (s.grp k).fetches } = s.grp k ∧
    (t.grp k).fetches.map (fun f => { f with newer := [] }) = (s.grp k).fetches.map (fun f => { f with newer := [] })

/-- R151, R153, R371: a sector reply enters L1 beside the bytes that are dirty there and those written back since its request was sent. -/
def FillStep : Prop :=
  ∀ (s : State) (m : Msg) (f : Fetch) (sec : Nat) (sp : Bool) (bs : List PByte), AtEnd s m → m.body = .rep (.sector sec bs) →
    fetchOf s m = some f → f.body = .fetch sec sp → f.stale = false → sec < 4 → bs.length = 32 →
    l1Room s m.requester m.asid m.line sp = true →
      Answers (exec .fill s) (fun t => (∀ x ∈ s.fabric, x.id ≠ m.id → x ∈ t.fabric) ∧
        (∀ x ∈ t.fabric, x.id ≠ m.id ∨ x.id = s.nextId) ∧ t.hbm = s.hbm ∧ t.l2 = s.l2 ∧
        (∀ y ∈ (t.grp m.grp).fetches, y.sent ≠ some m.id) ∧
        ∀ i, i < 32 → let a := m.line * 128 + 32 * sec + i
          if l1Dirty s m.requester m.asid a || f.newer.any (fun b => decide (b.1 = a)) then
            (l1Byte t m.requester m.asid a).map (·.val) = (l1Byte s m.requester m.asid a).map (·.val)
          else (l1Byte t m.requester m.asid a).map (·.val) = (bs[i]?).map (·.val))

/-- R151, R152, R358, R369: a delivered request waits at its slice, and what a slice asks of a controller waits there; an acknowledged
write-back is over; a unit of the device has its answer; a line is at its slice with the second of its halves. -/
def DeliverSteps : Prop :=
  ∀ (s : State) (m : Msg), AtEnd s m →
    (waitsThere m.body = true → Answers (exec .deliver s) (fun t => Taken s t m ∧ t.arrived = s.arrived ++ [m] ∧
      t.groups = s.groups ∧ t.cores = s.cores ∧ t.l2 = s.l2 ∧ t.hbm = s.hbm)) ∧
    (∀ x, m.body = .rep .ack → m.requester < 1000 → l1Line s m.requester m.asid m.line = some x →
      Answers (exec .deliver s) (fun t => Taken s t m ∧
        l1Line t m.requester m.asid m.line = some { x with wb := false } ∧ t.groups = s.groups ∧ t.l2 = s.l2 ∧ t.hbm = s.hbm)) ∧
    (∀ r, m.body = .rep r → (∀ sec bs, r ≠ .sector sec bs) → 1000 ≤ m.requester →
      Answers (exec .deliver s) (fun t => Taken s t m ∧ t.groups = s.groups ∧ t.cores = s.cores ∧ t.l2 = s.l2 ∧ t.hbm = s.hbm ∧
        t.unitReqs = s.unitReqs.map (fun x => if x.msg = m.id then { x with answer := some r } else x))) ∧
    (∀ id hi d p r, m.body = .half id hi d p → l2Full s m.asid m.line = false → s.hbmReqs.find? (fun r => decide (r.id = id)) = some r →
      ((if hi then r.lo else r.hi) = none → Answers (exec .deliver s) (fun t => Taken s t m ∧ t.l2 = s.l2 ∧ t.hbm = s.hbm ∧
        ∃ y ∈ t.hbmReqs, y.id = id ∧ (if hi then y.hi else y.lo) = some (d, p))) ∧
      (∀ e, (if hi then r.lo else r.hi) = some e → l2Line s m.asid m.line = none → heldAt s m.asid m.line = [] →
        Answers (exec .deliver s) (fun t => (∀ y ∈ t.hbmReqs, y.id ≠ id) ∧ t.hbm = s.hbm ∧ ∃ y, l2Line t m.asid m.line = some y ∧ y.dirty = 0 ∧
          y.writable = r.writable ∧ ∀ i, i < 64 → y.data.extractLsb' (8 * (i + if hi then 64 else 0)) 8 = d.extractLsb' (8 * i) 8 ∧
            y.data.extractLsb' (8 * (i + if hi then 0 else 64)) 8 = e.1.extractLsb' (8 * i) 8)))

/-- R150–R152, R168, R286, R358: a slice performs what is due on a line it holds, and replies; a line it does not hold it asks of
the line's home controller. -/
def PerformSteps : Prop :=
  ∀ (s : State) (m : Msg), s.cur.flag = false → s.cur.c ≠ 1 →
    (DueAt s m → l2Line s m.asid m.line = none → lineComing s m.asid m.line = false → noRoom s m.asid m.line = false →
      Answers (exec .perform s) (fun t => { t with fabric := s.fabric, nextId := s.nextId } = s ∧
        ∃ spall, Sends s t m.asid m.line m.slice m.slice (.line spall))) ∧
    (∀ x, DueHere s m x →
      (∀ sec sp, m.body = .req (.fetch sec sp) → sec < 4 → Answers (exec .perform s) (fun t => t.hbm = s.hbm ∧ t.groups = s.groups ∧
        OtherL2 s t m.asid m.line ∧ Replied s t m (.sector sec ((List.range 32).map (fun i =>
          ⟨x.data.extractLsb' (8 * (32 * sec + i)) 8, x.poison.getLsbD sec⟩))))) ∧
      (∀ bs, m.body = .req (.write bs) → x.writable = true → (∀ b ∈ bs, b.1 < 128) → (bs.map (·.1)).Nodup →
        Answers (exec .perform s) (fun t => t.hbm = s.hbm ∧ t.groups = s.groups ∧ OtherL2 s t m.asid m.line ∧ Replied s t m .ack ∧
          ∃ y, l2Line t m.asid m.line = some y ∧ (∀ b ∈ bs, y.data.extractLsb' (8 * b.1) 8 = b.2.val ∧ y.dirty.getLsbD b.1 = true) ∧
            ∀ i, i < 128 → i ∉ bs.map (·.1) → y.data.extractLsb' (8 * i) 8 = x.data.extractLsb' (8 * i) 8 ∧
              y.dirty.getLsbD i = x.dirty.getLsbD i)) ∧
      (∀ op n a v cmp lane, m.body = .req (.atomic op n a v cmp lane) → x.writable = true → x.tgt ≠ 2 → (n = 4 ∨ n = 8) → a % n = 0 →
        a / 128 = m.line → x.poison.getLsbD (a % 128 / 32) = false →
        let old : DWord := BitVec.ofNat 64 (pvalue (sliceBytes s m.asid a n))
        Answers (exec .perform s) (fun t => t.hbm = s.hbm ∧ OtherL2 s t m.asid m.line ∧ Replied s t m (.value old false lane) ∧
          (sliceBytes t m.asid a n).map (·.val) = leBytes n (atomicValue op n old v cmp).toNat)) ∧
      (∀ a, m.body = .req (.acq a) → a % 8 = 0 → a / 128 = m.line → Answers (exec .perform s) (fun t => t.hbm = s.hbm ∧
        OtherL2 s t m.asid m.line ∧ Replied s t m (.value (BitVec.ofNat 64 (pvalue (sliceBytes s m.asid a 8)))
          (x.poison.getLsbD (a % 128 / 32)) 0))) ∧
      (∀ a v, m.body = .req (.rel a v false) → x.writable = true → a % 8 = 0 → a / 128 = m.line → x.poison.getLsbD (a % 128 / 32) = false →
        Answers (exec .perform s) (fun t => t.hbm = s.hbm ∧ OtherL2 s t m.asid m.line ∧ Replied s t m (.value v false 0) ∧
          (sliceBytes t m.asid a 8).map (·.val) = leBytes 8 v.toNat)))

/-- R294: the holding array performs a store that has reached it in its requester's order, and answers. -/
def ArrayStoreStep : Prop :=
  ∀ (s : State) (r : RemReq) (u : Nat) (bs : List (Nat × PByte)), s.remotes.find? (fun r => decide (r.id = s.cur.b)) = some r →
    memberTeam s (s.grp r.grp).team r.member = some u → r.here = true → r.done = false →
    r.num = AMap.get 0 s.remExpect (remKey r.requester r.kernel r.cluster r.member r.block) →
    (s.team u).state ≠ .saved → (s.team u).state ≠ .restoring → r.body = .store bs →
      Answers (exec .remoteScratchPerform s) (fun t =>
        t.remotes = s.remotes.map (fun x => if x.id = r.id then { x with done := true } else x) ∧
        AMap.get 0 t.remExpect (remKey r.requester r.kernel r.cluster r.member r.block) = r.num + 1 ∧ t.hbm = s.hbm ∧ t.l2 = s.l2 ∧
        Sends s t 0 0 (1000 + (s.team u).core) ((s.team u).core / 2 % 96) (.arrayAns r.id r.requester .done) ∧
        let team := s.team u
        let cell (x : State) (key : Nat) : Byte := AMap.get 0 (x.core team.core).scratch key
        (∀ p ∈ bs, (∀ q ∈ bs, scratchKey team q.1 = scratchKey team p.1 → q = p) → cell t (scratchKey team p.1) = p.2.val) ∧
        (∀ key, (∀ p ∈ bs, key ≠ scratchKey team p.1) → cell t key = cell s key) ∧ ∀ c, c ≠ team.core → t.core c = s.core c)

/-- R16, R357–R359, R369: a home controller that holds the translation of a line its slice needs asks for both its halves; the
controller that holds a half answers a read with its bytes, and writes the bytes of a write. -/
def ControllerSteps : Prop :=
  ∀ (s : State) (m : Msg), findMsg s.arrived s.cur.b = some m →
    let home := ctrlRouter (homeCtrl m.asid (m.line * 128))
    let here (pa : Nat) := ctrlRouter (holdCtrl pa)
    (∀ spall l, m.body = .line spall → bytesAway s m.asid m.line = false → cached s m.asid (m.line * 128) = some l → l.tgt = 0 →
      l2Line s m.asid m.line = none → (∀ r, nextFor s m.asid m.line = some r → wantsWrite r = true → l.writable = true) →
      let pa := l.base + m.line * 128 % l.size
      Answers (exec .translate s) (fun t => t.arrived = s.arrived.filter (fun x => decide (x.id ≠ m.id)) ∧
        { t with arrived := s.arrived, hbmReqs := s.hbmReqs, fabric := s.fabric, nextId := s.nextId } = s ∧
        ∃ r y z, t.hbmReqs = s.hbmReqs ++ [r] ∧ r.asid = m.asid ∧ r.line = m.line ∧ r.pa = pa ∧ r.writable = l.writable ∧
          r.lo = none ∧ r.hi = none ∧ t.fabric = s.fabric ++ [y, z] ∧ y.body = .access r.id pa false ∧ z.body = .access r.id (pa + 64) true ∧
          ∀ x ∈ [y, z], x.router = home ∧ x.inj = some (memoryPort home) ∧ x.asid = m.asid ∧ x.line = m.line)) ∧
    (∀ id pa hi, m.body = .access id pa hi → storeAway s pa = false →
      Answers (exec .hbmAccess s) (fun t => t.hbm = s.hbm ∧ t.l2 = s.l2 ∧ t.arrived = s.arrived.filter (fun x => decide (x.id ≠ m.id)) ∧
        ∃ d p, Sends s t m.asid m.line (memoryPort (here pa)) (here pa) (.half id hi d p) ∧
          ∀ i, i < 64 → d.extractLsb' (8 * i) 8 = hbmByte s (pa + i))) ∧
    (∀ pa bs, m.body = .store pa bs → (s.frame (frameOf pa)).retired = false → (bs.map (·.1)).Nodup →
      (∀ b ∈ bs, b.1 / 64 = pa / 64 % 2) →
      Answers (exec .hbmAccess s) (fun t => t.fabric = s.fabric ∧ t.l2 = s.l2 ∧ t.arrived = s.arrived.filter (fun x => decide (x.id ≠ m.id)) ∧
        (∀ b ∈ bs, hbmByte t (pa / 128 * 128 + b.1) = b.2.val) ∧
        ∀ a, (∀ b ∈ bs, a ≠ pa / 128 * 128 + b.1) → hbmByte t a = hbmByte s a))

end Sys2Proof.Claims

/-- R31, R151, R153, R232, R257: results leave the busy lists; DRAIN writes the oldest FIFO entry into L1 as valid-dirty bytes; FETCH
sends a request under its line's next number; WRITEBACK sends a line's dirty bytes, which stay valid-clean and are newer than the
replies that requests of the line await; DROP removes a line without any. -/
def Obligations.ResultAndCacheSteps : Prop :=
  ∀ (s : State),
    let k := s.cur.a
    let g := s.grp k
    let c := s.coreOf k
    let ours (x : SBusy) : Prop := x.op = 0 ∧ x.reg.toNat = s.cur.b
    ((∃ x ∈ g.sbusy, ours x) → Answers (exec .scalarResultWrite s) (fun t => OnlyGroup s t k ∧ { t.grp k with sbusy := g.sbusy } = g ∧
      (∀ x, x ∈ (t.grp k).sbusy ↔ x ∈ g.sbusy ∧ ¬ ours x))) ∧
    ((∃ x ∈ g.lbusy, x.id = s.cur.b) → Answers (exec .laneResultWrite s) (fun t => OnlyGroup s t k ∧ { t.grp k with lbusy := g.lbusy } = g ∧
      (∀ x, x ∈ (t.grp k).lbusy ↔ x ∈ g.lbusy ∧ x.id ≠ s.cur.b))) ∧
    (∀ e rest line, g.fifo = e :: rest → e.bytes ≠ [] → (∀ b ∈ e.bytes, b.1 / 128 = line) → (e.bytes.map (·.1)).Nodup →
      l1Room s c e.asid line e.spall = true →
      Answers (exec .drain s) (fun t => (t.grp k).fifo = rest ∧ (t.grp k).v = g.v ∧ (t.grp k).s = g.s ∧ t.hbm = s.hbm ∧ t.l2 = s.l2 ∧
        ∀ b ∈ e.bytes, l1Dirty t c e.asid b.1 = true ∧ ∃ p, l1Byte t c e.asid b.1 = some ⟨b.2.val, p⟩ ∧ (b.2.poison = true → p = true))) ∧
    (∀ f rest sec sp, g.fetches = f :: rest → f.sent = none → f.faulted = none → f.body = .fetch sec sp →
      let key := numKey c (s.asidOf k) f.line
      Answers (exec .fetch s) (fun t => SameMemory s { t with fabric := s.fabric } ∧
        AMap.get 0 t.sendNum key = AMap.get 0 s.sendNum key + 1 ∧
        ∃ m, t.fabric = s.fabric ++ [m] ∧ m.requester = c ∧ m.asid = s.asidOf k ∧ m.line = f.line ∧ m.grp = k ∧ m.op = f.op ∧
          m.num = AMap.get 0 s.sendNum key ∧ m.body = .req (.fetch sec sp) ∧ m.slice = sliceFor s c (s.asidOf k) f.line ∧
          ∃ y ∈ (t.grp k).fetches, y.op = f.op ∧ y.line = f.line ∧ y.sent = some m.id)) ∧
    (∀ x, l1Line s s.cur.a s.cur.b s.cur.c = some x →
      (x.dirty ≠ 0 → x.wb = false → Answers (exec .writeback s) (fun t =>
        l1Line t s.cur.a s.cur.b s.cur.c = some { x with dirty := 0, wb := true } ∧ t.l2 = s.l2 ∧ t.hbm = s.hbm ∧
        (∀ j, KeepsFetches s t j) ∧
        ∃ m bs, t.fabric = s.fabric ++ [m] ∧ m.requester = s.cur.a ∧ m.asid = s.cur.b ∧ m.line = s.cur.c ∧ m.body = .req (.write bs) ∧
          (∀ j ∈ groupsOn s s.cur.a, s.asidOf j = s.cur.b → ∀ f ∈ (t.grp j).fetches, f.line = s.cur.c → f.sent.isSome →
            ∀ b ∈ bs, (s.cur.c * 128 + b.1, b.2) ∈ f.newer) ∧
          ∀ i, i < 128 → ∀ v, (i, v) ∈ bs ↔ x.dirty.getLsbD i = true ∧ v = ⟨x.data.extractLsb' (8 * i) 8, x.poison.getLsbD (i / 32)⟩)) ∧
      (x.dirty = 0 → Answers (exec .drop s) (fun t => l1Line t s.cur.a s.cur.b s.cur.c = none ∧ t.groups = s.groups ∧ t.l2 = s.l2 ∧
        t.hbm = s.hbm ∧ t.fabric = s.fabric ∧ ∀ line, lineKey s.cur.b line ≠ lineKey s.cur.b s.cur.c →
          l1Line t s.cur.a s.cur.b line = l1Line s s.cur.a s.cur.b line)))

/-- R16, R150–R153, R168, R286, R294, R358, R369: what enters L1, waits at a slice or a controller, is performed there and answered:
the steps of the lines of memory, one after another. -/
def Obligations.FabricAndSliceSteps : Prop :=
  Claims.FillStep ∧ Claims.DeliverSteps ∧ Claims.PerformSteps ∧ Claims.ArrayStoreStep ∧ Claims.ControllerSteps

/-- R48, R158–R162, R175, R180, R184, R301: an answered ACQ drops the clean lines bound to its word and gives its value; a REL whose earlier
operations are over sends the write-backs of its bound lines, then its write; BIND takes the first clear entry of the table and
UNBIND clears its own; an operation at its falling point retires, and SATF shows what it saturated; wider counts rise, and release their barriers when full. -/
def Obligations.SyncSteps : Prop :=
  ∀ (s : State),
    let k := s.cur.a
    let g := s.grp k
    let c := s.coreOf k
    let asid := s.asidOf k
    (∀ y v, g.syncs.find? (fun y => decide (y.op = s.cur.b) && !y.isRel) = some y → y.answer = some v → v.poison = false → y.scope ≠ 3 →
      Answers (exec .acqDrop s) (fun t => RegIs t k (g.opSecond y.op) y.sd v ∧ Ended t k y.op ∧ (∀ x ∈ (t.grp k).syncs, x.op ≠ y.op) ∧
        t.hbm = s.hbm ∧ t.l2 = s.l2 ∧ (t.grp k).v = g.v ∧
        (y.scope ≠ 0 → ∀ line x, line < 2 ^ 45 → boundLine (s.ctx asid) y.word line = true → l1Line s c asid line = some x →
          (x.dirty = 0 → l1Line t c asid line = none) ∧
          (x.dirty ≠ 0 → l1Line t c asid line = some { x with valid := x.valid &&& x.dirty })))) ∧
    (∀ y, g.syncs.find? (fun y => decide (y.op = s.cur.b) && y.isRel && !y.sent) = some y → g.anyPending y.after = false →
      (∀ a, (y.lines = some [] ∨ (y.scope = 0 ∧ y.lines = none)) → y.scope ≠ 3 → locate s g.team ⟨true, true, true⟩ y.word 8 = .ok (.lin a) →
        Answers (exec .relSyncWrite s) (fun t => (∀ x ∈ (t.grp k).syncs, x.op = y.op → x.sent = true) ∧ t.hbm = s.hbm ∧ t.l2 = s.l2 ∧
          ∃ f ∈ (t.grp k).fetches, f.op = y.op ∧ f.line = a / 128 ∧ f.body = .rel a y.value.val false)) ∧
      (∀ line x, y.scope ≠ 0 → y.lines = none → line < 2 ^ 45 → boundLine (s.ctx asid) y.word line = true → l1Line s c asid line = some x →
        x.dirty ≠ 0 → x.wb = false → Answers (exec .relSyncWrite s) (fun t => t.hbm = s.hbm ∧ t.l2 = s.l2 ∧
          (t.grp k).fetches.map (fun f => { f with newer := [] }) = g.fetches.map (fun f => { f with newer := [] }) ∧
          (∃ m ∈ t.fabric, m.requester = c ∧ m.asid = asid ∧ m.line = line ∧ ∃ bs, m.body = .req (.write bs)) ∧
          l1Line t c asid line = some { x with dirty := 0, wb := true }))) ∧
    (∀ y e s', s.cur.held = false → g.binds.find? (fun y => decide (y.op = s.cur.b) && y.isBind) = some y → y.sync % 8 = 0 →
      y.sync + 8 ≤ windowBase → 0 < y.len → y.len ≤ 2 ^ 40 → y.base + y.len ≤ windowBase → e < 4096 →
      (∀ i, i ≤ e → ((AMap.get ⟨false, 0, 0, 0⟩ (s.ctx asid).binds i).valid = true ↔ i ≠ e)) →
      poke s asid ((s.ctx asid).btbase + 32 * e) (cleanBytes 8 y.sync ++ cleanBytes 8 y.base ++ cleanBytes 8 y.len ++ cleanBytes 8 1)
        = .ok () s' →
      Answers (exec .bindApply s) (fun t => AMap.get ⟨false, 0, 0, 0⟩ (t.ctx asid).binds e = ⟨true, y.sync, y.base, y.len⟩ ∧
        RegIs t k (g.opSecond y.op) y.sd ⟨BitVec.ofNat 64 e, false⟩ ∧ Ended t k y.op ∧ t.l2 = s'.l2 ∧ t.hbm = s'.hbm)) ∧
    (∀ y, s.cur.held = false → g.binds.find? (fun y => decide (y.op = s.cur.b) && !y.isBind) = some y →
      let ent := AMap.get ⟨false, 0, 0, 0⟩ (s.ctx asid).binds y.entry
      (ent.valid = false → Answers (exec .unbindApply s) (fun t => Ended t k y.op ∧ t.ctxs = s.ctxs ∧ t.l2 = s.l2 ∧ t.hbm = s.hbm)) ∧
      (∀ s', ent.valid = true → poke s asid ((s.ctx asid).btbase + 32 * y.entry + 0x18) (cleanBytes 4 0) = .ok () s' →
        Answers (exec .unbindApply s) (fun t => Ended t k y.op ∧ (AMap.get ⟨false, 0, 0, 0⟩ (t.ctx asid).binds y.entry).valid = false ∧
          t.l2 = s'.l2 ∧ t.hbm = s'.hbm))) ∧
    (∀ o, retirable g = some o → Answers (exec .counterRetire s) (fun t => OnlyGroup s t k ∧
      { t.grp k with ops := g.ops, satf := g.satf } = g ∧ (t.grp k).satf = g.satf ||| o.sat ∧
      ∀ x, x ∈ (t.grp k).ops ↔ x ∈ g.ops ∧ x.id ≠ o.id)) ∧
    (∀ m, retirable g = none → g.maints = [m] → m.kind = 1 → (∀ e ∈ g.fifo, e.op ∉ m.after) →
      Answers (exec .counterRetire s) (fun t => Ended t k m.op ∧ (t.grp k).maints = [] ∧ t.hbm = s.hbm ∧
        (∀ line, line < 2 ^ 45 → m.lo ≤ line → line ≤ m.hi → l1Line t c asid line = none ∧ (m.level = 2 → l2Line t asid line = none)))) ∧
    (let x := s.team s.cur.a
     let kn := s.kernel x.kernel
     ∀ b rest,
      (x.state = .running ∨ (x.state = .halting ∧ liveGroups s s.cur.a = []) → x.widerOut = b :: rest → (x.bar b).scope ≠ 2 →
        let n := AMap.get 0 kn.clusBar (x.clusid * 16 + b) + 1
        (n < kn.csize → Answers (exec .widerArrival s) (fun t => (t.team s.cur.a).widerOut = rest ∧ t.groups = s.groups ∧
          AMap.get 0 (t.kernel x.kernel).clusBar (x.clusid * 16 + b) = n)) ∧
        (kn.csize ≤ n → Answers (exec .widerArrival s) (fun t => t.groups = s.groups ∧
          AMap.get 0 (t.kernel x.kernel).clusBar (x.clusid * 16 + b) = 0 ∧ (x.widerIn ++ [b]) <+: (t.team s.cur.a).widerIn))) ∧
      (x.state = .running → x.widerIn = b :: rest → (x.bar b).state = .forwarded → (x.bar b).arrived < (x.bar b).expect →
        Answers (exec .widerRelease s) (fun t => (t.team s.cur.a).widerIn = rest ∧ t.groups = s.groups ∧
          (t.team s.cur.a).bar b = { x.bar b with state := .opened, phase := (x.bar b).phase + 1, waiters := (x.bar b).waitn, waitn := 0 })))

namespace Sys2Proof.Claims

/-- The message carries a shuffle's offer. -/
def isOffer (op : Nat) : MsgBody → Bool
  | .offer x _ => decide (x = op)
  | _ => false

end Sys2Proof.Claims

/-- R166, R172, R272, R276, R280, R286, R298–R300, R308, R309, R313: table, window, copy, shuffle and queue words are carried out: a loaded
pattern, activation image or window replaces what was there; a copy reads its sources, writes granule by granule, and at its end drops
the clean lines of its destination; VCPC commits only on an equal version; a matched shuffle writes the lanes both sides act in. -/
def Obligations.LaneUnitSteps : Prop :=
  ∀ (s : State),
    let k := s.cur.a
    let g := s.grp k
    let core := s.coreOf k
    let bytes (pl : PendLoad) : List PByte := pl.pieces.flatMap (fun p => p.got.map (fun b => b.getD ⟨0, false⟩))
    (∀ pl p e, wholeLoad g s.cur.b = some pl → pl.dest = .pattern e → pl.pieces = [p] → Answers (exec .patternEntryLoad s) (fun t =>
      (t.core core).pattern e = ⟨s.asidOf k, (bytes pl).map (·.val), ppoison (bytes pl)⟩ ∧ (∀ x ∈ (t.grp k).loads, x.op ≠ pl.op) ∧
        (∀ e', e' ≠ e → (t.core core).pattern e' = (s.core core).pattern e') ∧ t.hbm = s.hbm ∧ t.l2 = s.l2 ∧ (t.grp k).v = g.v)) ∧
    (∀ h op rest pl, (s.core k).actReqs = (h, op, none) :: rest → wholeLoad (s.grp h) op = some pl → Answers (exec .actBankLoaded s) (fun t =>
      let q := s.core k
      let r := t.core k
      r.actReqs = rest ∧ r.actCur = q.actCur ∧ (if q.actCur then r.act1 = q.act1 else r.act0 = q.act0) ∧
        (if q.actCur then r.act0 else r.act1) = fillBank (s.asidOf h) (bytes pl) ∧ t.hbm = s.hbm ∧ t.l2 = s.l2)) ∧
    (∀ h op rest d, (s.core k).actReqs = (h, op, some d) :: rest → Answers (exec .actSwapPerform s) (fun t =>
      let q := s.core k
      let mine : Prop := (if q.actCur then q.act0 else q.act1).tag = s.asidOf h
      (t.core k).actReqs = rest ∧ (t.core k).act0 = q.act0 ∧ (t.core k).act1 = q.act1 ∧ Ended t h op ∧
        (mine → (t.core k).actCur = (!q.actCur) ∧ RegIs t h ((s.grp h).opSecond op) d ⟨0, false⟩) ∧
        (¬ mine → (t.core k).actCur = q.actCur ∧ RegIs t h ((s.grp h).opSecond op) d ⟨1, false⟩))) ∧
    (∀ pl p n, g.loads.find? (fun l => decide (l.op = s.cur.b)) = some pl → pl.dest = .window n → pl.pieces.find? (·.whole) = some p →
      p.lane < 96 → Answers (exec .windowFill s) (fun t => let bs := p.got.map (fun b => b.getD ⟨0, false⟩)
        (t.grp k).win n p.lane = ⟨p.win ||| BitVec.ofNat 64 (pvalue bs / 2 ^ p.skip % 2 ^ 16), ppoison bs⟩ ∧
        (∀ m l, l < 96 → (m ≠ n ∨ l ≠ p.lane) → (t.grp k).win m l = g.win m l) ∧ (t.grp k).v = g.v ∧ t.hbm = s.hbm ∧ t.l2 = s.l2)) ∧
    (∀ c, g.copies.find? (fun c => decide (c.op = s.cur.b)) = some c → c.waitPage = none → c.acq = false →
      (∀ bs s', c.data = none → readSources s (copyUnit s k c.op 0) c.pieces = .ok bs s' → Answers (exec .copyGranuleWrite s) (fun t =>
        t.l2 = s'.l2 ∧ t.cores = s'.cores ∧ ∃ y ∈ (t.grp k).copies, y.op = c.op ∧ y.data = some (lastBytes bs))) ∧
      (∀ bs b more s', c.data = some bs → c.commit = none → granuleAt s.cur.c bs = b :: more →
        let rest := bs.filter (fun x => decide (x.1 / 4 ≠ s.cur.c / 4))
        writeGranule s (copyUnit s k c.op (s.cur.c / 4 + 1)) b.1 (b :: more) (clearsWith s c s.cur.c rest) = .ok () s' →
        Answers (exec .copyGranuleWrite s) (fun t => t.l2 = s'.l2 ∧ t.cores = s'.cores ∧
          ∃ y ∈ (t.grp k).copies, y.op = c.op ∧ y.data = some rest)) ∧
      (c.data = some [] → c.commit = none → c.arrived = false → c.bar = none → c.rel = false → Answers (exec .copyComplete s) (fun t =>
        Ended t k c.op ∧ (∀ y ∈ (t.grp k).copies, y.op ≠ c.op) ∧ t.hbm = s.hbm ∧ t.l2 = s.l2 ∧ (t.grp k).v = g.v ∧
        ∀ l x, l ∈ c.lines → l1Line s core (s.asidOf k) l = some x →
          (x.dirty = 0 → l1Line t core (s.asidOf k) l = none) ∧
          (x.dirty ≠ 0 → l1Line t core (s.asidOf k) l = some { x with valid := x.valid &&& x.dirty }))) ∧
      (∀ bs sd d sx, c.data = some bs → c.commit = some (sd, d, sx) → c.arrived = false → c.bar = none → c.rel = false → d % 128 = 0 →
        let ver := scratchRead s g.team (d - ownBase) 8
        (pvalue ver = sx.toNat → Answers (exec .copyComplete s) (fun t => Ended t k c.op ∧
          RegIs t k (g.opSecond c.op) sd ⟨1, ppoison ver⟩ ∧ pvalue (scratchRead t g.team (d - ownBase) 8) = (sx.toNat + 1) % 2 ^ 64)) ∧
        (pvalue ver ≠ sx.toNat → Answers (exec .copyComplete s) (fun t => Ended t k c.op ∧
          RegIs t k (g.opSecond c.op) sd ⟨0, ppoison ver⟩ ∧ ∀ j, (t.core j).scratch = (s.core j).scratch)))) ∧
    (∀ m y u h c, s.fabric.find? (fun m => isOffer s.cur.b m.body) = some m → m.body = .offer s.cur.b c → ejects s m = true →
      s.offers.find? (fun y => decide (y.op = s.cur.b) && decide (y.place = 0)) = some y → partnerGroup s y = some (u, h) →
      let s1 := setOffer s y.op (fun y => { y with place := 1 })
      (residentTeam (s.team u) = false → (s.team u).state ≠ .saving → Answers (exec .xshflOfferArrival s) (fun t => t.groups = s.groups ∧
        (∃ z ∈ t.offers, z.op = y.op ∧ z.place = 4) ∧ ∃ z ∈ t.fabric, z.body = .refusal y.op (s.coreOf y.grp))) ∧
      (residentTeam (s.team u) = true → (s.team u).core = c → heldOffers s c < 64 →
        (s1.offers.find? (fun x => decide (x.grp = h) && !x.completed) = none → Answers (exec .xshflOfferArrival s) (fun t =>
          t.groups = s.groups ∧ ∃ z ∈ t.offers, z.op = y.op ∧ z.place = 1)) ∧
        (∀ x z, s1.offers.find? (fun x => decide (x.grp = h) && !x.completed) = some x → matching s1 x = some z → z.place = 1 →
          Answers (exec .xshflOfferArrival s) (fun t => Ended t x.grp x.op ∧ (t.grp x.grp).laneStall = none ∧
            (t.grp x.grp).laneq = queueAfter (s.grp x.grp).laneq ∧
            ∀ r l, l < 96 → (t.grp x.grp).velt r l =
              if r = x.vd ∧ x.act.getLsbD l = true ∧ z.act.getLsbD l = true then z.vals[l]?.getD ⟨0, false⟩ else (s.grp x.grp).velt r l)))) ∧
    (∀ y, s.offers.find? (fun y => decide (y.op = s.cur.b) && decide (y.place = 2)) = some y → Answers (exec .xshflOfferRetry s) (fun t =>
      t.groups = s.groups ∧ (∃ z ∈ t.offers, z.op = y.op ∧ z.place = 0) ∧ ∃ m ∈ t.fabric, isOffer y.op m.body = true)) ∧
    (∀ q, s.queueOps.find? (fun q => decide (q.op = s.cur.b) && q.refused && decide (q.left = 0)) = some q →
      Answers (exec .queueRefusalReturn s) (fun t => (∀ x ∈ t.queueOps, x.op ≠ q.op) ∧ Ended t k q.op ∧ (t.grp k).laneStall = none ∧
        (t.grp k).laneq = g.laneq ∧ (t.grp k).v = g.v ∧ t.hbm = s.hbm ∧ t.l2 = s.l2))

namespace Sys2Proof.Claims

/-- The command at the head of the group's queue is this operation, and the engine's turn is the group's (R314). -/
def Turn (s : State) (c : EngCmd) (op : LaneOp) (f : LaneFields) : Prop :=
  headCmd s s.cur.a = some c ∧ c.part = some (op, f) ∧ c.finished = false ∧ c.stop = none

/-- The engine has time for it (R23). -/
def OnEngine (s : State) : Prop := engineTurn s (s.coreOf s.cur.a) = some s.cur.a

/-- The command stands as given; it is in the queue. -/
def CmdIs (t : State) (k op : Nat) (P : EngCmd → Prop) : Prop := ∃ y ∈ (t.grp k).engq, y.op = op ∧ P y

/-- Elements of every other tile are as before. -/
def OtherTiles (s t : State) (c dst : Nat) : Prop :=
  ∀ x r j, x ≠ dst → r < 96 → j < 128 → (t.core c).tile x r j = (s.core c).tile x r j

end Sys2Proof.Claims

/-- R57–R60, R314–R316, R324–R336: a command that may starts; a K-step adds its products to sixteen columns of the acting rows; TZERO
clears a tile, TRES commits or discards a bank, TLD and TST move a slice; a trellis step writes metrics and survivors; a command whose
steps are done leaves the queue, and EN falls. -/
def Obligations.EngineSteps : Prop :=
  ∀ (s : State) (c : EngCmd) (op : LaneOp) (f : LaneFields),
    let k := s.cur.a
    let core := s.coreOf k
    let q := s.core core
    (Turn s c op f → c.started = false → movesOn (s.grp k) c.tiles = false → scratchStoreDue s k c.op = false →
      (op ∉ [LaneOp.encTc, .embG, .embR, .gbulk] → Answers (exec .engineCmdStart s) (fun t => t.hbm = s.hbm ∧ t.l2 = s.l2 ∧ t.cores = s.cores ∧
        CmdIs t k c.op (fun y => y.started = true ∧ y.step = c.step ∧ y.finished = false))) ∧
      (∀ blk b s', op = .encTc → immAcq f = false → readBlock s k c = .ok blk s' → ppoison blk = false → parseEnc blk = some b →
        Answers (exec .engineCmdStart s) (fun t => CmdIs t k c.op (fun y => y.started = true ∧ y.step = 0 ∧ y.aux = 1)))) ∧
    (Turn s c op f → OnEngine s → c.started = true → isDense op = true → f.xmod.getLsbD 0 = false →
      let at_ := 128 * (f.vd.toNat % 16) + immC0 f + 16 * c.step
      let dst := physTile s k (at_ / 128)
      let n := columnBytes op
      let col (j : Nat) : BCol := denseColumn op (scratchRead s (s.grp k).team (c.opv1.toNat - ownBase + n * (16 * c.step + j)) n)
      let a (m : Nat) : List Nat := (aRow (s.grp k) f.va.toNat (packOf op) m).1
      let sa (m : Nat) : List Nat := if op = .tmmaE2m1 then (List.range 8).map (aScale (s.grp k) f.vc.toNat (f.xmod.toNat / 2 % 4) m) else []
      let acc (m j : Nat) : Word := q.tile dst m (at_ % 128 + j)
      let res (m j : Nat) : Word := if op = .tmmaI8 then (intTerm (a m) (col j) (acc m j) f.sat).1
        else BitVec.ofNat 32 ((evalOf fp32 (acc m j).toNat).add (denseTerm op (a m) (sa m) (col j))).round
      at_ % 128 ≤ 112 → Answers (exec .kStep s) (fun t => OtherTiles s t core dst ∧ t.hbm = s.hbm ∧ t.l2 = s.l2 ∧ (t.grp k).v = (s.grp k).v ∧
        (t.grp k).satf = (s.grp k).satf ∧ (∀ m j, m < 96 → j < 128 → (t.core core).tile dst m j =
          if c.act.getLsbD m = true ∧ at_ % 128 ≤ j ∧ j < at_ % 128 + 16 then res m (j - at_ % 128) else q.tile dst m j) ∧
        CmdIs t k c.op (fun y => y.step = c.step + 1 ∧ (y.finished = true ↔ c.opv2.toNat / 16 ≤ c.step + 1)))) ∧
    (Turn s c .tzero f → OnEngine s → c.started = true → let dst := physTile s k (f.vd.toNat % 16 + c.step)
      Answers (exec .tzeroStep s) (fun t => OtherTiles s t core dst ∧ t.hbm = s.hbm ∧ t.l2 = s.l2 ∧
        (∀ r j, r < 96 → j < 128 → (t.core core).tile dst r j = 0 ∧ (t.core core).granule dst r j = false) ∧
        CmdIs t k c.op (fun y => y.step = c.step + 1 ∧ (y.finished = true ↔ f.imm.toNat % 16 + 1 ≤ c.step + 1)))) ∧
    (∀ b, Turn s c .tres f → OnEngine s → c.started = true → heldBank q k (f.vd.toNat % 16) = some b → (q.bank b).init = true →
      let dst := physTile s k (f.vd.toNat % 16)
      dst ≠ b → AMap.wf 0 q.tiles = true → Answers (exec .tresStep s) (fun t => ((t.core core).bank b).owner = none ∧ t.hbm = s.hbm ∧ t.l2 = s.l2 ∧
        (∀ r j, r < 96 → j < 128 → (t.core core).tile dst r j = if c.opv1 = 0 then q.tile dst r j else q.tile b r j) ∧
        CmdIs t k c.op (fun y => y.finished = true))) ∧
    (∀ m, (s.grp k).moves.find? (fun m => decide (m.op = s.cur.b)) = some m → m.q < 4 →
      let dst := physTile s k m.tile
      Answers (exec .tilePortMove s) (fun t => Ended t k m.op ∧ (∀ y ∈ (t.grp k).moves, y.op ≠ m.op) ∧ t.hbm = s.hbm ∧ t.l2 = s.l2 ∧
        (m.load = true → t.cores = s.cores ∧ ∀ r l, l < 96 → (t.grp k).velt r l =
          if m.act.getLsbD l = true ∧ m.reg ≤ r ∧ r < m.reg + 32
          then ⟨q.tile dst l (32 * m.q + (r - m.reg)), q.granule dst l (32 * m.q + (r - m.reg))⟩ else (s.grp k).velt r l) ∧
        (m.load = false → (t.grp k).v = (s.grp k).v ∧ OtherTiles s t core dst ∧ ∀ l j, l < 96 → j < 128 → (t.core core).tile dst l j =
          if m.act.getLsbD l = true ∧ 32 * m.q ≤ j ∧ j < 32 * m.q + 32 then ((s.grp k).velt (m.reg + (j - 32 * m.q)) l).val
          else q.tile dst l j))) ∧
    (∀ blk b inp ms s1 s2 s3 s4, Turn s c .encTc f → OnEngine s → c.started = true →
      let asid := s.asidOf k
      let u := engineOf s k c.op
      readBlock s k c = .ok blk s1 → ppoison blk = false → parseEnc blk = some b → encInputs s1 u asid b c.step = .ok inp s2 →
      let w := rateG b.t.rate
      let ts := words inp.1 w
      ppoison inp.1 = false → ppoison inp.2 = false → (∀ x ∈ ts, isNan fp32 x = false ∧ isInf fp32 x = false) →
      isNan bf16 (pvalue inp.2) = false → isInf bf16 (pvalue inp.2) = false →
      stepMetrics s2 u asid b c.step c.aux c.aux2 = .ok ms s3 →
      let out := (List.range (2 ^ b.q)).map (bestBranch (rateA b.t.rate) (2 ^ b.q)
        (branchCost b.t.seed ts (List.replicate w (pvalue inp.2))) ms)
      storeStep s3 u asid b c.step out = .ok () s4 → Answers (exec .trellisStep s) (fun t => t.l2 = s4.l2 ∧ t.hbm = s4.hbm ∧
        CmdIs t k c.op (fun y => if c.step + 1 < b.steps then y.step = c.step + 1
          else if c.aux = 1 then y.step = 0 ∧ y.aux = 2 ∧ y.aux2 = leastState (out.map (·.1)) else y.finished = true))) ∧
    (∀ rest, (s.grp k).engq = c :: rest → c.part = some (op, f) → c.finished = true → c.stop = none → c.inflight = 0 → c.waitPage = none →
      teamHere s k = true → (op ∈ [LaneOp.encTc, .embG, .embR, .gbulk] → c.wrote = true ∧ immRel f = false) →
      Answers (exec .engineCmdEnd s) (fun t => OnlyGroup s { t with unitReqs := s.unitReqs } k ∧ Ended t k c.op ∧ ∀ y, y ∈ (t.grp k).engq ↔ y ∈ (s.grp k).engq ∧ y.op ≠ c.op))

/-- R337–R341, R355: EMB.G writes a row where its index's place is, EMB.R a bag's reduction; each step moves its cursor. GBULK sends its
next record to the unit that owns the record's vertex. -/
def Obligations.BlockSteps : Prop :=
  ∀ (s : State) (c : EngCmd) (f : LaneFields) (blk : List PByte) (s1 s2 s3 s4 s5 : State),
    let k := s.cur.a
    let asid := s.asidOf k
    let u := engineOf s k c.op
    c.started = true → readBlock s k c = .ok blk s1 → ppoison blk = false →
    (∀ b ib bs x, Turn s c .embG f → parseEmb s1 k false blk = some b → unitPeek s1 u asid (b.idx + 4 * c.step) 4 false = .ok ib s2 → ppoison ib = false →
      pickRow b (pvalue ib) = .row x → unitPeek s2 u asid (b.tbase + b.stride * x) b.rb true = .ok bs s3 →
      writePlace s3 u (b.dst + b.os * c.step) bs = .ok () s4 → Answers (exec .embGRow s) (fun t => t.l2 = s4.l2 ∧ t.hbm = s4.hbm ∧
        t.cores = s4.cores ∧ CmdIs t k c.op (fun y => y.step = c.step + 1 ∧ y.aux = c.aux ∧ (y.finished = true ↔ b.nidx ≤ c.step + 1)))) ∧
    (∀ b ob ib rows skips bs, Turn s c .embR f → parseEmb s1 k true blk = some b → unitPeek s1 u asid (b.offs + 4 * c.step) 8 false = .ok ob s2 →
      ppoison ob = false →
      let lo := pvalue (ob.take 4)
      let hi := pvalue (ob.drop 4)
      unitPeek s2 u asid (b.idx + 4 * lo) (4 * (hi - lo)) false = .ok ib s3 → ppoison ib = false → pickAll b (words ib (hi - lo)) = some (rows, skips) →
      readRows s3 asid b rows = .ok bs s4 → writePlace s4 u (b.dst + 4 * b.dim * c.step) (bagBytes b bs) = .ok () s5 →
      Answers (exec .embRBag s) (fun t => t.l2 = s5.l2 ∧ t.hbm = s5.hbm ∧ t.cores = s5.cores ∧
        CmdIs t k c.op (fun y => y.step = c.step + 1 ∧ y.aux = c.aux + skips ∧ (y.finished = true ↔ b.nbags ≤ c.step + 1)))) ∧
    (∀ b rb, Turn s c .gbulk f → c.asked = false → parseBulk blk = some b → c.step < b.count →
      unitPeek s1 u asid (b.list + 12 * c.step) 12 false = .ok rb s2 → ppoison rb = false → (∀ r ∈ s2.greqs, r.id < s2.nextId) →
      Answers (exec .gbulkRecord s) (fun t => CmdIs t k c.op (fun y => y.asked = true) ∧ ∃ r ∈ t.greqs, r.op = c.op ∧ r.grp = k ∧
        r.gid = b.gid ∧ r.vertex = blockField rb 0 4 ∧ r.other = blockField rb 4 4 ∧ r.attr = blockField rb 8 4 ∧
        r.kind = (if b.remove then .bulkDel else .bulkAdd) ∧ r.stage = .sent ∧ r.moving = true ∧ r.unit = graphOwner b.gid (blockField rb 0 4)))

namespace Sys2Proof.Claims

/-- The request b stands at a stage, at a unit that it has reached, and waits for no page. -/
def AtUnit (s : State) (r : GReq) (stage : GStage) : Prop :=
  findReq s s.cur.b = some r ∧ r.stage = stage ∧ r.moving = false ∧ r.waitPage = none

/-- Its number there is due (R346). -/
def GDue (s : State) (r : GReq) (stage : GStage) : Prop := AtUnit s r stage ∧ due s r = true

/-- The request has passed its unit. -/
def GPassed (t : State) (r : GReq) : Prop := AMap.get 0 t.gExpect (unitKey r.core r.unit) = r.num + 1

/-- The request is on its way to a stage at another unit (R195, R196). -/
def Goes (t : State) (r : GReq) (stage : GStage) (P : GReq → Prop) : Prop :=
  ∃ y ∈ t.greqs, y.id = r.id ∧ y.stage = stage ∧ y.moving = true ∧ P y

/-- The unit has answered, and the answer is on its way to the core (R343). -/
def Replies (t : State) (r : GReq) (a : GAns) : Prop :=
  Goes t r .answered (fun y => y.answer = some a) ∧ ∃ m ∈ t.fabric, m.body = .graphAns r.id r.core

/-- A lane of a graph word has its answer (R342, R343, R345): the request is gone, the registers and the status are written. -/
def Answered (t : State) (r : GReq) (x : GraphOp) (v0 v1 : Nat) : Prop :=
  let e (v : Nat) : LElt := ⟨BitVec.ofNat 32 v, false⟩
  (∀ y ∈ t.greqs, y.id ≠ r.id) ∧ (∀ w, x.vs = some w → (t.grp r.grp).velt w r.lane = e 0) ∧
    (x.vs ≠ some x.vd → (x.shape = .first ∨ x.shape = .pair → (t.grp r.grp).velt x.vd r.lane = e v0) ∧
      (x.shape = .second → (t.grp r.grp).velt x.vd r.lane = e v1)) ∧
    (x.vs ≠ some (x.vd + 1) → x.shape = .pair → (t.grp r.grp).velt (x.vd + 1) r.lane = e v1)

/-- No other cursor request of its group is waiting (R346). -/
def AloneCursor (s : State) (r : GReq) : Prop := ∀ y ∈ s.greqs, y.kind.ofCursor = true → y.grp = r.grp → y.id = r.id

/-- R187, R346, R347: a degree or a rank is read when its number is due; a read that fails answers with its status. -/
def GraphReads : Prop :=
  ∀ (s : State) (r : GReq), GDue s r .sent →
    (∀ d, r.kind = .degree d →
      (∀ x s', ((placeOf s r r.gid r.vertex).bind fun p s => readView s p) = .ok x s' → findReq s' r.id = some r →
        Answers (exec .graphRankRead s) (fun t => GPassed t r ∧ Replies t r ⟨gOk, if d then x.vert.inDeg else x.vert.outDeg, 0, none⟩)) ∧
      (∀ c s', ((placeOf s r r.gid r.vertex).bind fun p s => readView s p) = .status c s' →
        Answers (exec .graphRankRead s) (fun t => GPassed t r ∧ Replies t r ⟨c, 0, 0, none⟩))) ∧
    (∀ d p x e s1 s2, r.kind = .rank d → placeOf s r r.gid r.vertex = .ok p s1 → readView s1 p = .ok x s2 →
      (liveSlots (x.list d))[r.rank]? = some e → findReq s2 r.id = some r →
      Answers (exec .graphRankRead s) (fun t => GPassed t r ∧ Replies t r ⟨gOk, e.other, e.attr, none⟩))

/-- R195, R197: an add is checked at its source unit and asks for an in-list slot under the next number of its source unit there; the
slot is reserved in that order; the out-entry is appended, then the in-entry; a reservation is cancelled when the out-entry fails. -/
def GraphAdds : Prop :=
  ∀ (s : State) (r : GReq),
    let key := inKey r.asid r.gid r.srcUnit r.other
    (∀ e p x s1 s2 s3, GDue s r .sent → (r.kind = .add ∨ r.kind = .bulkAdd) →
      graphEntry s (graphUnit r.srcUnit r.id r.grp) r.asid r.gid = .ok e s1 → e.bound = true → r.vertex ≠ nullVertex → r.other ≠ nullVertex →
      r.vertex < e.vcount → r.other < e.vcount → placeOf s1 r r.gid r.vertex = .ok p s2 → readView s2 p = .ok x s3 →
      x.vert.outDeg < seqTop - 1 → findReq s3 r.id = some r → Answers (exec .reserveInSlot s) (fun t =>
        AMap.get 0 t.gExpect (unitKey r.core r.unit) = AMap.get 0 s.gExpect (unitKey r.core r.unit) ∧
        AMap.get 0 t.inSend key = AMap.get 0 s.inSend key + 1 ∧ Goes t r .asked (fun y => y.inNum = AMap.get 0 s.inSend key))) ∧
    (∀ a s', AtUnit s r .asked → inDue s r = true → reserveAt s r = .ok a s' → findReq s' r.id = some r →
      Answers (exec .reserveInSlot s) (fun t => AMap.get 0 t.inExpect key = r.inNum + 1 ∧
        Goes t r .reserved (fun y => y.rseg = a.seg ∧ y.rslot = a.slot ∧ y.took = a.took))) ∧
    (AtUnit s r .reserved →
      (r.status ≠ gOk → r.kind = .add → Answers (exec .outInsert s) (fun t => GPassed t r ∧ Replies t r ⟨r.status, 0, 0, none⟩)) ∧
      (∀ rank s', r.status = gOk → insertOut s r = .ok rank s' → findReq s' r.id = some r →
        Answers (exec .outInsert s) (fun t => GPassed t r ∧ Goes t r .outDone (fun y => y.rank = rank))) ∧
      (∀ c s', r.status = gOk → insertOut s r = .status c s' →
        Answers (exec .outInsert s) (fun t => GPassed t r ∧ Goes t r .cancel (fun y => y.status = c)))) ∧
    (∀ s', AtUnit s r .outDone → r.kind = .add → inDue s r = true → insertIn s r = .ok () s' → (findReq s' r.id).isSome = true →
      Answers (exec .inInsert s) (fun t => AMap.get 0 t.inExpect key = r.inNum + 1 ∧ Replies t r ⟨gOk, r.rank, 0, none⟩)) ∧
    (∀ s', AtUnit s r .cancel → r.kind = .add → inDue s r = true → r.status ≠ gWithdrawn → cancelAt s r = .ok () s' →
      Answers (exec .reserveCancel s) (fun t => AMap.get 0 t.inExpect key = r.inNum + 1 ∧ Replies t r ⟨r.status, 0, 0, none⟩))

/-- R196, R349: a removal takes its out-entry, then its in-entry; GDEL.IN reads its in-rank first. -/
def GraphRemovals : Prop :=
  ∀ (s : State) (r : GReq),
    (∀ e s', GDue s r .sent → r.kind = .del → removeOut s r = .ok e s' → findReq s' r.id = some r →
      Answers (exec .outRemove s) (fun t => GPassed t r ∧ Goes t r .outDone (fun y => y.other = e.other ∧ y.attr = e.attr))) ∧
    (∀ p x e s1 s2, GDue s r .sent → r.kind = .delIn → placeOf s r r.gid r.vertex = .ok p s1 → readView s1 p = .ok x s2 →
      (liveSlots x.ins)[r.rank]? = some e → findReq s2 r.id = some r → Answers (exec .inRankRemove s) (fun t => GPassed t r ∧
        Goes t r .inRank (fun y => y.vertex = e.other ∧ y.other = r.vertex ∧ y.attr = e.attr))) ∧
    (∀ e s', AtUnit s r .outDone → (r.kind = .del ∨ r.kind = .delIn) → inDue s r = true → removeIn s r = .ok e s' →
      (findReq s' r.id).isSome = true → Answers (exec .inRemove s) (fun t =>
        Replies t r ⟨gOk, if r.kind = .del then r.other else r.vertex, 0, none⟩))

/-- R201–R204, R350–R352: a cursor opens with a pin, yields its next entry or its end, and closes whatever its close reports. -/
def GraphCursors : Prop :=
  ∀ (s : State) (r : GReq), GDue s r .sent →
    let c := (s.grp r.grp).cursor r.cur r.lane
    (∀ live d v s', r.kind = .openCur live d → ((placeOf s r r.gid r.vertex).bind fun p s => pinAt s p (!live)) = .ok v s' →
      findReq s' r.id = some r → Answers (exec .cursorOpen s) (fun t => GPassed t r ∧ ∃ c, Replies t r ⟨r.status, 0, 0, some c⟩ ∧
        c.isOpen = true ∧ c.live = live ∧ c.inList = d ∧ c.gid = BitVec.ofNat 16 r.gid ∧ c.vertex = BitVec.ofNat 32 r.vertex ∧
          c.segpos = 0 ∧ c.atEnd = false ∧ c.seqs = if live then 0 else BitVec.ofNat 32 v.seq)) ∧
    (r.kind = .nextCur → c.atEnd = true → Answers (exec .cursorNext s) (fun t => GPassed t r ∧ Replies t r ⟨gOk, nullVertex, 0, none⟩)) ∧
    (∀ p x l s1 s2, r.kind = .nextCur → c.atEnd = false → placeOf s r c.gid.toNat c.vertex.toNat = .ok p s1 → readView s1 p = .ok x s2 →
      afterPosition (x.list c.inList) c = some l → findReq s2 r.id = some r →
      (l.find? (fun y => yields c y.2.2) = none → Answers (exec .cursorNext s) (fun t => GPassed t r ∧
        Replies t r ⟨gOk, nullVertex, 0, some { c with atEnd := true }⟩)) ∧
      (∀ y, l.find? (fun y => yields c y.2.2) = some y → Answers (exec .cursorNext s) (fun t => GPassed t r ∧
        Replies t r ⟨gOk, y.2.2.other, y.2.2.attr, some { c with segpos := BitVec.ofNat 32 (y.1 + 1), slot := BitVec.ofNat 4 y.2.1 }⟩))) ∧
    (r.kind = .closeCur →
      (∀ s', unpinAt s r c = .ok () s' → (findReq s' r.id).isSome = true →
        Answers (exec .cursorClose s) (fun t => GPassed t r ∧ Replies t r ⟨gOk, 0, 0, some closedCursor⟩)) ∧
      (∀ x s', unpinAt s r c = .status x s' →
        Answers (exec .cursorClose s) (fun t => GPassed t r ∧ Replies t r ⟨gCorrupt, 0, 0, some closedCursor⟩)))

/-- R343, R345: an answer that reaches its core writes its lane's registers, its status and its cursor. -/
def GraphAnswers : Prop :=
  ∀ (s : State) (m : Msg) (r : GReq) (c : Nat) (w : GraphOp) (a : GAns), AtEnd s m → m.body = .graphAns r.id c → findReq s r.id = some r →
    r.answer = some a → a.status = gOk → r.stage ≠ .closing → s.gops.find? (fun x => decide (x.op = r.op)) = some w → r.lane < 96 →
    (r.kind.ofCursor = true → AloneCursor s r ∧ r.cur < 8) → (a.cursor.isSome = true → r.kind.ofCursor = true) →
      Answers (exec .deliver s) (fun t => Answered t r w a.v0 a.v1 ∧
        ∀ x, a.cursor = some x → (t.grp r.grp).cursor r.cur r.lane = x)

/-- R194: a unit writes back what it holds of a line, and holds it no more; every other byte of the context's storage it still holds. -/
def GraphWriteBack : Prop :=
  ∀ (s s' : State) (unit : Nat) (bs : List (Nat × PByte)), heldGraph s s.cur.a = some (unit, bs) →
    unitPokeBytes s { graphUnit unit 0 0 with part := s.cur.a * 2 ^ 45 + lineOf ((bs.head?.map (·.1)).getD 0) + 1 } s.cur.a bs = .ok () s' →
      Answers (exec .graphWriteback s) (fun t => t.l2 = s'.l2 ∧ t.hbm = s'.hbm ∧
        (∀ b ∈ bs, (storeKey unit b.1, b.2.val) ∉ (t.ctx s.cur.a).gstore) ∧
        ∀ p ∈ (s.ctx s.cur.a).gstore, (∀ b ∈ bs, p ≠ (storeKey unit b.1, b.2.val)) → p ∈ (t.ctx s.cur.a).gstore)

end Sys2Proof.Claims

/-- R187, R194–R197, R201–R203, R343, R346, R347, R352: the graph units read, add, remove, move cursors and answer, each request when
its number is due; an answer is written where its word says; held storage is written back. -/
def Obligations.GraphUnitSteps : Prop :=
  Claims.GraphReads ∧ Claims.GraphAdds ∧ Claims.GraphRemovals ∧ Claims.GraphCursors ∧ Claims.GraphAnswers ∧ Claims.GraphWriteBack

/-- R105, R115, R121, R125, R364, R399: a group in its skid stops, an ended one gives up its place; records are read back and stored
as the stack asks; a watchdog that runs out halts the whole team; a restarted region begins again at its entry. -/
def Obligations.GroupEndSteps : Prop :=
  ∀ (s : State),
    let k := s.cur.a
    let g := s.grp k
    let asid := s.asidOf k
    (g.phase = .stopping → Answers (exec .groupHalt s) (fun t => OnlyGroup s t k ∧
      t.grp k = { g with phase := .halted, haltpc := some g.lastpos, haltslot := g.lastslot })) ∧
    ((s.teamOf k).state = .running → (s.teamOf k).preempt = false → g.phase = .running → draining g = true → g.laneq = [] → g.ops = [] →
      Answers (exec .exitComplete s) (fun t => OnlyGroup s t k ∧ (t.grp k).phase = .exited ∧ (t.grp k).team = g.team ∧
        (t.grp k).grpid = g.grpid ∧ (t.grp k).slot0.live = false ∧ (t.grp k).slot1.live = false)) ∧
    (∀ bs s', g.phase ≠ .halted → g.phase ≠ .saved → g.stackWait = none → g.drecs.length < 4 → 0 < g.dbelow →
      peek s asid (ptrAddr (g.ptr - BitVec.ofNat 48 (g.drecs.length + 1))) 16 = .ok bs s' → s'.groups = s.groups →
      Answers (exec .dsfillReadback s) (fun t => (t.grp k).drecs = g.drecs ++ [recordOf (bs.map (·.val))] ∧
        (t.grp k).dbelow = g.dbelow - 1 ∧ ((t.grp k).slot0.live = true → (t.grp k).slot0.reason ≠ .dsfill) ∧
        ((t.grp k).slot1.live = true → (t.grp k).slot1.reason ≠ .dsfill) ∧ t.l2 = s'.l2 ∧
        (t.grp k).s = g.s ∧ (t.grp k).v = g.v)) ∧
    (∀ rs r s', g.phase ≠ .halted → g.phase ≠ .saved → g.stackWait = none → g.drecs = rs ++ [r] → rs.length = 4 →
      poke s asid (ptrAddr (g.ptr - BitVec.ofNat 48 5)) ((recordBytes r).map (fun b => ⟨b, false⟩)) = .ok () s' → s'.groups = s.groups →
      Answers (exec .dsfillReadback s) (fun t => (t.grp k).drecs = rs ∧ (t.grp k).dbelow = g.dbelow + 1 ∧ t.l2 = s'.l2 ∧ t.hbm = s'.hbm ∧
        (t.grp k).s = g.s ∧ (t.grp k).v = g.v)) ∧
    (∀ p rest, watchdogDue s s.cur.a = true → (s.team s.cur.a).state = .running → liveGroups s s.cur.a = p :: rest →
      Answers (exec .watchdogExpire s) (fun t => (t.team s.cur.a).state = .halting ∧ (t.team s.cur.a).primgrp = some (s.grp p).grpid ∧
        t.hbm = s.hbm ∧ t.l2 = s.l2 ∧ ∀ j, (j ∈ p :: rest →
          (t.grp j).phase = .halted ∧ (t.grp j).trapcls = 9 ∧ (t.grp j).haltpc = some (s.grp j).lastpos ∧ (t.grp j).v = (s.grp j).v ∧
            (t.grp j).s = (s.grp j).s ∧ ((t.grp j).primary = true ↔ j = p)) ∧ (j ∉ p :: rest → t.grp j = s.grp j))) ∧
    (∀ m s', g.phase = .restarting → (s.teamOf k).state = .running → g.stackWait = none → (g.restart = none ∨ g.ops = []) →
      entryMask s k = .ok m s' → s'.groups = s.groups → Answers (exec .restartEntry s) (fun t =>
        let r := t.grp k
        r.phase = .running ∧ r.restart = none ∧ r.slot1.live = false ∧ r.slot0.live = true ∧ r.slot0.mask = m ∧
          r.slot0.ovlid = idemOvlid g.idempc ∧ r.slot0.pc = idemOff g.idempc ∧ r.room = idemEroom g.idempc ∧
          r.ptr = g.ptr - BitVec.ofNat 48 (restartPops g) ∧ (g.restart ≠ none → idemUsed r.idempc = true) ∧ r.s = g.s ∧ r.v = g.v ∧ r.p = g.p ∧
          ∀ j, j ≠ k → t.grp j = s.grp j))

/-- R129–R146: the store decides a load by its descriptor (an error, a slot already held, no room, a load started), evicts an overlay that
nothing pins, sets and clears a team's pins, makes a read image resident when its digest is right, and tries waiting reloads again. -/
def Obligations.OverlaySteps : Prop :=
  ∀ (s : State),
    let c := s.cur.a
    let q := s.core c
    (∀ k op d addr rest, q.ovlreqs = .load k op d addr :: rest →
      let asid := s.asidOf k
      let kn := s.kernelOf k
      (∀ st s', readDesc s asid kn.dirbase kn.dirlen addr = .bad st s' → Answers (exec .ovlLoadDecide s) (fun t =>
        Ended t k op ∧ RegIs t k ((s'.grp k).opSecond op) d ⟨statusKey st, false⟩ ∧ (t.core c).ovlreqs = (s'.core c).ovlreqs.drop 1)) ∧
      (∀ x s1, readDesc s asid kn.dirbase kn.dirlen addr = .ok x s1 →
        (∀ n s', decideLoad s1 c asid x = .held n s' → Answers (exec .ovlLoadDecide s) (fun t => Ended t k op ∧
          RegIs t k ((s'.grp k).opSecond op) d ⟨slotKey s' c n (BitVec.ofNat 16 x.ovlid), false⟩ ∧ (t.core c).ovlreqs = (s'.core c).ovlreqs.drop 1)) ∧
        (∀ b s', decideLoad s1 c asid x = .noroom b s' → Answers (exec .ovlLoadDecide s) (fun t => Ended t k op ∧
          RegIs t k ((s'.grp k).opSecond op) d ⟨statusKey 3, false⟩)) ∧
        (∀ n s', decideLoad s1 c asid x = .started n s' → Answers (exec .ovlLoadDecide s) (fun t => t.groups = s'.groups ∧
          (t.core c).storeSlot n = { (s'.core c).storeSlot n with waiters := [(k, op, d, BitVec.ofNat 16 x.ovlid)] } ∧
          (t.core c).ovlreqs = (s'.core c).ovlreqs.drop 1)))) ∧
    (∀ k op z d key rest, q.ovlreqs = .evict k op z d key :: rest →
      let asid := s.asidOf k
      let n := keySlot key
      let ends (w : DWord) (t : State) : Prop := (t.core c).ovlreqs = rest ∧ RegIs t k z d ⟨w, false⟩ ∧ ∀ b ∈ (t.grp k).sbusy, b.op ≠ op
      (keyValid s c asid key = false → Answers (exec .ovlEvRequest s) (fun t => ends 2 t ∧ (t.core c).store = q.store)) ∧
      (keyValid s c asid key = true → (q.storeSlot n).state = .loading ∨ pinned s c n = true →
        Answers (exec .ovlEvRequest s) (fun t => ends 1 t ∧ (t.core c).store = q.store)) ∧
      (keyValid s c asid key = true → (q.storeSlot n).state ≠ .loading → pinned s c n = false →
        Answers (exec .ovlEvRequest s) (fun t => ends 0 t ∧ isHolder ((t.core c).storeSlot n) asid = false ∧
          ∀ m, m ≠ n → (t.core c).storeSlot m = q.storeSlot m))) ∧
    (∀ k op z d key set rest, q.ovlreqs = .pin k op z d key set :: rest →
      let ends (w : DWord) (t : State) : Prop := (t.core c).ovlreqs = rest ∧ RegIs t k z d ⟨w, false⟩ ∧ ∀ b ∈ (t.grp k).sbusy, b.op ≠ op
      (keyValid s c (s.asidOf k) key = false → Answers (exec .teamPinUpdate s) (fun t => ends 1 t ∧ t.teams = s.teams)) ∧
      (keyValid s c (s.asidOf k) key = true → Answers (exec .teamPinUpdate s) (fun t => ends 0 t ∧
        ∀ m, m < 32 → (t.team (s.grp k).team).pins.getLsbD m = if m = keySlot key then set else (s.team (s.grp k).team).pins.getLsbD m))) ∧
    (∀ n rest bs s', q.imgReads = n :: rest →
      let x := q.storeSlot n
      peek s x.asid x.code x.bytes = .ok bs s' → s'.cores = s.cores → s'.groups = s.groups →
      (sha3_512 (bs.map (·.val)) = x.tag → x.doomed = false → Answers (exec .imageReadComplete s) (fun t =>
        let y := (t.core c).storeSlot n
        (t.core c).imgReads = rest ∧ y.state = .resident ∧ y.image = bs.map (·.val) ∧ y.gen = x.gen ∧ y.holders = x.holders ∧
          (∀ m, m ≠ n → (t.core c).storeSlot m = q.storeSlot m) ∧
          ∀ k op d o, x.waiters = [(k, op, d, o)] → Ended t k op ∧ RegIs t k ((s.grp k).opSecond op) d ⟨slotKey t c n o, false⟩)) ∧
      (sha3_512 (bs.map (·.val)) ≠ x.tag → Answers (exec .imageReadComplete s) (fun t => (t.core c).imgReads = rest ∧
        (t.core c).storeSlot n = { emptyStore with gen := x.gen } ∧
        ∀ k op d o, x.waiters = [(k, op, d, o)] → Ended t k op ∧ RegIs t k ((s.grp k).opSecond op) d ⟨statusKey 4, false⟩))) ∧
    (q.roomWait ≠ [] → Answers (exec .reloadRetry s) (fun t => (t.core c).roomWait = [] ∧ t.l2 = s.l2 ∧ t.hbm = s.hbm ∧
      ∀ k o z part, (k, o, z) ∈ q.roomWait → k ∈ groupsOn s c → (⟨o, z, none, part⟩ : Reload) ∈ (s.grp k).reloads →
        ((t.grp k).slot z).reason = .none ∧ (⟨o, z, none, part⟩ : Reload) ∉ (t.grp k).reloads))

namespace Sys2Proof.Claims

/-- Nothing keeps the team's image from being written: its groups have come to rest, its core has no dirty line of its context, its
records are stored, slots whose phase is complete wait no more, and the image's bytes have been taken by memory (R81, R115, R171, R181, R363). -/
def ImageWritten (s s1 s2 : State) (tm : Nat) : Prop :=
  let x := s.team tm
  let ks := liveGroups s tm
  ∃ s0, flushTeam s ks = .inr s0 ∧ s0.groups = s.groups ∧ s1 = releaseWaiters s0 tm ∧ ks ≠ [] ∧ x.waitPage = none ∧ (∀ k ∈ ks, (s.grp k).phase ≠ .stopping) ∧ withdrawOffers s tm = none ∧ ks.findSome? (withdraw s) = none ∧
    (∀ k ∈ ks, settled s k = true) ∧ linesToClean s x.core x.asid = [] ∧
    poke s1 x.asid (imageOf s1 tm) (imageBytes s1 tm) = .ok () s2 ∧ s2.groups = s1.groups ∧ s2.teams = s.teams ∧ s2.kernels = s.kernels

end Sys2Proof.Claims

/-- R81, R96, R104, R105, R123, R124, R329, R374, R401–R403: a request reaches a team's partitions; its image is written and it leaves its
core, or enters its handler, or faults its context; a returning team takes its image back; placed clusters start together; a team all
of whose groups have exited retires; the split of an empty core changes. -/
def Obligations.TeamSteps : Prop :=
  ∀ (s : State),
    let tm := s.cur.a
    let x := s.team tm
    let kn := s.kernel x.kernel
    (x.asked = true → (x.state = .running ∨ x.state = .halting) → Answers (exec .preemptRequest s) (fun t => t.groups = s.groups ∧
      t.team tm = { x with preempt := true, asked := false } ∧ ∀ u, u ≠ tm → t.team u = s.team u)) ∧
    (∀ s1 s2, ImageWritten s s1 s2 tm → (x.state = .saving ∨ (x.state = .running ∧ x.preempt = true)) →
      Answers (exec .teamImageWrite s) (fun t => t.l2 = s2.l2 ∧ t.hbm = s2.hbm ∧ (t.team tm).state = .saved ∧ (t.team tm).tiles = [] ∧
        (t.team tm).ways = [] ∧ (∀ u, u ≠ tm → t.team u = s.team u) ∧
        ∀ k ∈ liveGroups s tm, (t.grp k).phase = .saved ∧ (t.grp k).beside = some (besideOf (s1.grp k)))) ∧
    (∀ s1 s2, ImageWritten s s1 s2 tm → x.state = .halting → x.preempt = false →
      (hasHandler s2 tm = true → Answers (exec .teamHaltComplete s) (fun t =>
        let p := primaryOf s tm
        t.l2 = s2.l2 ∧ t.hbm = s2.hbm ∧ (t.team tm).state = .handler ∧ (t.team tm).kHalt = false ∧ (t.grp p).phase = .running ∧
          (t.grp p).slot0.live = true ∧ (t.grp p).slot0.mask = BitVec.allOnes 96 ∧ (t.grp p).slot0.ovlid = kn.entovl ∧
          (t.grp p).slot0.pc = idemHoff (s.grp p).idempc ∧ (t.grp p).slot1.live = false ∧
          (t.grp p).sraw 2 = ⟨BitVec.ofNat 64 (imageOf s tm), false⟩ ∧
          (t.grp p).sraw 3 = ⟨BitVec.ofNat 64 ((s.grp p).trapcls + 2 ^ 8 * (s.grp p).trapsub + 2 ^ 16 * (s.grp p).grpid), false⟩ ∧
          (t.grp p).v = (s.grp p).v)) ∧
      (hasHandler s2 tm = false → (s2.ctx x.asid).state = .active → Answers (exec .teamHaltComplete s) (fun t =>
        t.l2 = s2.l2 ∧ t.hbm = s2.hbm ∧ (t.ctx x.asid).state = .faulted ∧ (t.ctx x.asid).sub = 2))) ∧
    (∀ s1 sent bs s2, x.state = .restoring → x.waitPage = none →
      cleanStep s x.core x.asid (linesOf (imageOf s tm) (imgSize kn)) = (s1, [], sent) →
      peek s1 x.asid (imageOf s1 tm) (imgSize kn) = .ok bs s2 → headerOk kn bs = true →
      s2.groups = s.groups → s2.teams = s.teams → s2.kernels = s.kernels →
      Answers (exec .teamRestore s) (fun t => t.l2 = s2.l2 ∧ t.hbm = s2.hbm ∧ (t.team tm).state = .running ∧ (t.team tm).primgrp = none ∧
        (t.team tm).kHalt = false ∧ (t.team tm).kHandler = false ∧
        ∀ i, i < kn.groups → (s.grp (groupKey tm i)).phase ≠ .exited →
          let rec0 := bs.drop (groupArea kn + i * groupBytes kn)
          ∀ r l, r < kn.regs → l < 96 → (t.grp (groupKey tm i)).velt r l =
            ⟨BitVec.ofNat 32 (field rec0 (0x4000 + 4 * (96 * r + l)) 4), fieldPoison rec0 (0x4000 + 4 * (96 * r + l)) 4⟩)) ∧
    (x.state = .placed → (membersOf s tm).length = kn.csize → (∀ m ∈ membersOf s tm, (s.team m).state = .placed ∧ (s.team m).kHalt = false) →
      Answers (exec .clusterGangStart s) (fun t => t.hbm = s.hbm ∧ t.l2 = s.l2 ∧ ∀ m ∈ membersOf s tm, (t.team m).state = .running ∧
        ∀ k ∈ liveGroups s m, (s.grp k).phase = .waiting → (s.grp k).beside = none →
          let sl := (s.grp k).slot0
          t.grp k = { s.grp k with phase := .running, slot0 := { sl with ok := if sl.entered then okWord s k sl.islot sl.ovlid else sl.ok } })) ∧
    ((x.state = .running ∨ x.state = .halting) → liveGroups s tm = [] → x.widerOut = [] → Answers (exec .teamRetire s) (fun t => t.groups = s.groups ∧ t.hbm = s.hbm ∧ t.l2 = s.l2 ∧
      (t.team tm).state = .retired ∧ (t.team tm).tiles = [] ∧ (t.team tm).pins = 0 ∧ (t.kernel x.kernel).retired = kn.retired + 1 ∧
      (kn.retired + 1 = kn.teams → kn.state = .running → (t.kernel x.kernel).state = .completing) ∧
      ((∃ m ∈ membersOf s tm, m ≠ tm ∧ (s.team m).state ≠ .retired) → (t.team tm).ways = x.ways))) ∧
    (let c := s.cur.a
     let q := s.core c
     ∀ w, q.newSplit = some w → teamsOn s c = [] → groupsOn s c = [] →
      (q.split < w → (∀ p ∈ allLines s c, (∀ x, l1Line s c p.1 p.2 = some x → 20 - w ≤ x.way) → unclean s c p.1 p.2 = false) →
        Answers (exec .wayConversion s) (fun t => t.core c = { q with l1 := q.l1.filter (fun p => decide (p.2.way < 20 - w)), split := w, newSplit := none } ∧ t.groups = s.groups ∧ t.hbm = s.hbm ∧ t.l2 = s.l2)) ∧
      (w ≤ q.split → Answers (exec .wayConversion s) (fun t => (t.core c).split = w ∧ (t.core c).newSplit = none ∧ (t.core c).l1 = q.l1 ∧
        t.groups = s.groups ∧ t.hbm = s.hbm ∧ t.l2 = s.l2 ∧
        ∀ key, AMap.get 0 (t.core c).scratch key = if key / wayBytes < 20 - w then 0 else AMap.get 0 q.scratch key)))

namespace Sys2Proof.Claims

/-- The host's write reaches the device, which takes it, no earlier posted write of the host still to be performed (R170, R391, R457,
R459). -/
def HostHere (s : State) : Prop := s.link = .up ∧ s.power = 0 ∧ s.regs.ready = true ∧ postedAhead s = false

/-- A command of CTXCMD on a context in this state is taken (R77). -/
def CtxMay (s : State) (st : CState) : Prop :=
  HostHere s ∧ s.regs.ctxBusy = false ∧ cmdCtx s.cur.val ≠ 0 ∧ (s.ctx (cmdCtx s.cur.val)).state = st

/-- It has ended without an error, and CTXSTAT says so. -/
def CtxDone (t : State) (asid : Nat) (st : CState) : Prop :=
  (t.ctx asid).state = st ∧ t.regs.ctxBusy = false ∧ t.regs.ctxErr = 0 ∧ t.regs.ctxAsid = asid ∧ t.regs.ctxState = cStateCode st

end Sys2Proof.Claims

/-- R69–R79: each command of CTXCMD in a state it is allowed in: the descriptor is asked for, the context becomes Active with its
bindings cached, suspension and destruction take its queues' slots and ask its teams to leave, a dead context is free again, a query
reports; suspension is over when every team is saved, teardown when nothing of the context is left. -/
def Obligations.ContextSteps : Prop :=
  ∀ (s : State),
    let asid := cmdCtx s.cur.val
    let asks (op : Nat) (quota : Bool) (t : State) : Prop := t.ctxCmd = some (op, asid) ∧ t.regs.ctxBusy = true ∧ t.ctxs = s.ctxs ∧
      t.hostOut = s.hostOut ++ [.readReq 0 s.regs.ctxarg.toNat 128] ∧ t.hostWait = s.hostWait ++ [.ctxDesc quota] ∧ t.groups = s.groups
    let binds (es : List BindEnt) : AMap BindEnt := ((List.range es.length).zip es).filter (fun p => p.2.valid)
    (CtxMay s .free → s.regs.ctxarg.toNat % 128 = 0 → Answers (exec .ctxCreate s) (asks 1 false)) ∧
    ((CtxMay s .active ∨ CtxMay s .suspended) → s.cur.flag = false → s.regs.ctxarg.toNat % 128 = 0 →
      Answers (exec .ctxQuota s) (asks 7 true)) ∧
    (∀ es s', readBinds s asid (List.range 1024) = .ok es s' → s.cur.flag = false →
      (CtxMay s .created → Answers (exec .ctxEnable s) (fun t => CtxDone t asid .active ∧ (t.ctx asid).binds = binds es ∧ (t.ctx asid).gents = [])) ∧
      (CtxMay s .suspended → Answers (exec .ctxResume s) (fun t => CtxDone t asid .active ∧ (t.ctx asid).binds = binds es ∧ (t.ctx asid).gents = [] ∧
        ∀ n, (s'.ctx asid).newQuota = some n → (t.ctx asid).frameq = n.1 ∧ (t.ctx asid).scrq = n.2.1 ∧ (t.ctx asid).qslotq = n.2.2))) ∧
    (CtxMay s .active → Answers (exec .ctxSuspend s) (fun t => CtxDone t asid .suspending ∧ t.groups = s.groups ∧
      (∀ q, (s.queue q).asid = asid → (s.queue q).state ≠ .free → (t.queue q).slot = none) ∧
      (∀ u, (s.team u).asid = asid → (s.team u).state = .running → (t.team u).asked = true))) ∧
    ((s.ctx s.cur.a).state = .suspending → (s.ctx s.cur.a).gstore = [] → (∀ u ∈ teamsOf s s.cur.a, onCore (s.team u) = false) →
      (∀ x ∈ farLines s s.cur.a (fun _ => true), x.2.dirty = 0) → farAway s s.cur.a (fun _ => true) = false →
      Answers (exec .suspendComplete s) (fun t => (t.ctx s.cur.a).state = .suspended)) ∧
    ((CtxMay s .created ∨ CtxMay s .suspended ∨ CtxMay s .faulted) → Answers (exec .ctxDestroy s) (fun t => CtxDone t asid .dying ∧
      t.groups = s.groups ∧ (∀ q, (s.queue q).asid = asid → (t.queue q).state = .free))) ∧
    (CtxMay s .dead → Answers (exec .ctxReclaim s) (fun t => CtxDone t asid .free ∧ t.groups = s.groups)) ∧
    (∀ st, CtxMay s st → Answers (exec .ctxQuery s) (fun t => CtxDone t asid st ∧ t.ctxs = s.ctxs ∧ t.groups = s.groups)) ∧
    ((s.ctx s.cur.a).state = .dying → (s.ctx s.cur.a).gstore = [] → toEnd s s.cur.a = false → toSweep s s.cur.a = false → inFlight s s.cur.a = false →
      Answers (exec .teardownComplete s) (fun t => (t.ctx s.cur.a).state = .dead ∧ t.hbm = s.hbm ∧ t.l2 = s.l2))

namespace Sys2Proof.Claims

/-- A command of QCMD is taken (R88). -/
def QueueMay (s : State) (st : QState) : Prop := HostHere s ∧ s.regs.qBusy = false ∧ (s.queue (cmdQid s.cur.val)).state = st

/-- It has ended without an error. -/
def QueueDone (t : State) (qid : Nat) (st : QState) : Prop :=
  (t.queue qid).state = st ∧ t.regs.qBusy = false ∧ t.regs.qErr = 0 ∧ t.regs.qQid = qid ∧ t.regs.qState = qStateCode st

end Sys2Proof.Claims

/-- R85–R101: each command of QCMD in a state it is allowed in; a doorbell asks for WR, which only rises; the packet at the head is
checked and waits, or is rejected and halts its queue; slots are mapped, taken at the end of a quantum and released; a LAUNCH is copied
into its ring and raises WR, or answers 0 when the ring is full. -/
def Obligations.QueueSteps : Prop :=
  ∀ (s : State),
    let qid := cmdQid s.cur.val
    let asid := cmdAsid s.cur.val
    (∀ bs s1 rd s2, QueueMay s .free → s.cur.flag = false →
      ((s.ctx asid).state = .created ∨ (s.ctx asid).state = .active ∨ (s.ctx asid).state = .suspended) →
      s.regs.qarg.toNat % 64 = 0 → s.regs.qarg.toNat + 64 ≤ linearEnd → peek s asid s.regs.qarg.toNat 64 = .ok bs s1 →
      queueDescOk (s1.ctx asid) bs = true → peek s1 asid (field bs 0x18 8) 8 = .ok rd s2 → Answers (exec .qRegister s) (fun t =>
        let q := t.queue qid
        QueueDone t qid .disabled ∧ q.asid = asid ∧ q.ring = field bs 0 8 ∧ q.log2n = field bs 8 1 ∧ q.prio = field bs 9 1 ∧
          q.wraddr = field bs 0x10 8 ∧ q.rdaddr = field bs 0x18 8 ∧ q.rd = BitVec.ofNat 64 (pvalue rd) ∧ q.wr = q.rd)) ∧
    (QueueMay s .disabled → Answers (exec .qEnable s) (fun t => QueueDone t qid .enabled ∧ (t.queue qid).bell = true)) ∧
    ((QueueMay s .enabled ∨ QueueMay s .halted) → (s.queue qid).head ≠ .dispatching → Answers (exec .qDisable s) (fun t =>
      QueueDone t qid .disabled ∧ (t.queue qid).slot = none ∧ (t.queue qid).bell = false)) ∧
    (QueueMay s .halted → Answers (exec .qResume s) (fun t => QueueDone t qid .enabled ∧ (t.queue qid).lastst = 0 ∧
      (t.queue qid).rd = (s.queue qid).rd)) ∧
    (QueueMay s .halted → Answers (exec .qSkip s) (fun t => QueueDone t qid .enabled ∧ (t.queue qid).rd = (s.queue qid).rd + 1 ∧
      (t.queue qid).prevDone = true)) ∧
    (QueueMay s .disabled → s.cur.flag = false → (s.queue qid).head ≠ .dispatching → Answers (exec .qUnregister s) (fun t => QueueDone t qid .free)) ∧
    (∀ st, QueueMay s st → Answers (exec .qQuery s) (fun t => QueueDone t qid st ∧ t.queues = s.queues ∧ t.groups = s.groups)) ∧
    (let n := s.cur.val.toNat % 4096
     HostHere s → s.cur.flag = false → (s.queue n).state = .enabled → (s.queue n).devlaunch = false → Answers (exec .qbell s) (fun t =>
      t.queue n = { s.queue n with bell := true } ∧ t.groups = s.groups)) ∧
    (let n := s.cur.a
     let q := s.queue n
     (∀ bs s', s.cur.flag = true → q.bell = true → q.state = .enabled → pagePending s q.asid q.wraddr = false →
      peek s q.asid q.wraddr 8 = .ok bs s' → ppoison bs = false → Answers (exec .qbell s) (fun t => (t.queue n).bell = false ∧
        (q.wr.toNat < pvalue bs → (t.queue n).wr = BitVec.ofNat 64 (pvalue bs)) ∧ (pvalue bs ≤ q.wr.toNat → (t.queue n).wr = q.wr))) ∧
     (∀ bs s', q.slot ≠ none → q.taken = false → q.bell = false → q.head = .none → q.state = .enabled → wantsSlot s q = true →
      peek s q.asid (packetAddr q q.rd.toNat) 128 = .ok bs s' →
      (∀ kn t', checkPacket s' q n bs = .ok kn t' → Answers (exec .packetHeadCheck s) (fun t => (t.queue n).head = .waiting ∧
        (t.queue n).kernel = t'.nextId ∧ t.kernel t'.nextId = kn)) ∧
      (∀ code t', checkPacket s' q n bs = .bad code t' → Answers (exec .packetHeadCheck s) (fun t => (t.queue n).state = .halted ∧
        (t.queue n).lastst = code ∧ (t.queue n).slot = none ∧ (t.queue n).head = .none)))) ∧
    (∀ q n, pickQueue s false (waitsForSlot s) = some q → freeSlot s = some n → Answers (exec .slotMap s) (fun t =>
      t.slots = AMap.put s.slots n q ∧ (t.queue q).slot = some n ∧ (t.queue q).bell = true ∧ t.groups = s.groups)) ∧
    (∀ n q, s.slots.find? (fun p => decide (p.1 = s.cur.a)) = some (n, q) →
      ((s.queue q).taken = false → quantumTakes s q = true → Answers (exec .quantumExpiry s) (fun t =>
        t.queue q = { s.queue q with taken := true } ∧ t.groups = s.groups)) ∧
      ((s.queue q).taken = true ∨ wantsSlot s (s.queue q) = false → Answers (exec .slotDrainComplete s) (fun t =>
        (t.queue q).slot = none ∧ t.groups = s.groups))) ∧
    (∀ r s1 sent, s.launches.find? (fun r => decide (r.op = s.cur.b)) = some r →
      (s.queue r.queue).bell = false → (s.grp r.grp).anyPending r.after = false →
      (s.queue r.queue).state = .enabled → (s.queue r.queue).devlaunch = true → (s.queue r.queue).asid = s.asidOf r.grp → r.addr % 128 = 0 →
      let full : Prop := (s.queue r.queue).wr.toNat - (s.queue r.queue).rd.toNat = 2 ^ (s.queue r.queue).log2n
      (full → (∃ b ∈ (s.grp r.grp).sbusy, b.op = r.op) → Answers (exec .launchAppend s) (fun t => RegIs t r.grp r.second r.sd ⟨0, false⟩ ∧
        (∀ x ∈ t.launches, x.op ≠ r.op) ∧ t.queues = s.queues ∧ t.hbm = s.hbm ∧ t.l2 = s.l2)) ∧
      (∀ bs s2 s3 s4, ¬ full → cleanStep s (s.coreOf r.grp) (s.asidOf r.grp) (linesOf r.addr 128) = (s1, [], sent) →
        s1.queues = s.queues → r.addr + 128 ≤ linearEnd →
        let q := s.queue r.queue
        peek s1 q.asid r.addr 128 = .ok bs s2 → poke s2 q.asid (packetAddr q q.wr.toNat) bs = .ok () s3 →
        poke s3 q.asid q.wraddr (cleanBytes 8 (q.wr.toNat + 1)) = .ok () s4 → (∃ b ∈ (s4.grp r.grp).sbusy, b.op = r.op) →
        Answers (exec .launchAppend s) (fun t => RegIs t r.grp r.second r.sd ⟨q.wr + 1, false⟩ ∧ (t.queue r.queue).wr = q.wr + 1 ∧
          (∀ x ∈ t.launches, x.op ≠ r.op) ∧ t.l2 = s4.l2 ∧ t.hbm = s4.hbm)))

/-- R93–R98, R102–R106: a met dependence is noted; a MARKER passes out of the ring and completes, a kernel that finds no place yet is
dispatched; a placed cluster is counted; a kernel that waits for resources asks the lowest-priority team to leave; a kernel whose teams have
retired and whose lines are clean publishes STATUS, then DONE. -/
def Obligations.KernelSteps : Prop :=
  ∀ (s : State),
    let kh := s.cur.a
    let n := s.kernel kh
    (∀ s', n.state = .waiting → hasSlot s kh = true → ctxActive s n.asid = true → n.met0 = false → n.met1 = true →
      depMet s n.asid n.dep0 n.dep0v = (true, s') → Answers (exec .depPoll s) (fun t => t.kernel kh = { n with met0 := true } ∧ t.l2 = s'.l2 ∧
        t.hbm = s'.hbm)) ∧
    (dispatchable s kh = true → coopAhead s kh = false →
      (∀ s', n.marker = true → advanceRd s n.queue = (s', true) → s'.kernels = s.kernels → Answers (exec .dispatchStart s) (fun t =>
        (t.kernel kh).state = .completing ∧ (t.queue n.queue).head = .none ∧ (t.queue n.queue).prevDone = false ∧ t.l2 = s'.l2)) ∧
      (n.marker = false → n.coop = false → s.power = 0 → placeAll s n (membersNow s kh) = none → Answers (exec .dispatchStart s) (fun t =>
        (t.kernel kh).state = .dispatching ∧ (t.queue n.queue).head = .dispatching ∧ t.groups = s.groups ∧ t.cores = s.cores))) ∧
    (∀ p s' p', mayPlace s kh = true → s.power = 0 →
      let mss := membersNow s kh
      let n1 := placedMore n (clustersNow n) (coresOf p mss)
      placeAll s n mss = some p → askSplits s n (coresOf p mss) = none → loadEntries s kh (coresOf p mss) = .ready s' →
      placeAll s' n mss = some p' → s'.kernel kh = n → coresOf p' mss = coresOf p mss → ((nextCluster n1).isSome = true ∨ n.state = .running) →
      Answers (exec .teamPlace s) (fun t => t.kernel kh = n1 ∧ t.teams = p'.teams ∧ t.nextId = p'.nextId + n.teams)) ∧
    (∀ u, slotPreempt s n = true → mayPlace s kh = true → placeAll s n (membersNow s kh) = none →
      victimTeam s n.prio = some u → (s.team u).state = .running → Answers (exec .priorityPreempt s) (fun t => (t.team u).asked = true ∧
        t.groups = s.groups ∧ t.kernels = s.kernels)) ∧
    ((s.ctx n.asid).state ≠ .faulted → n.state = .completing →
      (n.toClean = none → Answers (exec .kernelComplete s) (fun t => t.kernel kh = { n with toClean := some (dirtyLines s n.asid) } ∧
        t.l2 = s.l2 ∧ t.hbm = s.hbm)) ∧
      (∀ s', n.toClean = some [] → n.told = false → schedWrite s (schedWord n.asid (n.packet + 0x58) 4 1) = (s', true) →
        Answers (exec .kernelComplete s) (fun t => t.kernel kh = { n with told := true } ∧ t.l2 = s'.l2 ∧ t.hbm = s'.hbm)) ∧
      (∀ s', n.toClean = some [] → n.told = true →
        (n.sys = true → (∀ x ∈ farLines s n.asid (fun _ => true), x.2.dirty = 0) ∧ farAway s n.asid (fun _ => true) = false) →
        ((n.done = 0 ∧ s' = s) ∨ (n.done ≠ 0 ∧ schedWrite s ⟨n.asid, lineOf n.done, [], some (n.done % 128, n.sys), notMapped⟩ = (s', true))) →
        Answers (exec .kernelComplete s) (fun t => (t.kernel kh).state = .complete ∧ t.l2 = s'.l2 ∧ t.hbm = s'.hbm))) ∧
    (∀ s', (s.ctx n.asid).state = .faulted → n.state = .running →
      schedWrite s (schedWord n.asid (n.packet + 0x58) 4 2) = (s', true) → Answers (exec .kernelComplete s) (fun t =>
        (t.kernel kh).state = .aborted ∧ t.l2 = s'.l2 ∧ t.hbm = s'.hbm))

namespace Sys2Proof.Claims

/-- Hops between two routers of the mesh (R375). -/
def hops (a b : Nat) : Nat := (a % 12 - b % 12) + (b % 12 - a % 12) + (a / 12 - b / 12) + (b / 12 - a / 12)

/-- Of the packets in the fabric, this one alone is changed. -/
def Packet (s t : State) (id : Nat) (f : Msg → Msg) : Prop := t.fabric = s.fabric.map (fun m => if m.id = id then f m else m)

/-- A read's completion goes to the host (R8). -/
def Completes (s t : State) (v : DWord) : Prop := t.hostOut = s.hostOut ++ [.completion (leBytes 8 v.toNat)]

/-- A holder of the map other than this one has not adopted the move. -/
def StillMoving (m : BucketMove) (h : Nat) : Prop := ∃ x ∈ mapHolders, x ≠ h ∧ x ∉ m.adopted

end Sys2Proof.Claims

/-- R375–R387: a packet's hop takes it nearer to its destination; suspects enter the weep lanes where the keystone is held, which is captured,
passed on and made anew; a bucket's move is adopted, its lines leave their old slice, requests that arrive there go on with their number; the
commands of SMAPCMD begin moves, retire a slice, read an entry. -/
def Obligations.FabricSteps : Prop :=
  ∀ (s : State),
    let v := s.cur.val
    (∀ m, findMsg s.fabric s.cur.b = some m →
      (∀ r, s.cur.c ≠ 1 → m.weep = false → meshHop m s.cur.flag = some r → Answers (exec .routePacket s) (fun t =>
        Packet s t m.id (fun x => { x with router := r, inj := none, suspect := false, late := false }) ∧ hops r (destRouter m) + 1 = hops m.router (destRouter m) ∧
        t.groups = s.groups ∧ t.arrived = s.arrived)) ∧
      (∀ r, s.cur.c ≠ 1 → m.weep = true → weepHop m.router (destRouter m) = some r → weepRoom s m r = true →
        Answers (exec .routePacket s) (fun t => Packet s t m.id (fun x => { x with router := r, inj := none }) ∧
          hops r (destRouter m) + 1 = hops m.router (destRouter m))) ∧
      (s.cur.c = 1 → (nextSuspect s m.router).map (·.id) = some m.id → Answers (exec .routePacket s) (fun t =>
        Packet s t m.id (fun x => { x with weep := true, suspect := false, inj := none }) ∧ t.regs.weeppkt = satInc 24 s.regs.weeppkt)) ∧
      (m.weep = false → m.suspect = false → m.late = false → Answers (exec .packetSuspect s) (fun t =>
        t.fabric = s.fabric.filter (fun x => decide (x.id ≠ m.id)) ++ [{ m with suspect := true }])) ∧
      (m.late = true → weepRoom s m m.router = true → Answers (exec .weepReplyTimeout s) (fun t =>
        Packet s t m.id (fun x => { x with late := false, weep := true, inj := none })))) ∧
    (∀ k, s.keystones[s.cur.b]? = some k →
      let r := nextRing k.router
      (k.held = false → olderEpoch k.epoch (seenAt s r) = true → Answers (exec .keystoneArrival s) (fun t =>
        t.keystones = s.keystones.eraseIdx s.cur.b ∧ t.kseen = s.kseen ∧ t.regs = s.regs)) ∧
      (k.held = false → olderEpoch k.epoch (seenAt s r) = false → Answers (exec .keystoneArrival s) (fun t => t.fabric = s.fabric ∧
        seenAt t r = k.epoch ∧ (∀ j, j ≠ r → seenAt t j = seenAt s j) ∧ ∃ y, t.keystones = s.keystones.set s.cur.b y ∧ y.router = r ∧
          y.epoch = k.epoch ∧ (y.held = true ↔ s.regs.ken = true ∧ suspectsAt s r ≠ []) ∧
          t.regs.kcapt = (if y.held then satInc 24 s.regs.kcapt else s.regs.kcapt))) ∧
      (k.held = true → Answers (exec .keystoneHoldExpire s) (fun t => t.keystones = s.keystones.set s.cur.b { k with held := false } ∧
        t.fabric = s.fabric))) ∧
    Answers (exec .keystoneRegenerate s) (fun t => t.keystones = s.keystones ++ [⟨0, seenAt s 0 + 1, false⟩] ∧ seenAt t 0 = seenAt s 0 + 1 ∧
      t.regs.kregen = satInc 8 s.regs.kregen ∧ t.fabric = s.fabric ∧ t.groups = s.groups ∧
      (s.link = .up → ∃ r ∈ t.records, r.kind = 5 ∧ r.cls = 0x21 ∧ r.sub = 1)) ∧
    (HostHere s → Answers (exec .fabcntRead s) (fun t =>
      Completes s t (s.regs.weeppkt ++ s.regs.kcapt ++ s.regs.kregen ++ (0 : BitVec 8)) ∧ t.regs.weeppkt = 0 ∧ t.regs.kcapt = 0 ∧ t.regs.kregen = 0)) ∧
    (∀ m, moveNow s s.cur.b = some m → s.cur.a ∈ mapHolders → s.cur.a ∉ m.adopted → StillMoving m s.cur.a → Answers (exec .mapAdopt s) (fun t =>
      ∃ y ∈ t.moves, y.bucket = m.bucket ∧ y.new = m.new ∧ y.adopted = m.adopted ++ [s.cur.a] ∧ y.handed = m.handed)) ∧
    (∀ m, moveNow s s.cur.a = some m → m.handed = false → (∃ h ∈ mapHolders, h ∉ m.adopted) → Answers (exec .bucketHandover s) (fun t =>
      (∃ y ∈ t.moves, y.bucket = m.bucket ∧ y.handed = true ∧ y.new = m.new) ∧ t.groups = s.groups ∧
        ∀ asid line, line < 2 ^ 45 → bucketOf asid line = m.bucket → l2Line t asid line = none)) ∧
    (∀ m q dest, findMsg s.arrived s.cur.b = some m → m.body = .req q → atPeer s m = false →
      ((∃ y, moveNow s (bucketOf m.asid m.line) = some y ∧ y.new = dest) ∨
        (moveNow s (bucketOf m.asid m.line) = none ∧ owner s (bucketOf m.asid m.line) = dest)) → dest ≠ m.slice →
      Answers (exec .stubForward s) (fun t => t.arrived = s.arrived.filter (fun x => decide (x.id ≠ m.id)) ∧
        ∃ y, t.fabric = s.fabric ++ [y] ∧ y.id = m.id ∧ y.num = m.num ∧ y.body = m.body ∧ y.asid = m.asid ∧ y.line = m.line ∧ y.slice = dest)) ∧
    (HostHere s → s.regs.smapBusy = false →
      Answers (exec .smapRead s) (fun t => t.regs.smapData = owner s (smapBucket v) ∧ t.regs.smapErr = 0 ∧ t.moves = s.moves ∧ t.smap = s.smap) ∧
      (let n := v.toNat / 2 ^ 32 % 1024
       deadSlice s (smapSlice v) = false → smapBucket v + n ≤ 1023 → Answers (exec .smapMove s) (fun t =>
        ∀ b, smapBucket v ≤ b → b ≤ smapBucket v + n → owner s b ≠ smapSlice v → t.regs.smapBusy = true ∧
          (⟨b, owner s b, smapSlice v, [], false⟩ : BucketMove) ∈ t.moves)) ∧
      (deadSlice s (smapSlice v) = true → Answers (exec .smapMove s) (fun t => t.regs.smapErr = 2 ∧ t.moves = s.moves)) ∧
      (let n := smapSlice v
       deadSlice s n = false → s.retired.length < 95 →
        ((∃ b, b < 1024 ∧ owner s b = n) → Answers (exec .smapRetire s) (fun t => t.retiring = some n ∧ t.regs.smapBusy = true ∧
          (∀ b, b < 1024 → owner s b = n → ∃ y ∈ t.moves, y.bucket = b ∧ y.old = n) ∧
          ∀ y ∈ t.moves, y.new < 96 ∧ y.new ≠ n ∧ y.new ∉ s.retired)) ∧
        ((∀ b, b < 1024 → owner s b ≠ n) → Answers (exec .smapRetire s) (fun t => t.retired = s.retired ++ [n] ∧ t.retiring = none))))

namespace Sys2Proof.Claims

/-- An access that has asked for its lines stands at its port, with the context and address its window gave it (R152, R389). -/
def AtPort (s' : State) (link : Option Nat) (asid va : Nat) (P : PortReq → Prop) (t : State) : Prop :=
  t.hostOut = s'.hostOut ∧ ∃ y, t.ports = s'.ports ++ [y] ∧ y.link = link ∧ y.win = none ∧ y.phys = false ∧ y.asid = asid ∧ y.va = va ∧ P y

/-- The oldest access of a port is performed once its lines have answered: bytes read go to the host or the peer, bytes written are at
their slices; a write of a control register comes next (R170, R389, R393). -/
def Retries (s : State) (i : Instr) (link : Option Nat) : Prop :=
  ∀ r, s.ports.find? (fun x => decide (x.link = link)) = some r → r.win = none →
    let done (s' t : State) : Prop := t.ports = s'.ports.erase r ∧ t.l2 = s'.l2 ∧ t.hbm = s'.hbm
    let answer (bs : List PByte) : HostOut := match r.link with | none => .completion (bs.map (·.val)) | some _ => .peerReply r.src r.tag bs
    (∀ e, r.ctl = some e → Answers (exec i s) (fun t => t.agenda = e :: s.agenda ∧ t.regs = s.regs ∧ done s t)) ∧
    (r.ctl = none → r.phys = false → portOpen s r = true →
      (∀ bs s', r.write = false → r.atomic = none → unitPeek s (portAsker r) r.asid r.va r.len false = .ok bs s' → s'.link = s.link →
        Answers (exec i s) (fun t => done s' t ∧ t.hostOut = s'.hostOut ++ [answer bs])) ∧
      (∀ s', r.write = true → unitPoke s (portAsker r) r.asid r.va (r.data.map (fun b => ⟨b, false⟩)) = .ok () s' →
        Answers (exec i s) (fun t => done s' t ∧ t.hostOut = s'.hostOut)) ∧
      (∀ op n v cmp x s', r.write = false → r.atomic = some (op, n, v, cmp) →
        unitWord s (portAsker r) r.asid r.va (.atomic op n r.va v cmp 0) = .ok x s' → s'.link = s.link → Answers (exec i s) (fun t => done s' t ∧
          t.hostOut = s'.hostOut ++ [answer ((cleanBytes n x.val.toNat).map (fun b => { b with poison := x.poison }))])))

end Sys2Proof.Claims

/-- R388–R394: a hinge link's states follow its events, and its status register's counts clear; a peer's answer brings its line; accesses of the
host and of peers are performed at their home slices, or in HBM through the aperture; the completion of a read the device sent is taken. -/
def Obligations.PortSteps : Prop :=
  ∀ (s : State),
    let a := s.cur.a
    let h := s.hinge a
    let others (t : State) : Prop := ∀ j, j ≠ a → t.hinge j = s.hinge j
    (a < 18 →
      (h.state = .training → Answers (exec .hingeLock s) (fun t => others t ∧
        t.hinge a = { h with state := .up, peer := BitVec.ofNat 10 s.cur.b, lanes := BitVec.ofNat 3 s.cur.c, fails := 0 })) ∧
      (h.state = .up → Answers (exec .hingeFlitReplay s) (fun t => others t ∧ t.hinge a = { h with replay := min (2 ^ 32 - 1) (h.replay + 1) })) ∧
      (h.state = .up → Answers (exec .hingeLinkLoss s) (fun t => others t ∧
        t.hinge a = { h with state := .training, retrain := min 255 (h.retrain + 1) } ∧ t.peerReqs = s.peerReqs)) ∧
      (h.state = .training → h.fails < 2 → Answers (exec .hingeTrainFail s) (fun t => others t ∧ t.hinge a = { h with fails := h.fails + 1 })) ∧
      (h.state = .training → 2 ≤ h.fails → Answers (exec .hingeTrainFail s) (fun t => (t.hinge a).state = .failed ∧ (t.hinge a).fails = 0)) ∧
      (HostHere s → h.state = .down → Answers (exec .hlctlEnSet s) (fun t => others t ∧ (t.hinge a).state = .training ∧ (t.hinge a).en = true)) ∧
      (HostHere s → Answers (exec .hlctlEnClear s) (fun t => (t.hinge a).state = .down ∧ (t.hinge a).en = false)) ∧
      (HostHere s → Answers (exec .hlstatRead s) (fun t => Completes s t (regValue s (.hlstat a)) ∧ others t ∧
        t.hinge a = { h with retrain := 0, replay := 0 }))) ∧
    (∀ r, s.peerReqs[s.cur.b]? = some r → (s.hinge r.link).state = .up →
      (∀ bs, r.body = .write bs → Answers (exec .hingeReply s) (fun t => { t with peerReqs := s.peerReqs } = s ∧
        t.peerReqs = s.peerReqs.eraseIdx s.cur.b)) ∧
      (r.body = .read → 128 ≤ s.cur.data.length → l2Line s r.asid r.line = none → l2Full s r.asid r.line = false →
        (∀ w ∈ s.heldWrites, w.asid = r.asid → w.line ≠ r.line) → Answers (exec .hingeReply s) (fun t =>
        ∃ y, l2Line t r.asid r.line = some y ∧ y.dirty = 0 ∧ y.poison = BitVec.ofNat 4 s.cur.c ∧ y.writable = r.writable ∧
          ∀ i, i < 128 → s.cur.data[i]? = some (y.data.extractLsb' (8 * i) 8)))) ∧
    (HostHere s → s.cur.flag = false → (∀ x ∈ s.ports, x.link ≠ none) →
      let w := AMap.get noWin s.hapwin a
      let live : Prop := w.valid = true ∧ ((s.ctx w.asid).state = .active ∨ (s.ctx w.asid).state = .suspended)
      let va := w.vabase * 2 ^ 21 + s.cur.b
      (∀ s', a < 16 → s.cur.b + s.cur.c ≤ hapBytes s → live → va + s.cur.c ≤ linearEnd →
        unitPeek s.bump ⟨2000, s.nextId, 0, 0⟩ w.asid va s.cur.c false = .away s' →
        Answers (exec .hostWindowRead s) (AtPort s' none w.asid va (fun y => y.write = false ∧ y.atomic = none ∧ y.len = s.cur.c))) ∧
      (∀ s', a < 16 → s.cur.b + s.cur.data.length ≤ hapBytes s → live → w.write = true → va + s.cur.data.length ≤ linearEnd →
        unitPoke s.bump ⟨2000, s.nextId, 0, 0⟩ w.asid va (s.cur.data.map (fun b => ⟨b, false⟩)) = .away s' →
        Answers (exec .hostWindowWrite s) (AtPort s' none w.asid va (fun y => y.write = true ∧ y.data = s.cur.data))) ∧
      (a < 16 → s.cur.b + s.cur.c ≤ hapBytes s → w.valid = false → Answers (exec .hostWindowRead s) (fun t => t.l2 = s.l2 ∧ t.hbm = s.hbm ∧
        t.hostOut = s.hostOut ++ [.unsupported])) ∧
      (s.cur.b + s.cur.c ≤ hbmLimit → Answers (exec .physApertureRead s) (fun t => t.l2 = s.l2 ∧ t.hbm = s.hbm ∧
        ∃ l, t.hostOut = l ++ [.completion ((byteAddrs s.cur.b s.cur.c).map (hbmByte s))])) ∧
      (s.cur.b + s.cur.data.length ≤ hbmLimit → (∀ f, (s.frame f).retired = false) → Answers (exec .physApertureWrite s) (fun t => t.l2 = s.l2 ∧
        ∀ pa, (∀ i, pa = s.cur.b + i → some (hbmByte t pa) = (s.cur.data[i]?).or (some (hbmByte s pa))) ∧
          (pa < s.cur.b → hbmByte t pa = hbmByte s pa)))) ∧
    (h.state = .up → s.regs.ready = true → s.power = 0 → s.cur.flag = false → (∀ x ∈ s.ports, x.link ≠ some a) →
      (∀ w, ∀ o n : Nat,
        let x := AMap.get noWin s.hwin w
        let va := x.vabase * 2 ^ 21 + o
        x.valid = true → ((s.ctx x.asid).state = .active ∨ (s.ctx x.asid).state = .suspended) → va + n ≤ linearEnd →
        (∀ tag src s', s.cur.hinge = .read tag src w o n → unitPeek s.bump ⟨1000 + a, s.nextId, 0, 0⟩ x.asid va n false = .away s' →
          Answers (exec .hingeInboundRequest s) (AtPort s' (some a) x.asid va (fun y => y.write = false ∧ y.atomic = none ∧ y.len = n ∧
            y.src = src ∧ y.tag = tag))) ∧
        (∀ src data s', s.cur.hinge = .write src w o data → data.length = n → x.write = true →
          unitPoke s.bump ⟨1000 + a, s.nextId, 0, 0⟩ x.asid va (data.map (fun b => ⟨b, false⟩)) = .away s' →
          Answers (exec .hingeInboundRequest s) (AtPort s' (some a) x.asid va (fun y => y.write = true ∧ y.data = data))))) ∧
    (s.link = .up → s.cur.flag = true → Retries s .hostWindowRead none) ∧
    (s.cur.flag = true → Retries s .hingeInboundRequest (some a)) ∧
    (s.link = .up → s.cur.flag = false →
      (∀ op asid d, s.hostWait[s.cur.b]? = some (.ctxDesc false) → s.ctxCmd = some (op, asid) → 128 ≤ s.cur.data.length →
        ctxOfDesc (s.cur.data.map (fun b => ⟨b, false⟩)) = some d → Answers (exec .hostReadCompletion s) (fun t => t.ctx asid = d ∧
          t.regs.ctxBusy = false ∧ t.regs.ctxErr = 0 ∧ t.ctxCmd = none ∧ t.hostWait = s.hostWait.eraseIdx s.cur.b)) ∧
      (s.hostWait[s.cur.b]? = some .ringDesc → 32 ≤ s.cur.data.length → Answers (exec .hostReadCompletion s) (fun t =>
        t.ringInfo = some (s.cur.data, none) ∧ t.hostWait = s.hostWait.eraseIdx s.cur.b)))

/-- R359–R370: an invalidation drops the cached translations it names; PFDONE ends the pending faults it names, and what waited on a resolved
page goes on; a read of FAQPOP takes the oldest entry; the bad-page list grows by a write to non-volatile storage, and is read; a refresh
is skipped where R370 allows it. -/
def Obligations.PageSteps : Prop :=
  ∀ (s : State),
    let v := s.cur.val
    let asid := tlbAsid v
    let page := tlbPage v
    let keeps (n : Nat) (t : State) : Prop := t.groups = s.groups ∧ t.hbm = s.hbm ∧ t.faults = s.faults ∧
      t.regs.tlbBusy = translatedInFlight s (tlbNamed s (withSize n v)) s.nextId
    let kept (t : State) (P : Nat → Nat → Prop) : Prop :=
      (∀ e ∈ t.tlb, ¬ P e.2.1 e.2.2.1) ∧ (∀ e ∈ t.tlb, e ∈ s.tlb) ∧ ∀ e ∈ s.tlb, e.2.1 ≠ asid → e ∈ t.tlb
    (∀ w mark, s.cur.flag = true → s.tlbInv = some (w, mark) → translatedInFlight s (tlbNamed { s with tlb := [] } w) mark = false →
      Answers (exec .tlbinvAll s) (fun t => t.regs.tlbBusy = false ∧ t.tlb = s.tlb ∧ t.groups = s.groups)) ∧
    (HostHere s →
      (s.cur.flag = false → s.regs.tlbBusy = false →
        Answers (exec .tlbinvPage s) (fun t => keeps 0 t ∧ kept t (fun x a => x = asid ∧ pageOf a = page)) ∧
        Answers (exec .tlbinvRegion s) (fun t => keeps 1 t ∧ kept t (fun x a => x = asid ∧ pageBase a true = pageBase page true)) ∧
        Answers (exec .tlbinvAsid s) (fun t => keeps 2 t ∧ kept t (fun x _ => x = asid)) ∧
        Answers (exec .tlbinvAll s) (fun t => keeps 3 t ∧ t.tlb = [])) ∧
      Answers (exec .pfdoneResolve s) (fun t => t.hbm = s.hbm ∧ (∀ f, f ∈ t.faults ↔ f ∈ s.faults ∧ ¬ (f.asid = asid ∧ f.page = page)) ∧
        ((∃ f ∈ s.faults, f.asid = asid ∧ f.page = page) → ∀ k ∈ groupsOf s asid,
          (∀ y ∈ (t.grp k).fetches, pageOf (y.line * 128) = page → y.faulted = none) ∧ (t.grp k).stackWait ≠ some page ∧
            (t.grp k).v = (s.grp k).v ∧ (t.grp k).s = (s.grp k).s)) ∧
      Answers (exec .pfdoneFail s) (fun t => t.hbm = s.hbm ∧ ∀ f ∈ t.faults, ¬ (f.asid = asid ∧ f.page = page)) ∧
      (v.getLsbD 12 = false → Answers (exec .pfdoneAll s) (fun t => t.hbm = s.hbm ∧ ∀ f, f ∈ t.faults ↔ f ∈ s.faults ∧ f.asid ≠ asid)) ∧
      (v.getLsbD 12 = true → Answers (exec .pfdoneAll s) (fun t => t.hbm = s.hbm ∧ ∀ f ∈ t.faults, f.asid ≠ asid)) ∧
      (s.faq = [] → Answers (exec .faqpop s) (fun t => Completes s t 0 ∧ t.faq = [])) ∧
      (∀ e rest, s.faq = e :: rest → Answers (exec .faqpop s) (fun t => Completes s t (faqWord e) ∧ t.faq = rest ∧
        (t.frame e.pfn).queued = false)) ∧
      (s.regs.bplBusy = false →
        (let pfn := v.toNat % 2 ^ 23
         (pfn < framesAll → pfn ∉ s.nv.badPages → s.nv.badPages.length < 4096 → Answers (exec .bplAdd s) (fun t =>
          t.nv.adding = some pfn ∧ t.regs.bplBusy = true ∧ t.nv.badPages = s.nv.badPages)) ∧
         (framesAll ≤ pfn → Answers (exec .bplAdd s) (fun t => t.regs.bplErr = 4 ∧ t.regs.bplData = s.regs.bplData ∧ t.nv = s.nv)) ∧
         (pfn < framesAll → pfn ∈ s.nv.badPages → Answers (exec .bplAdd s) (fun t => t.regs.bplErr = 3 ∧ t.regs.bplData = s.regs.bplData ∧ t.nv = s.nv))) ∧
        (∀ p, s.nv.badPages[v.toNat / 2 ^ 48 % 4096]? = some p → Answers (exec .bplRead s) (fun t => t.regs.bplErr = 0 ∧ t.regs.bplData = p ∧
          t.nv = s.nv))) ∧
      Answers (exec .refcfgRead s) (fun t => Completes s t (BitVec.ofNat 64 (s.regs.refSkips.toNat * 2 ^ 32 + if s.regs.askip then 1 else 0)) ∧
        t.regs.refSkips = 0)) ∧
    (let key := rowKey s.cur.a s.cur.b
     let g := AMap.get idleRows s.rows key
     Answers (exec .refreshVisit s) (fun t => AMap.get idleRows t.rows key = { g with sweep := 0, visit := s.steps + 1 } ∧ t.hbm = s.hbm ∧
      (s.regs.askip = true → g.sweep = 64 → g.visit < g.stamp → s.regs.refSkips ≠ BitVec.allOnes 32 → t.regs.refSkips = s.regs.refSkips + 1) ∧
      ((s.regs.askip = false ∨ g.sweep ≠ 64 ∨ g.stamp ≤ g.visit) → t.regs.refSkips = s.regs.refSkips)))

namespace Sys2Proof.Claims

/-- What module reset leaves (R37, R458): nothing of a program, the registers at their reset values, the bad-page list with an ADD in
progress ended. -/
def WasReset (s t : State) : Prop :=
  t.link = .training ∧ t.groups = [] ∧ t.teams = [] ∧ t.cores = [] ∧ t.ctxs = [] ∧ t.queues = [] ∧ t.l2 = [] ∧ t.hbm = [] ∧ t.tlb = [] ∧
    t.fabric = [] ∧ t.arrived = [] ∧ t.records = [] ∧ t.regs = resetRegs ∧ t.nv.badPages = s.nv.badPages ++ s.nv.adding.toList ∧
    t.nv.adding = none ∧ t.nv.fwA = s.nv.fwA ∧ t.nv.fwB = s.nv.fwB ∧ t.nv.fwActive = s.nv.fwActive ∧ t.nv.life = s.nv.life

end Sys2Proof.Claims

/-- R391, R396, R405–R416, R455–R467: errors are recorded and poison what they found; a test's outcome takes effect; reset, the link's states,
bring-up, main power and the power states; records go to their ring, lifetime counts to storage, identity commands to the host. -/
def Obligations.DeviceSteps : Prop :=
  ∀ (s : State),
    (∀ g r l, s.cur.place = .laneReg g r l → s.link ≠ .contained →
      (s.cur.c = 0 → (∀ x ∈ s.records, x.cls ≠ 0x23) → Answers (exec .errorDetected s) (fun t => t.groups = s.groups ∧
        ∃ y, t.records = s.records ++ [y] ∧ y.kind = 1 ∧ y.cls = 0x23 ∧ y.sub = 1 ∧ y.sev = 0)) ∧
      (s.cur.c ≠ 0 → (s.team (s.grp g).team).state ≠ .handler → Answers (exec .errorDetected s) (fun t =>
        (t.grp g).velt r l = { (s.grp g).velt r l with poison := true } ∧ (∀ r' l', l < 96 → l' < 96 → (r' ≠ r ∨ l' ≠ l) →
          (t.grp g).velt r' l' = (s.grp g).velt r' l') ∧
        ∃ y, t.records = s.records ++ [y] ∧ y.kind = 1 ∧ y.cls = 0x24 ∧ y.sub = 1 ∧ y.sev = 1))) ∧
    (∀ st unit elt ue, s.selftests[s.cur.b]? = some (st, unit, elt, ue) →
      outcomeOk st s.cur.c ((s.nv.spares.filter (fun p => decide (p.1 = arrayOf st unit))).length) = true →
      (s.cur.c = 2 → Answers (exec .selftestComplete s) (fun t => t.selftests = s.selftests.eraseIdx s.cur.b ∧
        t.nv.spares = s.nv.spares ++ [(arrayOf st unit, elt)])) ∧
      (s.cur.c = 3 → Answers (exec .selftestComplete s) (fun t => unit ∈ t.nv.offline))) ∧
    Answers (exec .perstDeassert s) (WasReset s) ∧
    (s.link ≠ .down → Answers (exec .hotReset s) (WasReset s)) ∧
    (s.link = .training → Answers (exec .linkTrained s) (fun t => t = { s with link := .up })) ∧
    (s.link = .contained → Answers (exec .linkTrained s) (WasReset s)) ∧
    (s.link = .up → Answers (exec .linkRecovery s) (fun t => t = s) ∧
      Answers (exec .linkLost s) (fun t => t.link = .contained ∧ t.hbm = s.hbm ∧ ∀ k, (s.grp k).phase = .running → (t.grp k).phase = .halted)) ∧
    (s.regs.ready = false → s.regs.booterr = 0 → (s.link = .training ∨ s.link = .up) → s.cur.c ≠ 1 →
      (∀ b, bootSlot s.nv false = .ok b → s.cur.flag = false → Answers (exec .bringUp s) (fun t => t.link = .up ∧ t.regs.ready = true ∧
        t.regs.booterr = 0 ∧ t.regs.fwslot = b ∧ t.hbm = [] ∧ (∀ p ∈ s.nv.badPages, (t.frame p).retired = true) ∧
        ∀ c ∈ s.nv.offline, (t.core c).offline = true)) ∧
      (∀ b, bootSlot s.nv false = .ok b → s.cur.flag = true → Answers (exec .bringUp s) (fun t => t.link = .up ∧ t.regs.ready = false ∧
        t.regs.booterr = 3)) ∧
      (∀ e, bootSlot s.nv false = .error e → Answers (exec .bringUp s) (fun t => t.link = .up ∧ t.regs.ready = false ∧ t.regs.booterr = e))) ∧
    Answers (exec .mainPowerLoss s) (fun t => t.powered = false ∧ t.link = .down ∧ t.groups = [] ∧ t.hbm = [] ∧ t.regs = resetRegs ∧
      t.nv.unflushed = [] ∧ (s.regs.ready = true → t.nv.badPages = s.nv.badPages ++ s.nv.adding.toList)) ∧
    (s.power < deepest s → s.powerExit = false → s.regs.ready = true → Answers (exec .powerStateEntry s) (fun t => t.power = deepest s ∧
      t.groups = s.groups ∧ t.hbm = s.hbm)) ∧
    (s.power ≠ 0 → s.powerExit = false → Answers (exec .wakeEvent s) (fun t => { t with powerExit := false } = s ∧ t.powerExit = true)) ∧
    (s.powerExit = true → Answers (exec .powerExitComplete s) (fun t => t.power = 0 ∧ t.powerExit = false ∧ t.groups = s.groups ∧ t.hbm = s.hbm ∧
      (s.power = 3 → ∀ p ∈ t.rows, p.2.sweep = 0) ∧ (s.power ≠ 3 → t.rows = s.rows))) ∧
    (∀ r rest n, s.records = r :: rest → s.link = .up → s.power = 0 → r.asid = 0 → deviceLog s = some n →
      let used := (s.regs.errHead - s.regs.errTail).toNat
      (used < 2 ^ n → s.regs.errTgt = false → Answers (exec .recordWrite s) (fun t => t.records = rest ∧ t.regs.errSeq = s.regs.errSeq + 1 ∧
        t.regs.errHead = s.regs.errHead + 1 ∧
        t.hostOut = s.hostOut ++ [.write (s.regs.errBase.toNat + 64 * (s.regs.errHead.toNat % 2 ^ n)) (recBytes { r with seq := s.regs.errSeq }) true])) ∧
      (2 ^ n ≤ used → Answers (exec .recordWrite s) (fun t => t.records = rest ∧ t.regs.errSeq = s.regs.errSeq + 1 ∧ t.regs.errHead = s.regs.errHead ∧
        t.regs.errOvf = true ∧ t.regs.errDrops = satInc 16 s.regs.errDrops ∧ t.hostOut = s.hostOut))) ∧
    Answers (exec .lifetimeFlush s) (fun t => t.nv.unflushed = [] ∧ (s.cur.flag = false → AMap.wf 0 s.nv.unflushed = true →
      ∀ i, 0 < i → i < 28 → AMap.get 0 s.nv.life i < 2 ^ 64 →
        AMap.get 0 t.nv.life i = min (2 ^ 64 - 1) (AMap.get 0 s.nv.life i + AMap.get 0 s.nv.unflushed i))) ∧
    (s.cur.flag = false → ∀ pfn, s.nv.adding = some pfn → Answers (exec .nonvolatileWriteComplete s) (fun t => t.nv.adding = none ∧
      t.nv.badPages = s.nv.badPages ++ [pfn] ∧ (t.frame pfn).retired = true ∧ t.regs.bplBusy = false ∧ t.regs.bplErr = 0)) ∧
    (s.cur.flag = true → ∀ img, s.nv.staging = some img → Answers (exec .nonvolatileWriteComplete s) (fun t => t.nv.staging = none ∧
      t.nv.fwActive = idleSlot s ∧ slotImage t.nv (idleSlot s) = img ∧ slotImage t.nv (!idleSlot s) = slotImage s.nv (!idleSlot s) ∧
      t.regs.idBusy = false ∧ t.regs.idErr = 0)) ∧
    (HostHere s →
      Answers (exec .pwrstatRead s) (fun t => Completes s t (s.regs.ent3 ++ s.regs.ent2 ++ (0 : Word)) ∧ t.regs.ent3 = 0 ∧ t.regs.ent2 = 0) ∧
      Answers (exec .errstatRead s) (fun t => Completes s t (errstat s.regs) ∧ t.regs.errDrops = 0) ∧
      (let d := (s.cur.val.setWidth 32 : Word) - s.regs.errHead
       ((d = 0 ∨ 2 ^ 31 ≤ d.toNat) → Answers (exec .errtailWrite s) (fun t => t.regs.errTail = s.cur.val.setWidth 32)) ∧
       ((d ≠ 0 ∧ d.toNat < 2 ^ 31) → Answers (exec .errtailWrite s) (fun t => t.regs.errTail = s.regs.errHead))) ∧
      (s.cur.val.toNat % 512 = 0 → s.cur.flag = false → Answers (exec .lifecmd s) (fun t => t.hostOut = s.hostOut ∧
        t.regs.lifeCopies = s.regs.lifeCopies ++ [s.cur.val.toNat] ∧ regValue t .lifestat = BitVec.ofNat 64 (2 ^ 63))) ∧
      (∀ x rest, s.cur.flag = true → s.regs.lifeCopies = x :: rest → Answers (exec .lifecmd s) (fun t => t.regs.lifeCopies = rest ∧
        t.hostOut = s.hostOut ++ [.write x (lifeBlock s.nv) true])) ∧
      (s.cur.flag = true → clearsOnRead s.cur.reg = false → Answers (exec .registerWrite s) (fun t => Completes s t (regValue s s.cur.reg) ∧
        t.regs = s.regs)) ∧
      (s.regs.idBusy = false →
        (s.regs.idarg.toNat % 128 = 0 → Answers (exec .idAttest s) (fun t => t.hostOut = s.hostOut ++ [.readReq 0 s.regs.idarg.toNat 64] ∧
          t.hostWait = s.hostWait ++ [.nonce] ∧ t.regs.idBusy = true)) ∧
        Answers (exec .idStage s) (fun t => t.hostOut = s.hostOut ++ [.readReq 0 s.regs.idarg.toNat 64] ∧
          t.hostWait = s.hostWait ++ [.stage] ∧ t.regs.idBusy = true)) ∧
      (s.cur.flag = false → let wrote (f : Regs → Regs) : Prop := Answers (exec .registerWrite s) (fun t => t = { s with regs := f s.regs })
       let v := s.cur.val
       (s.cur.reg = .ctxarg → wrote (fun r => { r with ctxarg := v })) ∧ (s.cur.reg = .qarg → wrote (fun r => { r with qarg := v })) ∧
       (s.cur.reg = .idarg → wrote (fun r => { r with idarg := v })) ∧
       (s.cur.reg = .schedcfg → wrote (fun r =>
         { r with preempt := v.getLsbD 48, deppoll := v.extractLsb' 32 16, quantum := v.extractLsb' 16 16, drainMax := v.extractLsb' 0 16 })) ∧
       (s.cur.reg = .wdogcfg → wrote (fun r => { r with wdogEn := v.getLsbD 7, wdogLog2 := v.extractLsb' 0 6 })) ∧
       (s.cur.reg = .fabcfg → wrote (fun r => { r with ken := v.getLsbD 32, holdmax := v.extractLsb' 16 8, kthr := v.extractLsb' 0 16 })) ∧
       (s.cur.reg = .hlid → wrote (fun r => { r with hlid := v.extractLsb' 0 10 })) ∧
       (s.cur.reg = .refcfg → wrote (fun r => { r with askip := v.getLsbD 0 })) ∧
       (s.cur.reg = .ctxstat → wrote (fun r => { r with ctxLost := r.ctxLost && !v.getLsbD 62 })) ∧
       (∀ k, s.cur.reg = .hapwin k → k < 16 → Answers (exec .registerWrite s) (fun t => t = { s with hapwin := AMap.put s.hapwin k (winOf v) }))))

/-! ## Encodings (R206–R230) -/

/-- R206–R230: the decoder reads every well-formed instruction back from the bytes the encoder gives it, with every operand at every
value its field holds; an event has no bytes. -/
def Obligations.EncodingRoundTrip : Prop :=
  ∀ i, WellFormed i → encode i ≠ [] → decodeBytes (encode i) = .ok i

/-- R207, R212, R218, R221: a word the decoder accepts is the one word of its instruction; no accepted bit is dropped. -/
def Obligations.WordsHaveOneMeaning : Prop :=
  (∀ w i, decodeScalar w = .ok i → encodeScalar i = some w) ∧ (∀ w i, decodeLane w = .ok i → encodeLane i = some w)

namespace Sys2Proof.Claims

/-- A lane word of registers alone. -/
def plainFields (vd va vb vc : BitVec 9) : LaneFields :=
  { vd := vd, va := va, vb := vb, vc := vc, pg := 0, pn := false, xmod := 0, bimm := false, sat := false, rm := 0, imm := 0 }

/-- A half of a paired word of registers alone. -/
def plainHalf (op : LaneOp) (vd va vb vc : BitVec 8) : PairHalf :=
  { op := op, vd := vd, va := va, vb := vb, vc := vc, pg := 0, mod5 := 0 }

end Sys2Proof.Claims

/-- R206–R230: words the spec writes out beside its examples decode to the instructions they
stand for, and a word of no row is refused. -/
def Obligations.DecodedWords : Prop :=
  decodeScalar 0x04518700 = .ok (.add 5 6 7) ∧ decodeScalar 0x1070FFEC = .ok (.addi 7 3 0x3FEC) ∧
    decodeScalar 0x4045FFFD = .ok (.brCond 1 5 0xFFFD) ∧ decodeScalar 0x88510600 = .ok (.atomAddW 5 4 6) ∧
    decodeScalar 0x98000206 = .ok (.barSync 2) ∧ decodeScalar 0x50B00010 = .ok (.lx 11 16) ∧
    decodeScalar 0x0C000040 = .error .unassigned ∧
    decodeLane 0x1001803038A0800100000000 = .ok (.vfma { Claims.plainFields 12 3 7 40 with pg := 1, rm := 1 }) ∧
    decodeLane 0x018280402850000400000000 = .ok (.vdot2 { Claims.plainFields 20 4 5 20 with sat := true }) ∧
    decodeLane 0x400100401800102000000040 = .ok (.vld { Claims.plainFields 8 4 3 0 with xmod := 0x102, imm := 64 }) ∧
    decodeLane 0x50004100500000000000000B = .ok (.tmmaE4m3 { Claims.plainFields 2 16 10 0 with imm := 11 }) ∧
    decodeLane 0x584140402800001000008309 = .ok (.gnbr { Claims.plainFields 10 4 5 0 with xmod := 1, imm := 0x8309 }) ∧
    decodeLane 0x850801020000201A0C120000 = .ok (.pairedLaneWord (Claims.plainHalf .vfmul 8 1 2 0) (Claims.plainHalf .vand 13 6 9 0)) ∧
    decodeLane 0x81040102030002120A0C0000 = .ok (.pairedLaneWord (Claims.plainHalf .vfma 4 1 2 3) (Claims.plainHalf .vadd 9 5 6 0))

/-! ## The step -/

/-- A step runs the decoded instruction (R19, R34, R109–R112): the head of the agenda when there is one; else the word of the first
group in turn, fetched from the issuing core's instruction store, whose fields decode; a step ends with no subject and counts. -/
def Obligations.StepRunsTheWord : Prop :=
  (∀ s i x rest, s.powered = true → s.agenda = (i, x) :: rest → step s = finishStep (exec i { s with agenda := rest, cur := x })) ∧
    (∀ s k z i, notOffering (s.grp k) z = false → unplacedBlock (s.grp k) = none → ((s.grp k).slot z).entered = true →
      headCounterFull s k z = false → sideWait s k z = none →
      decodeBytes (storeBytes s (s.coreOf k) ((s.grp k).slot z).islot (4 * ((s.grp k).slot z).pc) 4) = .ok i →
      runAttempt s (.slot k z) = exec i { s with cur := slotSubject s k z }) ∧
    (∀ s k b i, unplacedBlock (s.grp k) = none → headBlock s k = some b → (s.grp k).laneStall = none →
      decodeBytes (storeBytes s (s.coreOf k) b.islot (((s.core (s.coreOf k)).storeSlot b.islot).laneoff + 12 * (b.off + b.next)) 12) = .ok i →
      runAttempt s (.lane k) = exec i { s with cur := laneSubject s k b }) ∧
    (∀ s p ps a as t, s.powered = true → s.agenda = [] → s.steps % 2 = 0 → turns s = p :: ps → partAttempts s p = a :: as →
      runAttempt s a = .next t → t.cur.held = false →
      step s = finishStep (.next (settleIssue t p
        (((issuers s).filter (fun j => decide (j ≠ t.cur.grp) && decide (partOf s j = p))).filter (offersWord s))))) ∧
    (∀ t : State, finishStep (.next t) = .next { t with cur := noSubject, steps := t.steps + 1 })

/-- R466: while main power is present every step goes on to a next state, whatever the words, data and events are; without it nothing
happens but the deassertion of PERST# that brings the module back. -/
def Obligations.PoweredStepsGoOn : Prop :=
  (∀ s : State, s.powered = true → ∃ t, step s = .next t) ∧
    (∀ s : State, s.powered = false → (∀ x rest, s.agenda ≠ (.perstDeassert, x) :: rest) → step s = .fault .powerLost) ∧
    (∀ (s : State) x rest, s.powered = false → s.agenda = (.perstDeassert, x) :: rest → ∃ t, step s = .next t ∧ t.powered = true ∧
      t.link = .training ∧ t.agenda = rest)

/-! ## Reset and invariants -/

/-- R37, R458, R379: right after module reset no context exists and no group is resident, every instruction-store slot is empty, every
way is L1, no tile or shadow bank is granted, router 0 holds the keystone, and no fabric, fault or record is outstanding. -/
def Obligations.ResetState : Prop :=
  let s := State.reset
  (∀ a, (s.ctx a).state = .free) ∧ (∀ k, (s.grp k).phase = .absent) ∧ (∀ t, (s.team t).state = .absent ∧ (s.team t).tiles = []) ∧
    (∀ c i, ((s.core c).storeSlot i).state = .empty) ∧ (∀ c, (s.core c).split = 0 ∧ (s.core c).scratch = [] ∧ (s.core c).l1 = []) ∧
    (∀ c b, ((s.core c).bank b).owner = none) ∧ s.keystones = [⟨0, 0, true⟩] ∧
    (∀ q, (s.queue q).state = .free) ∧ s.fabric = [] ∧ s.records = [] ∧ s.faults = [] ∧ s.regs.ready = false ∧
    s.regs.quantum = 64 ∧ s.regs.wdogEn = true ∧ s.regs.wdogLog2 = 28 ∧ s.regs.cethr = 16 ∧ s.regs.holdmax = 64 ∧ s.regs.kthr = 4096

namespace Sys2Proof.Claims

/-- Every memory holds one entry an address, in order, and none that reads as an unlisted address does; the lifetime counts not yet
flushed likewise (log 2). -/
def Canonical (s : State) : Prop := s.memWf = true ∧ AMap.wf 0 s.nv.unflushed = true

/-- Names of a group's operations, and of those kept beside its image. -/
def groupNames (g : Group) : List Nat :=
  g.ops.map (·.id) ++ g.fifo.map (·.op) ++ g.loads.map (·.op) ++ g.fetches.map (·.op) ++ g.engq.map (·.op) ++ g.syncs.map (·.op)
    ++ g.sbusy.map (·.op) ++ (g.beside.toList.flatMap (fun b => b.ops.map (·.id)))

/-- Names in use in the module. -/
def names (s : State) : List Nat :=
  s.groups.flatMap (fun p => groupNames p.2) ++ s.remotes.map (·.op) ++ s.gops.map (·.op) ++ s.greqs.map (·.id) ++ s.greqs.map (·.op)

/-- The next name is not 0 and no operation or graph request bears it or a later one. -/
def NamesAreOld (s : State) : Prop := 0 < s.nextId ∧ ∀ n ∈ names s, n < s.nextId

end Sys2Proof.Claims

/-- What the two invariants below say holds right after module reset (R37). -/
def Obligations.InvariantsAtReset : Prop :=
  Claims.Canonical State.reset ∧ Claims.NamesAreOld State.reset

/-- Every step keeps each memory of the module in its one canonical form (the model's form of memory, log 2): HBM, scratch and tiles with
their poison, and the unflushed lifetime counts. -/
def Obligations.StepKeepsMemoryForm : Prop :=
  ∀ s t : State, Claims.Canonical s → step s = .next t → Claims.Canonical t

/-- Every step keeps the names of outstanding operations and graph requests below the next one (the model's names, log 1), so that an
operation that starts has a name of its own (R173). -/
def Obligations.StepKeepsNames : Prop :=
  ∀ s t : State, Claims.NamesAreOld s → step s = .next t → Claims.NamesAreOld t
end

