-- ==== Sys2Proof/Laws/Map.lean ====
section
/-!
SUPPORT. The finite map: what a read gives after a write, and that the canonical form is kept.
-/
namespace Sys2Proof.AMap

variable {α : Type}

@[simp] theorem get_put (d : α) (m : AMap α) (i : Nat) (x : α) : get d (put m i x) i = x := by
  induction m with
  | nil => simp [put, get]
  | cons p m ih =>
    obtain ⟨k, v⟩ := p
    simp only [put]
    split
    · simp [get]
    · split <;> simp [get, *]

theorem get_put_ne (d : α) (m : AMap α) (i j : Nat) (x : α) (h : j ≠ i) : get d (put m i x) j = get d m j := by
  induction m with
  | nil => simp [put, get, h]
  | cons p m ih =>
    obtain ⟨k, v⟩ := p
    simp only [put]
    split
    · simp [get, h]
    · split
      · rename_i h2; subst h2; simp [get, h]
      · simp only [get, ih]

@[simp] theorem get_del (d : α) (m : AMap α) (i : Nat) : get d (del m i) i = d := by
  induction m with
  | nil => rfl
  | cons p m ih =>
    obtain ⟨k, v⟩ := p
    simp only [del]; split
    · exact ih
    · simp [get, *]

theorem get_del_ne (d : α) (m : AMap α) (i j : Nat) (h : j ≠ i) : get d (del m i) j = get d m j := by
  induction m with
  | nil => rfl
  | cons p m ih =>
    obtain ⟨k, v⟩ := p
    simp only [del]; split
    · rename_i h2; subst h2; simp [get, h, ih]
    · simp [get, ih]

@[simp] theorem get_set [DecidableEq α] (d : α) (m : AMap α) (i : Nat) (x : α) : get d (set d m i x) i = x := by
  unfold set; split
  · rw [get_del]; exact Eq.symm ‹_›
  · simp

theorem get_set_ne [DecidableEq α] (d : α) (m : AMap α) (i j : Nat) (x : α) (h : j ≠ i) :
    get d (set d m i x) j = get d m j := by
  unfold set; split <;> simp [get_del_ne, get_put_ne, h]

/-! ## The canonical form -/

theorem sortedFrom_mono (m : AMap α) (a b : Nat) (h : a ≤ b) (hs : sortedFrom b m = true) : sortedFrom a m = true := by
  cases m with
  | nil => rfl
  | cons p m =>
    simp only [sortedFrom, Bool.and_eq_true, decide_eq_true_eq] at *
    exact ⟨by omega, hs.2⟩

theorem sortedFrom_put (m : AMap α) (lo i : Nat) (x : α) (h : lo ≤ i) (hs : sortedFrom lo m = true) :
    sortedFrom lo (put m i x) = true := by
  induction m generalizing lo with
  | nil => simp [put, sortedFrom, h]
  | cons p m ih =>
    obtain ⟨k, v⟩ := p
    simp only [sortedFrom, Bool.and_eq_true, decide_eq_true_eq] at hs
    simp only [put]
    split
    · simp only [sortedFrom, Bool.and_eq_true, decide_eq_true_eq]
      exact ⟨h, by omega, hs.2⟩
    · split
      · rename_i h2; subst h2; simp only [sortedFrom, Bool.and_eq_true, decide_eq_true_eq]; exact hs
      · simp only [sortedFrom, Bool.and_eq_true, decide_eq_true_eq]
        exact ⟨hs.1, ih (k + 1) (by omega) hs.2⟩

theorem sortedFrom_del (m : AMap α) (lo i : Nat) (hs : sortedFrom lo m = true) : sortedFrom lo (del m i) = true := by
  induction m generalizing lo with
  | nil => rfl
  | cons p m ih =>
    obtain ⟨k, v⟩ := p
    simp only [sortedFrom, Bool.and_eq_true, decide_eq_true_eq] at hs
    simp only [del]; split
    · exact sortedFrom_mono _ lo (k + 1) (by omega) (ih (k + 1) hs.2)
    · simp only [sortedFrom, Bool.and_eq_true, decide_eq_true_eq]; exact ⟨hs.1, ih (k + 1) hs.2⟩

theorem all_put (m : AMap α) (i : Nat) (x : α) (p : Nat × α → Bool) (hx : p (i, x) = true) (h : m.all p = true) :
    (put m i x).all p = true := by
  induction m with
  | nil => simp [put, hx]
  | cons q m ih =>
    obtain ⟨k, v⟩ := q
    simp only [List.all_cons, Bool.and_eq_true] at h
    simp only [put]; split
    · simp [hx, h.1, h.2]
    · split
      · simp [hx, h.2]
      · simp [h.1, ih h.2]

theorem all_del (m : AMap α) (i : Nat) (p : Nat × α → Bool) (h : m.all p = true) : (del m i).all p = true := by
  induction m with
  | nil => rfl
  | cons q m ih =>
    obtain ⟨k, v⟩ := q
    simp only [List.all_cons, Bool.and_eq_true] at h
    simp only [del]; split
    · exact ih h.2
    · simp [h.1, ih h.2]

@[simp] theorem wf_nil [DecidableEq α] (d : α) : wf d ([] : AMap α) = true := rfl

/-- A write keeps the canonical form, whatever it writes. -/
theorem wf_set [DecidableEq α] (d : α) (m : AMap α) (i : Nat) (x : α) (h : wf d m = true) : wf d (set d m i x) = true := by
  simp only [wf, Bool.and_eq_true] at *
  unfold set; split
  · exact ⟨sortedFrom_del m 0 i h.1, all_del m i _ h.2⟩
  · exact ⟨sortedFrom_put m 0 i x (by omega) h.1, all_put m i x _ (by simpa using ‹¬ x = d›) h.2⟩

/-- So does any run of writes. -/
theorem wf_foldl_set [DecidableEq α] {β : Type} (d : α) (l : List β) (i : β → Nat) (x : β → α) (m : AMap α) (h : wf d m = true) :
    wf d (l.foldl (fun m b => set d m (i b) (x b)) m) = true := by
  induction l generalizing m with
  | nil => exact h
  | cons b l ih => exact ih _ (wf_set d m (i b) (x b) h)

end Sys2Proof.AMap
end

