-- ==== Sys2Proof/Laws/State.lean ====
section
/-!
SUPPORT. What the updates of the state leave and give: one lemma per field per update, the lookups after them, and the
other updates as these.
-/
namespace Sys2Proof.Machine

/-! ## setGrp -/

@[simp] theorem State.setGrp_agenda (s : State) (k : Nat) (g : Group) : (s.setGrp k g).agenda = s.agenda := rfl
@[simp] theorem State.setGrp_cur (s : State) (k : Nat) (g : Group) : (s.setGrp k g).cur = s.cur := rfl
@[simp] theorem State.setGrp_partNext (s : State) (k : Nat) (g : Group) : (s.setGrp k g).partNext = s.partNext := rfl
@[simp] theorem State.setGrp_steps (s : State) (k : Nat) (g : Group) : (s.setGrp k g).steps = s.steps := rfl
@[simp] theorem State.setGrp_nextId (s : State) (k : Nat) (g : Group) : (s.setGrp k g).nextId = s.nextId := rfl
@[simp] theorem State.setGrp_groups (s : State) (k : Nat) (g : Group) : (s.setGrp k g).groups = AMap.put s.groups k g := rfl
@[simp] theorem State.setGrp_teams (s : State) (k : Nat) (g : Group) : (s.setGrp k g).teams = s.teams := rfl
@[simp] theorem State.setGrp_cores (s : State) (k : Nat) (g : Group) : (s.setGrp k g).cores = s.cores := rfl
@[simp] theorem State.setGrp_ctxs (s : State) (k : Nat) (g : Group) : (s.setGrp k g).ctxs = s.ctxs := rfl
@[simp] theorem State.setGrp_queues (s : State) (k : Nat) (g : Group) : (s.setGrp k g).queues = s.queues := rfl
@[simp] theorem State.setGrp_kernels (s : State) (k : Nat) (g : Group) : (s.setGrp k g).kernels = s.kernels := rfl
@[simp] theorem State.setGrp_l2 (s : State) (k : Nat) (g : Group) : (s.setGrp k g).l2 = s.l2 := rfl
@[simp] theorem State.setGrp_hbm (s : State) (k : Nat) (g : Group) : (s.setGrp k g).hbm = s.hbm := rfl
@[simp] theorem State.setGrp_hbmPoison (s : State) (k : Nat) (g : Group) : (s.setGrp k g).hbmPoison = s.hbmPoison := rfl
@[simp] theorem State.setGrp_hbmBad (s : State) (k : Nat) (g : Group) : (s.setGrp k g).hbmBad = s.hbmBad := rfl
@[simp] theorem State.setGrp_hbmReqs (s : State) (k : Nat) (g : Group) : (s.setGrp k g).hbmReqs = s.hbmReqs := rfl
@[simp] theorem State.setGrp_tlbInv (s : State) (k : Nat) (g : Group) : (s.setGrp k g).tlbInv = s.tlbInv := rfl
@[simp] theorem State.setGrp_unitReqs (s : State) (k : Nat) (g : Group) : (s.setGrp k g).unitReqs = s.unitReqs := rfl
@[simp] theorem State.setGrp_demands (s : State) (k : Nat) (g : Group) : (s.setGrp k g).demands = s.demands := rfl
@[simp] theorem State.setGrp_tlb (s : State) (k : Nat) (g : Group) : (s.setGrp k g).tlb = s.tlb := rfl
@[simp] theorem State.setGrp_faults (s : State) (k : Nat) (g : Group) : (s.setGrp k g).faults = s.faults := rfl
@[simp] theorem State.setGrp_frames (s : State) (k : Nat) (g : Group) : (s.setGrp k g).frames = s.frames := rfl
@[simp] theorem State.setGrp_faq (s : State) (k : Nat) (g : Group) : (s.setGrp k g).faq = s.faq := rfl
@[simp] theorem State.setGrp_rows (s : State) (k : Nat) (g : Group) : (s.setGrp k g).rows = s.rows := rfl
@[simp] theorem State.setGrp_fabric (s : State) (k : Nat) (g : Group) : (s.setGrp k g).fabric = s.fabric := rfl
@[simp] theorem State.setGrp_arrived (s : State) (k : Nat) (g : Group) : (s.setGrp k g).arrived = s.arrived := rfl
@[simp] theorem State.setGrp_sendNum (s : State) (k : Nat) (g : Group) : (s.setGrp k g).sendNum = s.sendNum := rfl
@[simp] theorem State.setGrp_expect (s : State) (k : Nat) (g : Group) : (s.setGrp k g).expect = s.expect := rfl
@[simp] theorem State.setGrp_remotes (s : State) (k : Nat) (g : Group) : (s.setGrp k g).remotes = s.remotes := rfl
@[simp] theorem State.setGrp_remSend (s : State) (k : Nat) (g : Group) : (s.setGrp k g).remSend = s.remSend := rfl
@[simp] theorem State.setGrp_remExpect (s : State) (k : Nat) (g : Group) : (s.setGrp k g).remExpect = s.remExpect := rfl
@[simp] theorem State.setGrp_queueOps (s : State) (k : Nat) (g : Group) : (s.setGrp k g).queueOps = s.queueOps := rfl
@[simp] theorem State.setGrp_offers (s : State) (k : Nat) (g : Group) : (s.setGrp k g).offers = s.offers := rfl
@[simp] theorem State.setGrp_greqs (s : State) (k : Nat) (g : Group) : (s.setGrp k g).greqs = s.greqs := rfl
@[simp] theorem State.setGrp_gops (s : State) (k : Nat) (g : Group) : (s.setGrp k g).gops = s.gops := rfl
@[simp] theorem State.setGrp_gSend (s : State) (k : Nat) (g : Group) : (s.setGrp k g).gSend = s.gSend := rfl
@[simp] theorem State.setGrp_gExpect (s : State) (k : Nat) (g : Group) : (s.setGrp k g).gExpect = s.gExpect := rfl
@[simp] theorem State.setGrp_inSend (s : State) (k : Nat) (g : Group) : (s.setGrp k g).inSend = s.inSend := rfl
@[simp] theorem State.setGrp_inExpect (s : State) (k : Nat) (g : Group) : (s.setGrp k g).inExpect = s.inExpect := rfl
@[simp] theorem State.setGrp_launches (s : State) (k : Nat) (g : Group) : (s.setGrp k g).launches = s.launches := rfl
@[simp] theorem State.setGrp_heldWrites (s : State) (k : Nat) (g : Group) : (s.setGrp k g).heldWrites = s.heldWrites := rfl
@[simp] theorem State.setGrp_smap (s : State) (k : Nat) (g : Group) : (s.setGrp k g).smap = s.smap := rfl
@[simp] theorem State.setGrp_retired (s : State) (k : Nat) (g : Group) : (s.setGrp k g).retired = s.retired := rfl
@[simp] theorem State.setGrp_moves (s : State) (k : Nat) (g : Group) : (s.setGrp k g).moves = s.moves := rfl
@[simp] theorem State.setGrp_records (s : State) (k : Nat) (g : Group) : (s.setGrp k g).records = s.records := rfl
@[simp] theorem State.setGrp_ringInfo (s : State) (k : Nat) (g : Group) : (s.setGrp k g).ringInfo = s.ringInfo := rfl
@[simp] theorem State.setGrp_osHeads (s : State) (k : Nat) (g : Group) : (s.setGrp k g).osHeads = s.osHeads := rfl
@[simp] theorem State.setGrp_hostOut (s : State) (k : Nat) (g : Group) : (s.setGrp k g).hostOut = s.hostOut := rfl
@[simp] theorem State.setGrp_hostWait (s : State) (k : Nat) (g : Group) : (s.setGrp k g).hostWait = s.hostWait := rfl
@[simp] theorem State.setGrp_regs (s : State) (k : Nat) (g : Group) : (s.setGrp k g).regs = s.regs := rfl
@[simp] theorem State.setGrp_nv (s : State) (k : Nat) (g : Group) : (s.setGrp k g).nv = s.nv := rfl
@[simp] theorem State.setGrp_link (s : State) (k : Nat) (g : Group) : (s.setGrp k g).link = s.link := rfl
@[simp] theorem State.setGrp_aer (s : State) (k : Nat) (g : Group) : (s.setGrp k g).aer = s.aer := rfl
@[simp] theorem State.setGrp_hinges (s : State) (k : Nat) (g : Group) : (s.setGrp k g).hinges = s.hinges := rfl
@[simp] theorem State.setGrp_peerReqs (s : State) (k : Nat) (g : Group) : (s.setGrp k g).peerReqs = s.peerReqs := rfl
@[simp] theorem State.setGrp_peerSets (s : State) (k : Nat) (g : Group) : (s.setGrp k g).peerSets = s.peerSets := rfl
@[simp] theorem State.setGrp_retiring (s : State) (k : Nat) (g : Group) : (s.setGrp k g).retiring = s.retiring := rfl
@[simp] theorem State.setGrp_ports (s : State) (k : Nat) (g : Group) : (s.setGrp k g).ports = s.ports := rfl
@[simp] theorem State.setGrp_hapwin (s : State) (k : Nat) (g : Group) : (s.setGrp k g).hapwin = s.hapwin := rfl
@[simp] theorem State.setGrp_hwin (s : State) (k : Nat) (g : Group) : (s.setGrp k g).hwin = s.hwin := rfl
@[simp] theorem State.setGrp_keystones (s : State) (k : Nat) (g : Group) : (s.setGrp k g).keystones = s.keystones := rfl
@[simp] theorem State.setGrp_kseen (s : State) (k : Nat) (g : Group) : (s.setGrp k g).kseen = s.kseen := rfl
@[simp] theorem State.setGrp_power (s : State) (k : Nat) (g : Group) : (s.setGrp k g).power = s.power := rfl
@[simp] theorem State.setGrp_powerExit (s : State) (k : Nat) (g : Group) : (s.setGrp k g).powerExit = s.powerExit := rfl
@[simp] theorem State.setGrp_slots (s : State) (k : Nat) (g : Group) : (s.setGrp k g).slots = s.slots := rfl
@[simp] theorem State.setGrp_slotPre (s : State) (k : Nat) (g : Group) : (s.setGrp k g).slotPre = s.slotPre := rfl
@[simp] theorem State.setGrp_bar2 (s : State) (k : Nat) (g : Group) : (s.setGrp k g).bar2 = s.bar2 := rfl
@[simp] theorem State.setGrp_powered (s : State) (k : Nat) (g : Group) : (s.setGrp k g).powered = s.powered := rfl
@[simp] theorem State.setGrp_ctxCmd (s : State) (k : Nat) (g : Group) : (s.setGrp k g).ctxCmd = s.ctxCmd := rfl
@[simp] theorem State.setGrp_qCmd (s : State) (k : Nat) (g : Group) : (s.setGrp k g).qCmd = s.qCmd := rfl
@[simp] theorem State.setGrp_selftests (s : State) (k : Nat) (g : Group) : (s.setGrp k g).selftests = s.selftests := rfl

/-! ## setTeam -/

@[simp] theorem State.setTeam_agenda (s : State) (t : Nat) (x : Team) : (s.setTeam t x).agenda = s.agenda := rfl
@[simp] theorem State.setTeam_cur (s : State) (t : Nat) (x : Team) : (s.setTeam t x).cur = s.cur := rfl
@[simp] theorem State.setTeam_partNext (s : State) (t : Nat) (x : Team) : (s.setTeam t x).partNext = s.partNext := rfl
@[simp] theorem State.setTeam_steps (s : State) (t : Nat) (x : Team) : (s.setTeam t x).steps = s.steps := rfl
@[simp] theorem State.setTeam_nextId (s : State) (t : Nat) (x : Team) : (s.setTeam t x).nextId = s.nextId := rfl
@[simp] theorem State.setTeam_groups (s : State) (t : Nat) (x : Team) : (s.setTeam t x).groups = s.groups := rfl
@[simp] theorem State.setTeam_teams (s : State) (t : Nat) (x : Team) : (s.setTeam t x).teams = AMap.put s.teams t x := rfl
@[simp] theorem State.setTeam_cores (s : State) (t : Nat) (x : Team) : (s.setTeam t x).cores = s.cores := rfl
@[simp] theorem State.setTeam_ctxs (s : State) (t : Nat) (x : Team) : (s.setTeam t x).ctxs = s.ctxs := rfl
@[simp] theorem State.setTeam_queues (s : State) (t : Nat) (x : Team) : (s.setTeam t x).queues = s.queues := rfl
@[simp] theorem State.setTeam_kernels (s : State) (t : Nat) (x : Team) : (s.setTeam t x).kernels = s.kernels := rfl
@[simp] theorem State.setTeam_l2 (s : State) (t : Nat) (x : Team) : (s.setTeam t x).l2 = s.l2 := rfl
@[simp] theorem State.setTeam_hbm (s : State) (t : Nat) (x : Team) : (s.setTeam t x).hbm = s.hbm := rfl
@[simp] theorem State.setTeam_hbmPoison (s : State) (t : Nat) (x : Team) : (s.setTeam t x).hbmPoison = s.hbmPoison := rfl
@[simp] theorem State.setTeam_hbmBad (s : State) (t : Nat) (x : Team) : (s.setTeam t x).hbmBad = s.hbmBad := rfl
@[simp] theorem State.setTeam_hbmReqs (s : State) (t : Nat) (x : Team) : (s.setTeam t x).hbmReqs = s.hbmReqs := rfl
@[simp] theorem State.setTeam_tlbInv (s : State) (t : Nat) (x : Team) : (s.setTeam t x).tlbInv = s.tlbInv := rfl
@[simp] theorem State.setTeam_unitReqs (s : State) (t : Nat) (x : Team) : (s.setTeam t x).unitReqs = s.unitReqs := rfl
@[simp] theorem State.setTeam_demands (s : State) (t : Nat) (x : Team) : (s.setTeam t x).demands = s.demands := rfl
@[simp] theorem State.setTeam_tlb (s : State) (t : Nat) (x : Team) : (s.setTeam t x).tlb = s.tlb := rfl
@[simp] theorem State.setTeam_faults (s : State) (t : Nat) (x : Team) : (s.setTeam t x).faults = s.faults := rfl
@[simp] theorem State.setTeam_frames (s : State) (t : Nat) (x : Team) : (s.setTeam t x).frames = s.frames := rfl
@[simp] theorem State.setTeam_faq (s : State) (t : Nat) (x : Team) : (s.setTeam t x).faq = s.faq := rfl
@[simp] theorem State.setTeam_rows (s : State) (t : Nat) (x : Team) : (s.setTeam t x).rows = s.rows := rfl
@[simp] theorem State.setTeam_fabric (s : State) (t : Nat) (x : Team) : (s.setTeam t x).fabric = s.fabric := rfl
@[simp] theorem State.setTeam_arrived (s : State) (t : Nat) (x : Team) : (s.setTeam t x).arrived = s.arrived := rfl
@[simp] theorem State.setTeam_sendNum (s : State) (t : Nat) (x : Team) : (s.setTeam t x).sendNum = s.sendNum := rfl
@[simp] theorem State.setTeam_expect (s : State) (t : Nat) (x : Team) : (s.setTeam t x).expect = s.expect := rfl
@[simp] theorem State.setTeam_remotes (s : State) (t : Nat) (x : Team) : (s.setTeam t x).remotes = s.remotes := rfl
@[simp] theorem State.setTeam_remSend (s : State) (t : Nat) (x : Team) : (s.setTeam t x).remSend = s.remSend := rfl
@[simp] theorem State.setTeam_remExpect (s : State) (t : Nat) (x : Team) : (s.setTeam t x).remExpect = s.remExpect := rfl
@[simp] theorem State.setTeam_queueOps (s : State) (t : Nat) (x : Team) : (s.setTeam t x).queueOps = s.queueOps := rfl
@[simp] theorem State.setTeam_offers (s : State) (t : Nat) (x : Team) : (s.setTeam t x).offers = s.offers := rfl
@[simp] theorem State.setTeam_greqs (s : State) (t : Nat) (x : Team) : (s.setTeam t x).greqs = s.greqs := rfl
@[simp] theorem State.setTeam_gops (s : State) (t : Nat) (x : Team) : (s.setTeam t x).gops = s.gops := rfl
@[simp] theorem State.setTeam_gSend (s : State) (t : Nat) (x : Team) : (s.setTeam t x).gSend = s.gSend := rfl
@[simp] theorem State.setTeam_gExpect (s : State) (t : Nat) (x : Team) : (s.setTeam t x).gExpect = s.gExpect := rfl
@[simp] theorem State.setTeam_inSend (s : State) (t : Nat) (x : Team) : (s.setTeam t x).inSend = s.inSend := rfl
@[simp] theorem State.setTeam_inExpect (s : State) (t : Nat) (x : Team) : (s.setTeam t x).inExpect = s.inExpect := rfl
@[simp] theorem State.setTeam_launches (s : State) (t : Nat) (x : Team) : (s.setTeam t x).launches = s.launches := rfl
@[simp] theorem State.setTeam_heldWrites (s : State) (t : Nat) (x : Team) : (s.setTeam t x).heldWrites = s.heldWrites := rfl
@[simp] theorem State.setTeam_smap (s : State) (t : Nat) (x : Team) : (s.setTeam t x).smap = s.smap := rfl
@[simp] theorem State.setTeam_retired (s : State) (t : Nat) (x : Team) : (s.setTeam t x).retired = s.retired := rfl
@[simp] theorem State.setTeam_moves (s : State) (t : Nat) (x : Team) : (s.setTeam t x).moves = s.moves := rfl
@[simp] theorem State.setTeam_records (s : State) (t : Nat) (x : Team) : (s.setTeam t x).records = s.records := rfl
@[simp] theorem State.setTeam_ringInfo (s : State) (t : Nat) (x : Team) : (s.setTeam t x).ringInfo = s.ringInfo := rfl
@[simp] theorem State.setTeam_osHeads (s : State) (t : Nat) (x : Team) : (s.setTeam t x).osHeads = s.osHeads := rfl
@[simp] theorem State.setTeam_hostOut (s : State) (t : Nat) (x : Team) : (s.setTeam t x).hostOut = s.hostOut := rfl
@[simp] theorem State.setTeam_hostWait (s : State) (t : Nat) (x : Team) : (s.setTeam t x).hostWait = s.hostWait := rfl
@[simp] theorem State.setTeam_regs (s : State) (t : Nat) (x : Team) : (s.setTeam t x).regs = s.regs := rfl
@[simp] theorem State.setTeam_nv (s : State) (t : Nat) (x : Team) : (s.setTeam t x).nv = s.nv := rfl
@[simp] theorem State.setTeam_link (s : State) (t : Nat) (x : Team) : (s.setTeam t x).link = s.link := rfl
@[simp] theorem State.setTeam_aer (s : State) (t : Nat) (x : Team) : (s.setTeam t x).aer = s.aer := rfl
@[simp] theorem State.setTeam_hinges (s : State) (t : Nat) (x : Team) : (s.setTeam t x).hinges = s.hinges := rfl
@[simp] theorem State.setTeam_peerReqs (s : State) (t : Nat) (x : Team) : (s.setTeam t x).peerReqs = s.peerReqs := rfl
@[simp] theorem State.setTeam_peerSets (s : State) (t : Nat) (x : Team) : (s.setTeam t x).peerSets = s.peerSets := rfl
@[simp] theorem State.setTeam_retiring (s : State) (t : Nat) (x : Team) : (s.setTeam t x).retiring = s.retiring := rfl
@[simp] theorem State.setTeam_ports (s : State) (t : Nat) (x : Team) : (s.setTeam t x).ports = s.ports := rfl
@[simp] theorem State.setTeam_hapwin (s : State) (t : Nat) (x : Team) : (s.setTeam t x).hapwin = s.hapwin := rfl
@[simp] theorem State.setTeam_hwin (s : State) (t : Nat) (x : Team) : (s.setTeam t x).hwin = s.hwin := rfl
@[simp] theorem State.setTeam_keystones (s : State) (t : Nat) (x : Team) : (s.setTeam t x).keystones = s.keystones := rfl
@[simp] theorem State.setTeam_kseen (s : State) (t : Nat) (x : Team) : (s.setTeam t x).kseen = s.kseen := rfl
@[simp] theorem State.setTeam_power (s : State) (t : Nat) (x : Team) : (s.setTeam t x).power = s.power := rfl
@[simp] theorem State.setTeam_powerExit (s : State) (t : Nat) (x : Team) : (s.setTeam t x).powerExit = s.powerExit := rfl
@[simp] theorem State.setTeam_slots (s : State) (t : Nat) (x : Team) : (s.setTeam t x).slots = s.slots := rfl
@[simp] theorem State.setTeam_slotPre (s : State) (t : Nat) (x : Team) : (s.setTeam t x).slotPre = s.slotPre := rfl
@[simp] theorem State.setTeam_bar2 (s : State) (t : Nat) (x : Team) : (s.setTeam t x).bar2 = s.bar2 := rfl
@[simp] theorem State.setTeam_powered (s : State) (t : Nat) (x : Team) : (s.setTeam t x).powered = s.powered := rfl
@[simp] theorem State.setTeam_ctxCmd (s : State) (t : Nat) (x : Team) : (s.setTeam t x).ctxCmd = s.ctxCmd := rfl
@[simp] theorem State.setTeam_qCmd (s : State) (t : Nat) (x : Team) : (s.setTeam t x).qCmd = s.qCmd := rfl
@[simp] theorem State.setTeam_selftests (s : State) (t : Nat) (x : Team) : (s.setTeam t x).selftests = s.selftests := rfl

/-! ## setCore -/

@[simp] theorem State.setCore_agenda (s : State) (c : Nat) (x : Core) : (s.setCore c x).agenda = s.agenda := rfl
@[simp] theorem State.setCore_cur (s : State) (c : Nat) (x : Core) : (s.setCore c x).cur = s.cur := rfl
@[simp] theorem State.setCore_partNext (s : State) (c : Nat) (x : Core) : (s.setCore c x).partNext = s.partNext := rfl
@[simp] theorem State.setCore_steps (s : State) (c : Nat) (x : Core) : (s.setCore c x).steps = s.steps := rfl
@[simp] theorem State.setCore_nextId (s : State) (c : Nat) (x : Core) : (s.setCore c x).nextId = s.nextId := rfl
@[simp] theorem State.setCore_groups (s : State) (c : Nat) (x : Core) : (s.setCore c x).groups = s.groups := rfl
@[simp] theorem State.setCore_teams (s : State) (c : Nat) (x : Core) : (s.setCore c x).teams = s.teams := rfl
@[simp] theorem State.setCore_cores (s : State) (c : Nat) (x : Core) : (s.setCore c x).cores = AMap.put s.cores c x := rfl
@[simp] theorem State.setCore_ctxs (s : State) (c : Nat) (x : Core) : (s.setCore c x).ctxs = s.ctxs := rfl
@[simp] theorem State.setCore_queues (s : State) (c : Nat) (x : Core) : (s.setCore c x).queues = s.queues := rfl
@[simp] theorem State.setCore_kernels (s : State) (c : Nat) (x : Core) : (s.setCore c x).kernels = s.kernels := rfl
@[simp] theorem State.setCore_l2 (s : State) (c : Nat) (x : Core) : (s.setCore c x).l2 = s.l2 := rfl
@[simp] theorem State.setCore_hbm (s : State) (c : Nat) (x : Core) : (s.setCore c x).hbm = s.hbm := rfl
@[simp] theorem State.setCore_hbmPoison (s : State) (c : Nat) (x : Core) : (s.setCore c x).hbmPoison = s.hbmPoison := rfl
@[simp] theorem State.setCore_hbmBad (s : State) (c : Nat) (x : Core) : (s.setCore c x).hbmBad = s.hbmBad := rfl
@[simp] theorem State.setCore_hbmReqs (s : State) (c : Nat) (x : Core) : (s.setCore c x).hbmReqs = s.hbmReqs := rfl
@[simp] theorem State.setCore_tlbInv (s : State) (c : Nat) (x : Core) : (s.setCore c x).tlbInv = s.tlbInv := rfl
@[simp] theorem State.setCore_unitReqs (s : State) (c : Nat) (x : Core) : (s.setCore c x).unitReqs = s.unitReqs := rfl
@[simp] theorem State.setCore_demands (s : State) (c : Nat) (x : Core) : (s.setCore c x).demands = s.demands := rfl
@[simp] theorem State.setCore_tlb (s : State) (c : Nat) (x : Core) : (s.setCore c x).tlb = s.tlb := rfl
@[simp] theorem State.setCore_faults (s : State) (c : Nat) (x : Core) : (s.setCore c x).faults = s.faults := rfl
@[simp] theorem State.setCore_frames (s : State) (c : Nat) (x : Core) : (s.setCore c x).frames = s.frames := rfl
@[simp] theorem State.setCore_faq (s : State) (c : Nat) (x : Core) : (s.setCore c x).faq = s.faq := rfl
@[simp] theorem State.setCore_rows (s : State) (c : Nat) (x : Core) : (s.setCore c x).rows = s.rows := rfl
@[simp] theorem State.setCore_fabric (s : State) (c : Nat) (x : Core) : (s.setCore c x).fabric = s.fabric := rfl
@[simp] theorem State.setCore_arrived (s : State) (c : Nat) (x : Core) : (s.setCore c x).arrived = s.arrived := rfl
@[simp] theorem State.setCore_sendNum (s : State) (c : Nat) (x : Core) : (s.setCore c x).sendNum = s.sendNum := rfl
@[simp] theorem State.setCore_expect (s : State) (c : Nat) (x : Core) : (s.setCore c x).expect = s.expect := rfl
@[simp] theorem State.setCore_remotes (s : State) (c : Nat) (x : Core) : (s.setCore c x).remotes = s.remotes := rfl
@[simp] theorem State.setCore_remSend (s : State) (c : Nat) (x : Core) : (s.setCore c x).remSend = s.remSend := rfl
@[simp] theorem State.setCore_remExpect (s : State) (c : Nat) (x : Core) : (s.setCore c x).remExpect = s.remExpect := rfl
@[simp] theorem State.setCore_queueOps (s : State) (c : Nat) (x : Core) : (s.setCore c x).queueOps = s.queueOps := rfl
@[simp] theorem State.setCore_offers (s : State) (c : Nat) (x : Core) : (s.setCore c x).offers = s.offers := rfl
@[simp] theorem State.setCore_greqs (s : State) (c : Nat) (x : Core) : (s.setCore c x).greqs = s.greqs := rfl
@[simp] theorem State.setCore_gops (s : State) (c : Nat) (x : Core) : (s.setCore c x).gops = s.gops := rfl
@[simp] theorem State.setCore_gSend (s : State) (c : Nat) (x : Core) : (s.setCore c x).gSend = s.gSend := rfl
@[simp] theorem State.setCore_gExpect (s : State) (c : Nat) (x : Core) : (s.setCore c x).gExpect = s.gExpect := rfl
@[simp] theorem State.setCore_inSend (s : State) (c : Nat) (x : Core) : (s.setCore c x).inSend = s.inSend := rfl
@[simp] theorem State.setCore_inExpect (s : State) (c : Nat) (x : Core) : (s.setCore c x).inExpect = s.inExpect := rfl
@[simp] theorem State.setCore_launches (s : State) (c : Nat) (x : Core) : (s.setCore c x).launches = s.launches := rfl
@[simp] theorem State.setCore_heldWrites (s : State) (c : Nat) (x : Core) : (s.setCore c x).heldWrites = s.heldWrites := rfl
@[simp] theorem State.setCore_smap (s : State) (c : Nat) (x : Core) : (s.setCore c x).smap = s.smap := rfl
@[simp] theorem State.setCore_retired (s : State) (c : Nat) (x : Core) : (s.setCore c x).retired = s.retired := rfl
@[simp] theorem State.setCore_moves (s : State) (c : Nat) (x : Core) : (s.setCore c x).moves = s.moves := rfl
@[simp] theorem State.setCore_records (s : State) (c : Nat) (x : Core) : (s.setCore c x).records = s.records := rfl
@[simp] theorem State.setCore_ringInfo (s : State) (c : Nat) (x : Core) : (s.setCore c x).ringInfo = s.ringInfo := rfl
@[simp] theorem State.setCore_osHeads (s : State) (c : Nat) (x : Core) : (s.setCore c x).osHeads = s.osHeads := rfl
@[simp] theorem State.setCore_hostOut (s : State) (c : Nat) (x : Core) : (s.setCore c x).hostOut = s.hostOut := rfl
@[simp] theorem State.setCore_hostWait (s : State) (c : Nat) (x : Core) : (s.setCore c x).hostWait = s.hostWait := rfl
@[simp] theorem State.setCore_regs (s : State) (c : Nat) (x : Core) : (s.setCore c x).regs = s.regs := rfl
@[simp] theorem State.setCore_nv (s : State) (c : Nat) (x : Core) : (s.setCore c x).nv = s.nv := rfl
@[simp] theorem State.setCore_link (s : State) (c : Nat) (x : Core) : (s.setCore c x).link = s.link := rfl
@[simp] theorem State.setCore_aer (s : State) (c : Nat) (x : Core) : (s.setCore c x).aer = s.aer := rfl
@[simp] theorem State.setCore_hinges (s : State) (c : Nat) (x : Core) : (s.setCore c x).hinges = s.hinges := rfl
@[simp] theorem State.setCore_peerReqs (s : State) (c : Nat) (x : Core) : (s.setCore c x).peerReqs = s.peerReqs := rfl
@[simp] theorem State.setCore_peerSets (s : State) (c : Nat) (x : Core) : (s.setCore c x).peerSets = s.peerSets := rfl
@[simp] theorem State.setCore_retiring (s : State) (c : Nat) (x : Core) : (s.setCore c x).retiring = s.retiring := rfl
@[simp] theorem State.setCore_ports (s : State) (c : Nat) (x : Core) : (s.setCore c x).ports = s.ports := rfl
@[simp] theorem State.setCore_hapwin (s : State) (c : Nat) (x : Core) : (s.setCore c x).hapwin = s.hapwin := rfl
@[simp] theorem State.setCore_hwin (s : State) (c : Nat) (x : Core) : (s.setCore c x).hwin = s.hwin := rfl
@[simp] theorem State.setCore_keystones (s : State) (c : Nat) (x : Core) : (s.setCore c x).keystones = s.keystones := rfl
@[simp] theorem State.setCore_kseen (s : State) (c : Nat) (x : Core) : (s.setCore c x).kseen = s.kseen := rfl
@[simp] theorem State.setCore_power (s : State) (c : Nat) (x : Core) : (s.setCore c x).power = s.power := rfl
@[simp] theorem State.setCore_powerExit (s : State) (c : Nat) (x : Core) : (s.setCore c x).powerExit = s.powerExit := rfl
@[simp] theorem State.setCore_slots (s : State) (c : Nat) (x : Core) : (s.setCore c x).slots = s.slots := rfl
@[simp] theorem State.setCore_slotPre (s : State) (c : Nat) (x : Core) : (s.setCore c x).slotPre = s.slotPre := rfl
@[simp] theorem State.setCore_bar2 (s : State) (c : Nat) (x : Core) : (s.setCore c x).bar2 = s.bar2 := rfl
@[simp] theorem State.setCore_powered (s : State) (c : Nat) (x : Core) : (s.setCore c x).powered = s.powered := rfl
@[simp] theorem State.setCore_ctxCmd (s : State) (c : Nat) (x : Core) : (s.setCore c x).ctxCmd = s.ctxCmd := rfl
@[simp] theorem State.setCore_qCmd (s : State) (c : Nat) (x : Core) : (s.setCore c x).qCmd = s.qCmd := rfl
@[simp] theorem State.setCore_selftests (s : State) (c : Nat) (x : Core) : (s.setCore c x).selftests = s.selftests := rfl

/-! ## setCtx -/

@[simp] theorem State.setCtx_agenda (s : State) (a : Nat) (x : Ctx) : (s.setCtx a x).agenda = s.agenda := rfl
@[simp] theorem State.setCtx_cur (s : State) (a : Nat) (x : Ctx) : (s.setCtx a x).cur = s.cur := rfl
@[simp] theorem State.setCtx_partNext (s : State) (a : Nat) (x : Ctx) : (s.setCtx a x).partNext = s.partNext := rfl
@[simp] theorem State.setCtx_steps (s : State) (a : Nat) (x : Ctx) : (s.setCtx a x).steps = s.steps := rfl
@[simp] theorem State.setCtx_nextId (s : State) (a : Nat) (x : Ctx) : (s.setCtx a x).nextId = s.nextId := rfl
@[simp] theorem State.setCtx_groups (s : State) (a : Nat) (x : Ctx) : (s.setCtx a x).groups = s.groups := rfl
@[simp] theorem State.setCtx_teams (s : State) (a : Nat) (x : Ctx) : (s.setCtx a x).teams = s.teams := rfl
@[simp] theorem State.setCtx_cores (s : State) (a : Nat) (x : Ctx) : (s.setCtx a x).cores = s.cores := rfl
@[simp] theorem State.setCtx_ctxs (s : State) (a : Nat) (x : Ctx) : (s.setCtx a x).ctxs = AMap.put s.ctxs a x := rfl
@[simp] theorem State.setCtx_queues (s : State) (a : Nat) (x : Ctx) : (s.setCtx a x).queues = s.queues := rfl
@[simp] theorem State.setCtx_kernels (s : State) (a : Nat) (x : Ctx) : (s.setCtx a x).kernels = s.kernels := rfl
@[simp] theorem State.setCtx_l2 (s : State) (a : Nat) (x : Ctx) : (s.setCtx a x).l2 = s.l2 := rfl
@[simp] theorem State.setCtx_hbm (s : State) (a : Nat) (x : Ctx) : (s.setCtx a x).hbm = s.hbm := rfl
@[simp] theorem State.setCtx_hbmPoison (s : State) (a : Nat) (x : Ctx) : (s.setCtx a x).hbmPoison = s.hbmPoison := rfl
@[simp] theorem State.setCtx_hbmBad (s : State) (a : Nat) (x : Ctx) : (s.setCtx a x).hbmBad = s.hbmBad := rfl
@[simp] theorem State.setCtx_hbmReqs (s : State) (a : Nat) (x : Ctx) : (s.setCtx a x).hbmReqs = s.hbmReqs := rfl
@[simp] theorem State.setCtx_tlbInv (s : State) (a : Nat) (x : Ctx) : (s.setCtx a x).tlbInv = s.tlbInv := rfl
@[simp] theorem State.setCtx_unitReqs (s : State) (a : Nat) (x : Ctx) : (s.setCtx a x).unitReqs = s.unitReqs := rfl
@[simp] theorem State.setCtx_demands (s : State) (a : Nat) (x : Ctx) : (s.setCtx a x).demands = s.demands := rfl
@[simp] theorem State.setCtx_tlb (s : State) (a : Nat) (x : Ctx) : (s.setCtx a x).tlb = s.tlb := rfl
@[simp] theorem State.setCtx_faults (s : State) (a : Nat) (x : Ctx) : (s.setCtx a x).faults = s.faults := rfl
@[simp] theorem State.setCtx_frames (s : State) (a : Nat) (x : Ctx) : (s.setCtx a x).frames = s.frames := rfl
@[simp] theorem State.setCtx_faq (s : State) (a : Nat) (x : Ctx) : (s.setCtx a x).faq = s.faq := rfl
@[simp] theorem State.setCtx_rows (s : State) (a : Nat) (x : Ctx) : (s.setCtx a x).rows = s.rows := rfl
@[simp] theorem State.setCtx_fabric (s : State) (a : Nat) (x : Ctx) : (s.setCtx a x).fabric = s.fabric := rfl
@[simp] theorem State.setCtx_arrived (s : State) (a : Nat) (x : Ctx) : (s.setCtx a x).arrived = s.arrived := rfl
@[simp] theorem State.setCtx_sendNum (s : State) (a : Nat) (x : Ctx) : (s.setCtx a x).sendNum = s.sendNum := rfl
@[simp] theorem State.setCtx_expect (s : State) (a : Nat) (x : Ctx) : (s.setCtx a x).expect = s.expect := rfl
@[simp] theorem State.setCtx_remotes (s : State) (a : Nat) (x : Ctx) : (s.setCtx a x).remotes = s.remotes := rfl
@[simp] theorem State.setCtx_remSend (s : State) (a : Nat) (x : Ctx) : (s.setCtx a x).remSend = s.remSend := rfl
@[simp] theorem State.setCtx_remExpect (s : State) (a : Nat) (x : Ctx) : (s.setCtx a x).remExpect = s.remExpect := rfl
@[simp] theorem State.setCtx_queueOps (s : State) (a : Nat) (x : Ctx) : (s.setCtx a x).queueOps = s.queueOps := rfl
@[simp] theorem State.setCtx_offers (s : State) (a : Nat) (x : Ctx) : (s.setCtx a x).offers = s.offers := rfl
@[simp] theorem State.setCtx_greqs (s : State) (a : Nat) (x : Ctx) : (s.setCtx a x).greqs = s.greqs := rfl
@[simp] theorem State.setCtx_gops (s : State) (a : Nat) (x : Ctx) : (s.setCtx a x).gops = s.gops := rfl
@[simp] theorem State.setCtx_gSend (s : State) (a : Nat) (x : Ctx) : (s.setCtx a x).gSend = s.gSend := rfl
@[simp] theorem State.setCtx_gExpect (s : State) (a : Nat) (x : Ctx) : (s.setCtx a x).gExpect = s.gExpect := rfl
@[simp] theorem State.setCtx_inSend (s : State) (a : Nat) (x : Ctx) : (s.setCtx a x).inSend = s.inSend := rfl
@[simp] theorem State.setCtx_inExpect (s : State) (a : Nat) (x : Ctx) : (s.setCtx a x).inExpect = s.inExpect := rfl
@[simp] theorem State.setCtx_launches (s : State) (a : Nat) (x : Ctx) : (s.setCtx a x).launches = s.launches := rfl
@[simp] theorem State.setCtx_heldWrites (s : State) (a : Nat) (x : Ctx) : (s.setCtx a x).heldWrites = s.heldWrites := rfl
@[simp] theorem State.setCtx_smap (s : State) (a : Nat) (x : Ctx) : (s.setCtx a x).smap = s.smap := rfl
@[simp] theorem State.setCtx_retired (s : State) (a : Nat) (x : Ctx) : (s.setCtx a x).retired = s.retired := rfl
@[simp] theorem State.setCtx_moves (s : State) (a : Nat) (x : Ctx) : (s.setCtx a x).moves = s.moves := rfl
@[simp] theorem State.setCtx_records (s : State) (a : Nat) (x : Ctx) : (s.setCtx a x).records = s.records := rfl
@[simp] theorem State.setCtx_ringInfo (s : State) (a : Nat) (x : Ctx) : (s.setCtx a x).ringInfo = s.ringInfo := rfl
@[simp] theorem State.setCtx_osHeads (s : State) (a : Nat) (x : Ctx) : (s.setCtx a x).osHeads = s.osHeads := rfl
@[simp] theorem State.setCtx_hostOut (s : State) (a : Nat) (x : Ctx) : (s.setCtx a x).hostOut = s.hostOut := rfl
@[simp] theorem State.setCtx_hostWait (s : State) (a : Nat) (x : Ctx) : (s.setCtx a x).hostWait = s.hostWait := rfl
@[simp] theorem State.setCtx_regs (s : State) (a : Nat) (x : Ctx) : (s.setCtx a x).regs = s.regs := rfl
@[simp] theorem State.setCtx_nv (s : State) (a : Nat) (x : Ctx) : (s.setCtx a x).nv = s.nv := rfl
@[simp] theorem State.setCtx_link (s : State) (a : Nat) (x : Ctx) : (s.setCtx a x).link = s.link := rfl
@[simp] theorem State.setCtx_aer (s : State) (a : Nat) (x : Ctx) : (s.setCtx a x).aer = s.aer := rfl
@[simp] theorem State.setCtx_hinges (s : State) (a : Nat) (x : Ctx) : (s.setCtx a x).hinges = s.hinges := rfl
@[simp] theorem State.setCtx_peerReqs (s : State) (a : Nat) (x : Ctx) : (s.setCtx a x).peerReqs = s.peerReqs := rfl
@[simp] theorem State.setCtx_peerSets (s : State) (a : Nat) (x : Ctx) : (s.setCtx a x).peerSets = s.peerSets := rfl
@[simp] theorem State.setCtx_retiring (s : State) (a : Nat) (x : Ctx) : (s.setCtx a x).retiring = s.retiring := rfl
@[simp] theorem State.setCtx_ports (s : State) (a : Nat) (x : Ctx) : (s.setCtx a x).ports = s.ports := rfl
@[simp] theorem State.setCtx_hapwin (s : State) (a : Nat) (x : Ctx) : (s.setCtx a x).hapwin = s.hapwin := rfl
@[simp] theorem State.setCtx_hwin (s : State) (a : Nat) (x : Ctx) : (s.setCtx a x).hwin = s.hwin := rfl
@[simp] theorem State.setCtx_keystones (s : State) (a : Nat) (x : Ctx) : (s.setCtx a x).keystones = s.keystones := rfl
@[simp] theorem State.setCtx_kseen (s : State) (a : Nat) (x : Ctx) : (s.setCtx a x).kseen = s.kseen := rfl
@[simp] theorem State.setCtx_power (s : State) (a : Nat) (x : Ctx) : (s.setCtx a x).power = s.power := rfl
@[simp] theorem State.setCtx_powerExit (s : State) (a : Nat) (x : Ctx) : (s.setCtx a x).powerExit = s.powerExit := rfl
@[simp] theorem State.setCtx_slots (s : State) (a : Nat) (x : Ctx) : (s.setCtx a x).slots = s.slots := rfl
@[simp] theorem State.setCtx_slotPre (s : State) (a : Nat) (x : Ctx) : (s.setCtx a x).slotPre = s.slotPre := rfl
@[simp] theorem State.setCtx_bar2 (s : State) (a : Nat) (x : Ctx) : (s.setCtx a x).bar2 = s.bar2 := rfl
@[simp] theorem State.setCtx_powered (s : State) (a : Nat) (x : Ctx) : (s.setCtx a x).powered = s.powered := rfl
@[simp] theorem State.setCtx_ctxCmd (s : State) (a : Nat) (x : Ctx) : (s.setCtx a x).ctxCmd = s.ctxCmd := rfl
@[simp] theorem State.setCtx_qCmd (s : State) (a : Nat) (x : Ctx) : (s.setCtx a x).qCmd = s.qCmd := rfl
@[simp] theorem State.setCtx_selftests (s : State) (a : Nat) (x : Ctx) : (s.setCtx a x).selftests = s.selftests := rfl

/-! ## setQueue -/

@[simp] theorem State.setQueue_agenda (s : State) (q : Nat) (x : Queue) : (s.setQueue q x).agenda = s.agenda := rfl
@[simp] theorem State.setQueue_cur (s : State) (q : Nat) (x : Queue) : (s.setQueue q x).cur = s.cur := rfl
@[simp] theorem State.setQueue_partNext (s : State) (q : Nat) (x : Queue) : (s.setQueue q x).partNext = s.partNext := rfl
@[simp] theorem State.setQueue_steps (s : State) (q : Nat) (x : Queue) : (s.setQueue q x).steps = s.steps := rfl
@[simp] theorem State.setQueue_nextId (s : State) (q : Nat) (x : Queue) : (s.setQueue q x).nextId = s.nextId := rfl
@[simp] theorem State.setQueue_groups (s : State) (q : Nat) (x : Queue) : (s.setQueue q x).groups = s.groups := rfl
@[simp] theorem State.setQueue_teams (s : State) (q : Nat) (x : Queue) : (s.setQueue q x).teams = s.teams := rfl
@[simp] theorem State.setQueue_cores (s : State) (q : Nat) (x : Queue) : (s.setQueue q x).cores = s.cores := rfl
@[simp] theorem State.setQueue_ctxs (s : State) (q : Nat) (x : Queue) : (s.setQueue q x).ctxs = s.ctxs := rfl
@[simp] theorem State.setQueue_queues (s : State) (q : Nat) (x : Queue) : (s.setQueue q x).queues = AMap.put s.queues q x := rfl
@[simp] theorem State.setQueue_kernels (s : State) (q : Nat) (x : Queue) : (s.setQueue q x).kernels = s.kernels := rfl
@[simp] theorem State.setQueue_l2 (s : State) (q : Nat) (x : Queue) : (s.setQueue q x).l2 = s.l2 := rfl
@[simp] theorem State.setQueue_hbm (s : State) (q : Nat) (x : Queue) : (s.setQueue q x).hbm = s.hbm := rfl
@[simp] theorem State.setQueue_hbmPoison (s : State) (q : Nat) (x : Queue) : (s.setQueue q x).hbmPoison = s.hbmPoison := rfl
@[simp] theorem State.setQueue_hbmBad (s : State) (q : Nat) (x : Queue) : (s.setQueue q x).hbmBad = s.hbmBad := rfl
@[simp] theorem State.setQueue_hbmReqs (s : State) (q : Nat) (x : Queue) : (s.setQueue q x).hbmReqs = s.hbmReqs := rfl
@[simp] theorem State.setQueue_tlbInv (s : State) (q : Nat) (x : Queue) : (s.setQueue q x).tlbInv = s.tlbInv := rfl
@[simp] theorem State.setQueue_unitReqs (s : State) (q : Nat) (x : Queue) : (s.setQueue q x).unitReqs = s.unitReqs := rfl
@[simp] theorem State.setQueue_demands (s : State) (q : Nat) (x : Queue) : (s.setQueue q x).demands = s.demands := rfl
@[simp] theorem State.setQueue_tlb (s : State) (q : Nat) (x : Queue) : (s.setQueue q x).tlb = s.tlb := rfl
@[simp] theorem State.setQueue_faults (s : State) (q : Nat) (x : Queue) : (s.setQueue q x).faults = s.faults := rfl
@[simp] theorem State.setQueue_frames (s : State) (q : Nat) (x : Queue) : (s.setQueue q x).frames = s.frames := rfl
@[simp] theorem State.setQueue_faq (s : State) (q : Nat) (x : Queue) : (s.setQueue q x).faq = s.faq := rfl
@[simp] theorem State.setQueue_rows (s : State) (q : Nat) (x : Queue) : (s.setQueue q x).rows = s.rows := rfl
@[simp] theorem State.setQueue_fabric (s : State) (q : Nat) (x : Queue) : (s.setQueue q x).fabric = s.fabric := rfl
@[simp] theorem State.setQueue_arrived (s : State) (q : Nat) (x : Queue) : (s.setQueue q x).arrived = s.arrived := rfl
@[simp] theorem State.setQueue_sendNum (s : State) (q : Nat) (x : Queue) : (s.setQueue q x).sendNum = s.sendNum := rfl
@[simp] theorem State.setQueue_expect (s : State) (q : Nat) (x : Queue) : (s.setQueue q x).expect = s.expect := rfl
@[simp] theorem State.setQueue_remotes (s : State) (q : Nat) (x : Queue) : (s.setQueue q x).remotes = s.remotes := rfl
@[simp] theorem State.setQueue_remSend (s : State) (q : Nat) (x : Queue) : (s.setQueue q x).remSend = s.remSend := rfl
@[simp] theorem State.setQueue_remExpect (s : State) (q : Nat) (x : Queue) : (s.setQueue q x).remExpect = s.remExpect := rfl
@[simp] theorem State.setQueue_queueOps (s : State) (q : Nat) (x : Queue) : (s.setQueue q x).queueOps = s.queueOps := rfl
@[simp] theorem State.setQueue_offers (s : State) (q : Nat) (x : Queue) : (s.setQueue q x).offers = s.offers := rfl
@[simp] theorem State.setQueue_greqs (s : State) (q : Nat) (x : Queue) : (s.setQueue q x).greqs = s.greqs := rfl
@[simp] theorem State.setQueue_gops (s : State) (q : Nat) (x : Queue) : (s.setQueue q x).gops = s.gops := rfl
@[simp] theorem State.setQueue_gSend (s : State) (q : Nat) (x : Queue) : (s.setQueue q x).gSend = s.gSend := rfl
@[simp] theorem State.setQueue_gExpect (s : State) (q : Nat) (x : Queue) : (s.setQueue q x).gExpect = s.gExpect := rfl
@[simp] theorem State.setQueue_inSend (s : State) (q : Nat) (x : Queue) : (s.setQueue q x).inSend = s.inSend := rfl
@[simp] theorem State.setQueue_inExpect (s : State) (q : Nat) (x : Queue) : (s.setQueue q x).inExpect = s.inExpect := rfl
@[simp] theorem State.setQueue_launches (s : State) (q : Nat) (x : Queue) : (s.setQueue q x).launches = s.launches := rfl
@[simp] theorem State.setQueue_heldWrites (s : State) (q : Nat) (x : Queue) : (s.setQueue q x).heldWrites = s.heldWrites := rfl
@[simp] theorem State.setQueue_smap (s : State) (q : Nat) (x : Queue) : (s.setQueue q x).smap = s.smap := rfl
@[simp] theorem State.setQueue_retired (s : State) (q : Nat) (x : Queue) : (s.setQueue q x).retired = s.retired := rfl
@[simp] theorem State.setQueue_moves (s : State) (q : Nat) (x : Queue) : (s.setQueue q x).moves = s.moves := rfl
@[simp] theorem State.setQueue_records (s : State) (q : Nat) (x : Queue) : (s.setQueue q x).records = s.records := rfl
@[simp] theorem State.setQueue_ringInfo (s : State) (q : Nat) (x : Queue) : (s.setQueue q x).ringInfo = s.ringInfo := rfl
@[simp] theorem State.setQueue_osHeads (s : State) (q : Nat) (x : Queue) : (s.setQueue q x).osHeads = s.osHeads := rfl
@[simp] theorem State.setQueue_hostOut (s : State) (q : Nat) (x : Queue) : (s.setQueue q x).hostOut = s.hostOut := rfl
@[simp] theorem State.setQueue_hostWait (s : State) (q : Nat) (x : Queue) : (s.setQueue q x).hostWait = s.hostWait := rfl
@[simp] theorem State.setQueue_regs (s : State) (q : Nat) (x : Queue) : (s.setQueue q x).regs = s.regs := rfl
@[simp] theorem State.setQueue_nv (s : State) (q : Nat) (x : Queue) : (s.setQueue q x).nv = s.nv := rfl
@[simp] theorem State.setQueue_link (s : State) (q : Nat) (x : Queue) : (s.setQueue q x).link = s.link := rfl
@[simp] theorem State.setQueue_aer (s : State) (q : Nat) (x : Queue) : (s.setQueue q x).aer = s.aer := rfl
@[simp] theorem State.setQueue_hinges (s : State) (q : Nat) (x : Queue) : (s.setQueue q x).hinges = s.hinges := rfl
@[simp] theorem State.setQueue_peerReqs (s : State) (q : Nat) (x : Queue) : (s.setQueue q x).peerReqs = s.peerReqs := rfl
@[simp] theorem State.setQueue_peerSets (s : State) (q : Nat) (x : Queue) : (s.setQueue q x).peerSets = s.peerSets := rfl
@[simp] theorem State.setQueue_retiring (s : State) (q : Nat) (x : Queue) : (s.setQueue q x).retiring = s.retiring := rfl
@[simp] theorem State.setQueue_ports (s : State) (q : Nat) (x : Queue) : (s.setQueue q x).ports = s.ports := rfl
@[simp] theorem State.setQueue_hapwin (s : State) (q : Nat) (x : Queue) : (s.setQueue q x).hapwin = s.hapwin := rfl
@[simp] theorem State.setQueue_hwin (s : State) (q : Nat) (x : Queue) : (s.setQueue q x).hwin = s.hwin := rfl
@[simp] theorem State.setQueue_keystones (s : State) (q : Nat) (x : Queue) : (s.setQueue q x).keystones = s.keystones := rfl
@[simp] theorem State.setQueue_kseen (s : State) (q : Nat) (x : Queue) : (s.setQueue q x).kseen = s.kseen := rfl
@[simp] theorem State.setQueue_power (s : State) (q : Nat) (x : Queue) : (s.setQueue q x).power = s.power := rfl
@[simp] theorem State.setQueue_powerExit (s : State) (q : Nat) (x : Queue) : (s.setQueue q x).powerExit = s.powerExit := rfl
@[simp] theorem State.setQueue_slots (s : State) (q : Nat) (x : Queue) : (s.setQueue q x).slots = s.slots := rfl
@[simp] theorem State.setQueue_slotPre (s : State) (q : Nat) (x : Queue) : (s.setQueue q x).slotPre = s.slotPre := rfl
@[simp] theorem State.setQueue_bar2 (s : State) (q : Nat) (x : Queue) : (s.setQueue q x).bar2 = s.bar2 := rfl
@[simp] theorem State.setQueue_powered (s : State) (q : Nat) (x : Queue) : (s.setQueue q x).powered = s.powered := rfl
@[simp] theorem State.setQueue_ctxCmd (s : State) (q : Nat) (x : Queue) : (s.setQueue q x).ctxCmd = s.ctxCmd := rfl
@[simp] theorem State.setQueue_qCmd (s : State) (q : Nat) (x : Queue) : (s.setQueue q x).qCmd = s.qCmd := rfl
@[simp] theorem State.setQueue_selftests (s : State) (q : Nat) (x : Queue) : (s.setQueue q x).selftests = s.selftests := rfl

/-! ## setKernel -/

@[simp] theorem State.setKernel_agenda (s : State) (n : Nat) (x : Kernel) : (s.setKernel n x).agenda = s.agenda := rfl
@[simp] theorem State.setKernel_cur (s : State) (n : Nat) (x : Kernel) : (s.setKernel n x).cur = s.cur := rfl
@[simp] theorem State.setKernel_partNext (s : State) (n : Nat) (x : Kernel) : (s.setKernel n x).partNext = s.partNext := rfl
@[simp] theorem State.setKernel_steps (s : State) (n : Nat) (x : Kernel) : (s.setKernel n x).steps = s.steps := rfl
@[simp] theorem State.setKernel_nextId (s : State) (n : Nat) (x : Kernel) : (s.setKernel n x).nextId = s.nextId := rfl
@[simp] theorem State.setKernel_groups (s : State) (n : Nat) (x : Kernel) : (s.setKernel n x).groups = s.groups := rfl
@[simp] theorem State.setKernel_teams (s : State) (n : Nat) (x : Kernel) : (s.setKernel n x).teams = s.teams := rfl
@[simp] theorem State.setKernel_cores (s : State) (n : Nat) (x : Kernel) : (s.setKernel n x).cores = s.cores := rfl
@[simp] theorem State.setKernel_ctxs (s : State) (n : Nat) (x : Kernel) : (s.setKernel n x).ctxs = s.ctxs := rfl
@[simp] theorem State.setKernel_queues (s : State) (n : Nat) (x : Kernel) : (s.setKernel n x).queues = s.queues := rfl
@[simp] theorem State.setKernel_kernels (s : State) (n : Nat) (x : Kernel) : (s.setKernel n x).kernels = AMap.put s.kernels n x := rfl
@[simp] theorem State.setKernel_l2 (s : State) (n : Nat) (x : Kernel) : (s.setKernel n x).l2 = s.l2 := rfl
@[simp] theorem State.setKernel_hbm (s : State) (n : Nat) (x : Kernel) : (s.setKernel n x).hbm = s.hbm := rfl
@[simp] theorem State.setKernel_hbmPoison (s : State) (n : Nat) (x : Kernel) : (s.setKernel n x).hbmPoison = s.hbmPoison := rfl
@[simp] theorem State.setKernel_hbmBad (s : State) (n : Nat) (x : Kernel) : (s.setKernel n x).hbmBad = s.hbmBad := rfl
@[simp] theorem State.setKernel_hbmReqs (s : State) (n : Nat) (x : Kernel) : (s.setKernel n x).hbmReqs = s.hbmReqs := rfl
@[simp] theorem State.setKernel_tlbInv (s : State) (n : Nat) (x : Kernel) : (s.setKernel n x).tlbInv = s.tlbInv := rfl
@[simp] theorem State.setKernel_unitReqs (s : State) (n : Nat) (x : Kernel) : (s.setKernel n x).unitReqs = s.unitReqs := rfl
@[simp] theorem State.setKernel_demands (s : State) (n : Nat) (x : Kernel) : (s.setKernel n x).demands = s.demands := rfl
@[simp] theorem State.setKernel_tlb (s : State) (n : Nat) (x : Kernel) : (s.setKernel n x).tlb = s.tlb := rfl
@[simp] theorem State.setKernel_faults (s : State) (n : Nat) (x : Kernel) : (s.setKernel n x).faults = s.faults := rfl
@[simp] theorem State.setKernel_frames (s : State) (n : Nat) (x : Kernel) : (s.setKernel n x).frames = s.frames := rfl
@[simp] theorem State.setKernel_faq (s : State) (n : Nat) (x : Kernel) : (s.setKernel n x).faq = s.faq := rfl
@[simp] theorem State.setKernel_rows (s : State) (n : Nat) (x : Kernel) : (s.setKernel n x).rows = s.rows := rfl
@[simp] theorem State.setKernel_fabric (s : State) (n : Nat) (x : Kernel) : (s.setKernel n x).fabric = s.fabric := rfl
@[simp] theorem State.setKernel_arrived (s : State) (n : Nat) (x : Kernel) : (s.setKernel n x).arrived = s.arrived := rfl
@[simp] theorem State.setKernel_sendNum (s : State) (n : Nat) (x : Kernel) : (s.setKernel n x).sendNum = s.sendNum := rfl
@[simp] theorem State.setKernel_expect (s : State) (n : Nat) (x : Kernel) : (s.setKernel n x).expect = s.expect := rfl
@[simp] theorem State.setKernel_remotes (s : State) (n : Nat) (x : Kernel) : (s.setKernel n x).remotes = s.remotes := rfl
@[simp] theorem State.setKernel_remSend (s : State) (n : Nat) (x : Kernel) : (s.setKernel n x).remSend = s.remSend := rfl
@[simp] theorem State.setKernel_remExpect (s : State) (n : Nat) (x : Kernel) : (s.setKernel n x).remExpect = s.remExpect := rfl
@[simp] theorem State.setKernel_queueOps (s : State) (n : Nat) (x : Kernel) : (s.setKernel n x).queueOps = s.queueOps := rfl
@[simp] theorem State.setKernel_offers (s : State) (n : Nat) (x : Kernel) : (s.setKernel n x).offers = s.offers := rfl
@[simp] theorem State.setKernel_greqs (s : State) (n : Nat) (x : Kernel) : (s.setKernel n x).greqs = s.greqs := rfl
@[simp] theorem State.setKernel_gops (s : State) (n : Nat) (x : Kernel) : (s.setKernel n x).gops = s.gops := rfl
@[simp] theorem State.setKernel_gSend (s : State) (n : Nat) (x : Kernel) : (s.setKernel n x).gSend = s.gSend := rfl
@[simp] theorem State.setKernel_gExpect (s : State) (n : Nat) (x : Kernel) : (s.setKernel n x).gExpect = s.gExpect := rfl
@[simp] theorem State.setKernel_inSend (s : State) (n : Nat) (x : Kernel) : (s.setKernel n x).inSend = s.inSend := rfl
@[simp] theorem State.setKernel_inExpect (s : State) (n : Nat) (x : Kernel) : (s.setKernel n x).inExpect = s.inExpect := rfl
@[simp] theorem State.setKernel_launches (s : State) (n : Nat) (x : Kernel) : (s.setKernel n x).launches = s.launches := rfl
@[simp] theorem State.setKernel_heldWrites (s : State) (n : Nat) (x : Kernel) : (s.setKernel n x).heldWrites = s.heldWrites := rfl
@[simp] theorem State.setKernel_smap (s : State) (n : Nat) (x : Kernel) : (s.setKernel n x).smap = s.smap := rfl
@[simp] theorem State.setKernel_retired (s : State) (n : Nat) (x : Kernel) : (s.setKernel n x).retired = s.retired := rfl
@[simp] theorem State.setKernel_moves (s : State) (n : Nat) (x : Kernel) : (s.setKernel n x).moves = s.moves := rfl
@[simp] theorem State.setKernel_records (s : State) (n : Nat) (x : Kernel) : (s.setKernel n x).records = s.records := rfl
@[simp] theorem State.setKernel_ringInfo (s : State) (n : Nat) (x : Kernel) : (s.setKernel n x).ringInfo = s.ringInfo := rfl
@[simp] theorem State.setKernel_osHeads (s : State) (n : Nat) (x : Kernel) : (s.setKernel n x).osHeads = s.osHeads := rfl
@[simp] theorem State.setKernel_hostOut (s : State) (n : Nat) (x : Kernel) : (s.setKernel n x).hostOut = s.hostOut := rfl
@[simp] theorem State.setKernel_hostWait (s : State) (n : Nat) (x : Kernel) : (s.setKernel n x).hostWait = s.hostWait := rfl
@[simp] theorem State.setKernel_regs (s : State) (n : Nat) (x : Kernel) : (s.setKernel n x).regs = s.regs := rfl
@[simp] theorem State.setKernel_nv (s : State) (n : Nat) (x : Kernel) : (s.setKernel n x).nv = s.nv := rfl
@[simp] theorem State.setKernel_link (s : State) (n : Nat) (x : Kernel) : (s.setKernel n x).link = s.link := rfl
@[simp] theorem State.setKernel_aer (s : State) (n : Nat) (x : Kernel) : (s.setKernel n x).aer = s.aer := rfl
@[simp] theorem State.setKernel_hinges (s : State) (n : Nat) (x : Kernel) : (s.setKernel n x).hinges = s.hinges := rfl
@[simp] theorem State.setKernel_peerReqs (s : State) (n : Nat) (x : Kernel) : (s.setKernel n x).peerReqs = s.peerReqs := rfl
@[simp] theorem State.setKernel_peerSets (s : State) (n : Nat) (x : Kernel) : (s.setKernel n x).peerSets = s.peerSets := rfl
@[simp] theorem State.setKernel_retiring (s : State) (n : Nat) (x : Kernel) : (s.setKernel n x).retiring = s.retiring := rfl
@[simp] theorem State.setKernel_ports (s : State) (n : Nat) (x : Kernel) : (s.setKernel n x).ports = s.ports := rfl
@[simp] theorem State.setKernel_hapwin (s : State) (n : Nat) (x : Kernel) : (s.setKernel n x).hapwin = s.hapwin := rfl
@[simp] theorem State.setKernel_hwin (s : State) (n : Nat) (x : Kernel) : (s.setKernel n x).hwin = s.hwin := rfl
@[simp] theorem State.setKernel_keystones (s : State) (n : Nat) (x : Kernel) : (s.setKernel n x).keystones = s.keystones := rfl
@[simp] theorem State.setKernel_kseen (s : State) (n : Nat) (x : Kernel) : (s.setKernel n x).kseen = s.kseen := rfl
@[simp] theorem State.setKernel_power (s : State) (n : Nat) (x : Kernel) : (s.setKernel n x).power = s.power := rfl
@[simp] theorem State.setKernel_powerExit (s : State) (n : Nat) (x : Kernel) : (s.setKernel n x).powerExit = s.powerExit := rfl
@[simp] theorem State.setKernel_slots (s : State) (n : Nat) (x : Kernel) : (s.setKernel n x).slots = s.slots := rfl
@[simp] theorem State.setKernel_slotPre (s : State) (n : Nat) (x : Kernel) : (s.setKernel n x).slotPre = s.slotPre := rfl
@[simp] theorem State.setKernel_bar2 (s : State) (n : Nat) (x : Kernel) : (s.setKernel n x).bar2 = s.bar2 := rfl
@[simp] theorem State.setKernel_powered (s : State) (n : Nat) (x : Kernel) : (s.setKernel n x).powered = s.powered := rfl
@[simp] theorem State.setKernel_ctxCmd (s : State) (n : Nat) (x : Kernel) : (s.setKernel n x).ctxCmd = s.ctxCmd := rfl
@[simp] theorem State.setKernel_qCmd (s : State) (n : Nat) (x : Kernel) : (s.setKernel n x).qCmd = s.qCmd := rfl
@[simp] theorem State.setKernel_selftests (s : State) (n : Nat) (x : Kernel) : (s.setKernel n x).selftests = s.selftests := rfl

/-! ## bump, modRegs, modNv -/

@[simp] theorem State.bump_agenda (s : State) : s.bump.agenda = s.agenda := rfl
@[simp] theorem State.bump_cur (s : State) : s.bump.cur = s.cur := rfl
@[simp] theorem State.bump_partNext (s : State) : s.bump.partNext = s.partNext := rfl
@[simp] theorem State.bump_steps (s : State) : s.bump.steps = s.steps := rfl
@[simp] theorem State.bump_nextId (s : State) : s.bump.nextId = s.nextId + 1 := rfl
@[simp] theorem State.bump_groups (s : State) : s.bump.groups = s.groups := rfl
@[simp] theorem State.bump_teams (s : State) : s.bump.teams = s.teams := rfl
@[simp] theorem State.bump_cores (s : State) : s.bump.cores = s.cores := rfl
@[simp] theorem State.bump_ctxs (s : State) : s.bump.ctxs = s.ctxs := rfl
@[simp] theorem State.bump_queues (s : State) : s.bump.queues = s.queues := rfl
@[simp] theorem State.bump_kernels (s : State) : s.bump.kernels = s.kernels := rfl
@[simp] theorem State.bump_l2 (s : State) : s.bump.l2 = s.l2 := rfl
@[simp] theorem State.bump_hbm (s : State) : s.bump.hbm = s.hbm := rfl
@[simp] theorem State.bump_hbmPoison (s : State) : s.bump.hbmPoison = s.hbmPoison := rfl
@[simp] theorem State.bump_hbmBad (s : State) : s.bump.hbmBad = s.hbmBad := rfl
@[simp] theorem State.bump_hbmReqs (s : State) : s.bump.hbmReqs = s.hbmReqs := rfl
@[simp] theorem State.bump_tlbInv (s : State) : s.bump.tlbInv = s.tlbInv := rfl
@[simp] theorem State.bump_unitReqs (s : State) : s.bump.unitReqs = s.unitReqs := rfl
@[simp] theorem State.bump_demands (s : State) : s.bump.demands = s.demands := rfl
@[simp] theorem State.bump_tlb (s : State) : s.bump.tlb = s.tlb := rfl
@[simp] theorem State.bump_faults (s : State) : s.bump.faults = s.faults := rfl
@[simp] theorem State.bump_frames (s : State) : s.bump.frames = s.frames := rfl
@[simp] theorem State.bump_faq (s : State) : s.bump.faq = s.faq := rfl
@[simp] theorem State.bump_rows (s : State) : s.bump.rows = s.rows := rfl
@[simp] theorem State.bump_fabric (s : State) : s.bump.fabric = s.fabric := rfl
@[simp] theorem State.bump_arrived (s : State) : s.bump.arrived = s.arrived := rfl
@[simp] theorem State.bump_sendNum (s : State) : s.bump.sendNum = s.sendNum := rfl
@[simp] theorem State.bump_expect (s : State) : s.bump.expect = s.expect := rfl
@[simp] theorem State.bump_remotes (s : State) : s.bump.remotes = s.remotes := rfl
@[simp] theorem State.bump_remSend (s : State) : s.bump.remSend = s.remSend := rfl
@[simp] theorem State.bump_remExpect (s : State) : s.bump.remExpect = s.remExpect := rfl
@[simp] theorem State.bump_queueOps (s : State) : s.bump.queueOps = s.queueOps := rfl
@[simp] theorem State.bump_offers (s : State) : s.bump.offers = s.offers := rfl
@[simp] theorem State.bump_greqs (s : State) : s.bump.greqs = s.greqs := rfl
@[simp] theorem State.bump_gops (s : State) : s.bump.gops = s.gops := rfl
@[simp] theorem State.bump_gSend (s : State) : s.bump.gSend = s.gSend := rfl
@[simp] theorem State.bump_gExpect (s : State) : s.bump.gExpect = s.gExpect := rfl
@[simp] theorem State.bump_inSend (s : State) : s.bump.inSend = s.inSend := rfl
@[simp] theorem State.bump_inExpect (s : State) : s.bump.inExpect = s.inExpect := rfl
@[simp] theorem State.bump_launches (s : State) : s.bump.launches = s.launches := rfl
@[simp] theorem State.bump_heldWrites (s : State) : s.bump.heldWrites = s.heldWrites := rfl
@[simp] theorem State.bump_smap (s : State) : s.bump.smap = s.smap := rfl
@[simp] theorem State.bump_retired (s : State) : s.bump.retired = s.retired := rfl
@[simp] theorem State.bump_moves (s : State) : s.bump.moves = s.moves := rfl
@[simp] theorem State.bump_records (s : State) : s.bump.records = s.records := rfl
@[simp] theorem State.bump_ringInfo (s : State) : s.bump.ringInfo = s.ringInfo := rfl
@[simp] theorem State.bump_osHeads (s : State) : s.bump.osHeads = s.osHeads := rfl
@[simp] theorem State.bump_hostOut (s : State) : s.bump.hostOut = s.hostOut := rfl
@[simp] theorem State.bump_hostWait (s : State) : s.bump.hostWait = s.hostWait := rfl
@[simp] theorem State.bump_regs (s : State) : s.bump.regs = s.regs := rfl
@[simp] theorem State.bump_nv (s : State) : s.bump.nv = s.nv := rfl
@[simp] theorem State.bump_link (s : State) : s.bump.link = s.link := rfl
@[simp] theorem State.bump_aer (s : State) : s.bump.aer = s.aer := rfl
@[simp] theorem State.bump_hinges (s : State) : s.bump.hinges = s.hinges := rfl
@[simp] theorem State.bump_peerReqs (s : State) : s.bump.peerReqs = s.peerReqs := rfl
@[simp] theorem State.bump_peerSets (s : State) : s.bump.peerSets = s.peerSets := rfl
@[simp] theorem State.bump_retiring (s : State) : s.bump.retiring = s.retiring := rfl
@[simp] theorem State.bump_ports (s : State) : s.bump.ports = s.ports := rfl
@[simp] theorem State.bump_hapwin (s : State) : s.bump.hapwin = s.hapwin := rfl
@[simp] theorem State.bump_hwin (s : State) : s.bump.hwin = s.hwin := rfl
@[simp] theorem State.bump_keystones (s : State) : s.bump.keystones = s.keystones := rfl
@[simp] theorem State.bump_kseen (s : State) : s.bump.kseen = s.kseen := rfl
@[simp] theorem State.bump_power (s : State) : s.bump.power = s.power := rfl
@[simp] theorem State.bump_powerExit (s : State) : s.bump.powerExit = s.powerExit := rfl
@[simp] theorem State.bump_slots (s : State) : s.bump.slots = s.slots := rfl
@[simp] theorem State.bump_slotPre (s : State) : s.bump.slotPre = s.slotPre := rfl
@[simp] theorem State.bump_bar2 (s : State) : s.bump.bar2 = s.bar2 := rfl
@[simp] theorem State.bump_powered (s : State) : s.bump.powered = s.powered := rfl
@[simp] theorem State.bump_ctxCmd (s : State) : s.bump.ctxCmd = s.ctxCmd := rfl
@[simp] theorem State.bump_qCmd (s : State) : s.bump.qCmd = s.qCmd := rfl
@[simp] theorem State.bump_selftests (s : State) : s.bump.selftests = s.selftests := rfl

@[simp] theorem State.modRegs_agenda (s : State) (f : Regs → Regs) : (s.modRegs f).agenda = s.agenda := rfl
@[simp] theorem State.modRegs_cur (s : State) (f : Regs → Regs) : (s.modRegs f).cur = s.cur := rfl
@[simp] theorem State.modRegs_partNext (s : State) (f : Regs → Regs) : (s.modRegs f).partNext = s.partNext := rfl
@[simp] theorem State.modRegs_steps (s : State) (f : Regs → Regs) : (s.modRegs f).steps = s.steps := rfl
@[simp] theorem State.modRegs_nextId (s : State) (f : Regs → Regs) : (s.modRegs f).nextId = s.nextId := rfl
@[simp] theorem State.modRegs_groups (s : State) (f : Regs → Regs) : (s.modRegs f).groups = s.groups := rfl
@[simp] theorem State.modRegs_teams (s : State) (f : Regs → Regs) : (s.modRegs f).teams = s.teams := rfl
@[simp] theorem State.modRegs_cores (s : State) (f : Regs → Regs) : (s.modRegs f).cores = s.cores := rfl
@[simp] theorem State.modRegs_ctxs (s : State) (f : Regs → Regs) : (s.modRegs f).ctxs = s.ctxs := rfl
@[simp] theorem State.modRegs_queues (s : State) (f : Regs → Regs) : (s.modRegs f).queues = s.queues := rfl
@[simp] theorem State.modRegs_kernels (s : State) (f : Regs → Regs) : (s.modRegs f).kernels = s.kernels := rfl
@[simp] theorem State.modRegs_l2 (s : State) (f : Regs → Regs) : (s.modRegs f).l2 = s.l2 := rfl
@[simp] theorem State.modRegs_hbm (s : State) (f : Regs → Regs) : (s.modRegs f).hbm = s.hbm := rfl
@[simp] theorem State.modRegs_hbmPoison (s : State) (f : Regs → Regs) : (s.modRegs f).hbmPoison = s.hbmPoison := rfl
@[simp] theorem State.modRegs_hbmBad (s : State) (f : Regs → Regs) : (s.modRegs f).hbmBad = s.hbmBad := rfl
@[simp] theorem State.modRegs_hbmReqs (s : State) (f : Regs → Regs) : (s.modRegs f).hbmReqs = s.hbmReqs := rfl
@[simp] theorem State.modRegs_tlbInv (s : State) (f : Regs → Regs) : (s.modRegs f).tlbInv = s.tlbInv := rfl
@[simp] theorem State.modRegs_unitReqs (s : State) (f : Regs → Regs) : (s.modRegs f).unitReqs = s.unitReqs := rfl
@[simp] theorem State.modRegs_demands (s : State) (f : Regs → Regs) : (s.modRegs f).demands = s.demands := rfl
@[simp] theorem State.modRegs_tlb (s : State) (f : Regs → Regs) : (s.modRegs f).tlb = s.tlb := rfl
@[simp] theorem State.modRegs_faults (s : State) (f : Regs → Regs) : (s.modRegs f).faults = s.faults := rfl
@[simp] theorem State.modRegs_frames (s : State) (f : Regs → Regs) : (s.modRegs f).frames = s.frames := rfl
@[simp] theorem State.modRegs_faq (s : State) (f : Regs → Regs) : (s.modRegs f).faq = s.faq := rfl
@[simp] theorem State.modRegs_rows (s : State) (f : Regs → Regs) : (s.modRegs f).rows = s.rows := rfl
@[simp] theorem State.modRegs_fabric (s : State) (f : Regs → Regs) : (s.modRegs f).fabric = s.fabric := rfl
@[simp] theorem State.modRegs_arrived (s : State) (f : Regs → Regs) : (s.modRegs f).arrived = s.arrived := rfl
@[simp] theorem State.modRegs_sendNum (s : State) (f : Regs → Regs) : (s.modRegs f).sendNum = s.sendNum := rfl
@[simp] theorem State.modRegs_expect (s : State) (f : Regs → Regs) : (s.modRegs f).expect = s.expect := rfl
@[simp] theorem State.modRegs_remotes (s : State) (f : Regs → Regs) : (s.modRegs f).remotes = s.remotes := rfl
@[simp] theorem State.modRegs_remSend (s : State) (f : Regs → Regs) : (s.modRegs f).remSend = s.remSend := rfl
@[simp] theorem State.modRegs_remExpect (s : State) (f : Regs → Regs) : (s.modRegs f).remExpect = s.remExpect := rfl
@[simp] theorem State.modRegs_queueOps (s : State) (f : Regs → Regs) : (s.modRegs f).queueOps = s.queueOps := rfl
@[simp] theorem State.modRegs_offers (s : State) (f : Regs → Regs) : (s.modRegs f).offers = s.offers := rfl
@[simp] theorem State.modRegs_greqs (s : State) (f : Regs → Regs) : (s.modRegs f).greqs = s.greqs := rfl
@[simp] theorem State.modRegs_gops (s : State) (f : Regs → Regs) : (s.modRegs f).gops = s.gops := rfl
@[simp] theorem State.modRegs_gSend (s : State) (f : Regs → Regs) : (s.modRegs f).gSend = s.gSend := rfl
@[simp] theorem State.modRegs_gExpect (s : State) (f : Regs → Regs) : (s.modRegs f).gExpect = s.gExpect := rfl
@[simp] theorem State.modRegs_inSend (s : State) (f : Regs → Regs) : (s.modRegs f).inSend = s.inSend := rfl
@[simp] theorem State.modRegs_inExpect (s : State) (f : Regs → Regs) : (s.modRegs f).inExpect = s.inExpect := rfl
@[simp] theorem State.modRegs_launches (s : State) (f : Regs → Regs) : (s.modRegs f).launches = s.launches := rfl
@[simp] theorem State.modRegs_heldWrites (s : State) (f : Regs → Regs) : (s.modRegs f).heldWrites = s.heldWrites := rfl
@[simp] theorem State.modRegs_smap (s : State) (f : Regs → Regs) : (s.modRegs f).smap = s.smap := rfl
@[simp] theorem State.modRegs_retired (s : State) (f : Regs → Regs) : (s.modRegs f).retired = s.retired := rfl
@[simp] theorem State.modRegs_moves (s : State) (f : Regs → Regs) : (s.modRegs f).moves = s.moves := rfl
@[simp] theorem State.modRegs_records (s : State) (f : Regs → Regs) : (s.modRegs f).records = s.records := rfl
@[simp] theorem State.modRegs_ringInfo (s : State) (f : Regs → Regs) : (s.modRegs f).ringInfo = s.ringInfo := rfl
@[simp] theorem State.modRegs_osHeads (s : State) (f : Regs → Regs) : (s.modRegs f).osHeads = s.osHeads := rfl
@[simp] theorem State.modRegs_hostOut (s : State) (f : Regs → Regs) : (s.modRegs f).hostOut = s.hostOut := rfl
@[simp] theorem State.modRegs_hostWait (s : State) (f : Regs → Regs) : (s.modRegs f).hostWait = s.hostWait := rfl
@[simp] theorem State.modRegs_regs (s : State) (f : Regs → Regs) : (s.modRegs f).regs = f s.regs := rfl
@[simp] theorem State.modRegs_nv (s : State) (f : Regs → Regs) : (s.modRegs f).nv = s.nv := rfl
@[simp] theorem State.modRegs_link (s : State) (f : Regs → Regs) : (s.modRegs f).link = s.link := rfl
@[simp] theorem State.modRegs_aer (s : State) (f : Regs → Regs) : (s.modRegs f).aer = s.aer := rfl
@[simp] theorem State.modRegs_hinges (s : State) (f : Regs → Regs) : (s.modRegs f).hinges = s.hinges := rfl
@[simp] theorem State.modRegs_peerReqs (s : State) (f : Regs → Regs) : (s.modRegs f).peerReqs = s.peerReqs := rfl
@[simp] theorem State.modRegs_peerSets (s : State) (f : Regs → Regs) : (s.modRegs f).peerSets = s.peerSets := rfl
@[simp] theorem State.modRegs_retiring (s : State) (f : Regs → Regs) : (s.modRegs f).retiring = s.retiring := rfl
@[simp] theorem State.modRegs_ports (s : State) (f : Regs → Regs) : (s.modRegs f).ports = s.ports := rfl
@[simp] theorem State.modRegs_hapwin (s : State) (f : Regs → Regs) : (s.modRegs f).hapwin = s.hapwin := rfl
@[simp] theorem State.modRegs_hwin (s : State) (f : Regs → Regs) : (s.modRegs f).hwin = s.hwin := rfl
@[simp] theorem State.modRegs_keystones (s : State) (f : Regs → Regs) : (s.modRegs f).keystones = s.keystones := rfl
@[simp] theorem State.modRegs_kseen (s : State) (f : Regs → Regs) : (s.modRegs f).kseen = s.kseen := rfl
@[simp] theorem State.modRegs_power (s : State) (f : Regs → Regs) : (s.modRegs f).power = s.power := rfl
@[simp] theorem State.modRegs_powerExit (s : State) (f : Regs → Regs) : (s.modRegs f).powerExit = s.powerExit := rfl
@[simp] theorem State.modRegs_slots (s : State) (f : Regs → Regs) : (s.modRegs f).slots = s.slots := rfl
@[simp] theorem State.modRegs_slotPre (s : State) (f : Regs → Regs) : (s.modRegs f).slotPre = s.slotPre := rfl
@[simp] theorem State.modRegs_bar2 (s : State) (f : Regs → Regs) : (s.modRegs f).bar2 = s.bar2 := rfl
@[simp] theorem State.modRegs_powered (s : State) (f : Regs → Regs) : (s.modRegs f).powered = s.powered := rfl
@[simp] theorem State.modRegs_ctxCmd (s : State) (f : Regs → Regs) : (s.modRegs f).ctxCmd = s.ctxCmd := rfl
@[simp] theorem State.modRegs_qCmd (s : State) (f : Regs → Regs) : (s.modRegs f).qCmd = s.qCmd := rfl
@[simp] theorem State.modRegs_selftests (s : State) (f : Regs → Regs) : (s.modRegs f).selftests = s.selftests := rfl

@[simp] theorem State.modNv_agenda (s : State) (f : NonVol → NonVol) : (s.modNv f).agenda = s.agenda := rfl
@[simp] theorem State.modNv_cur (s : State) (f : NonVol → NonVol) : (s.modNv f).cur = s.cur := rfl
@[simp] theorem State.modNv_partNext (s : State) (f : NonVol → NonVol) : (s.modNv f).partNext = s.partNext := rfl
@[simp] theorem State.modNv_steps (s : State) (f : NonVol → NonVol) : (s.modNv f).steps = s.steps := rfl
@[simp] theorem State.modNv_nextId (s : State) (f : NonVol → NonVol) : (s.modNv f).nextId = s.nextId := rfl
@[simp] theorem State.modNv_groups (s : State) (f : NonVol → NonVol) : (s.modNv f).groups = s.groups := rfl
@[simp] theorem State.modNv_teams (s : State) (f : NonVol → NonVol) : (s.modNv f).teams = s.teams := rfl
@[simp] theorem State.modNv_cores (s : State) (f : NonVol → NonVol) : (s.modNv f).cores = s.cores := rfl
@[simp] theorem State.modNv_ctxs (s : State) (f : NonVol → NonVol) : (s.modNv f).ctxs = s.ctxs := rfl
@[simp] theorem State.modNv_queues (s : State) (f : NonVol → NonVol) : (s.modNv f).queues = s.queues := rfl
@[simp] theorem State.modNv_kernels (s : State) (f : NonVol → NonVol) : (s.modNv f).kernels = s.kernels := rfl
@[simp] theorem State.modNv_l2 (s : State) (f : NonVol → NonVol) : (s.modNv f).l2 = s.l2 := rfl
@[simp] theorem State.modNv_hbm (s : State) (f : NonVol → NonVol) : (s.modNv f).hbm = s.hbm := rfl
@[simp] theorem State.modNv_hbmPoison (s : State) (f : NonVol → NonVol) : (s.modNv f).hbmPoison = s.hbmPoison := rfl
@[simp] theorem State.modNv_hbmBad (s : State) (f : NonVol → NonVol) : (s.modNv f).hbmBad = s.hbmBad := rfl
@[simp] theorem State.modNv_hbmReqs (s : State) (f : NonVol → NonVol) : (s.modNv f).hbmReqs = s.hbmReqs := rfl
@[simp] theorem State.modNv_tlbInv (s : State) (f : NonVol → NonVol) : (s.modNv f).tlbInv = s.tlbInv := rfl
@[simp] theorem State.modNv_unitReqs (s : State) (f : NonVol → NonVol) : (s.modNv f).unitReqs = s.unitReqs := rfl
@[simp] theorem State.modNv_demands (s : State) (f : NonVol → NonVol) : (s.modNv f).demands = s.demands := rfl
@[simp] theorem State.modNv_tlb (s : State) (f : NonVol → NonVol) : (s.modNv f).tlb = s.tlb := rfl
@[simp] theorem State.modNv_faults (s : State) (f : NonVol → NonVol) : (s.modNv f).faults = s.faults := rfl
@[simp] theorem State.modNv_frames (s : State) (f : NonVol → NonVol) : (s.modNv f).frames = s.frames := rfl
@[simp] theorem State.modNv_faq (s : State) (f : NonVol → NonVol) : (s.modNv f).faq = s.faq := rfl
@[simp] theorem State.modNv_rows (s : State) (f : NonVol → NonVol) : (s.modNv f).rows = s.rows := rfl
@[simp] theorem State.modNv_fabric (s : State) (f : NonVol → NonVol) : (s.modNv f).fabric = s.fabric := rfl
@[simp] theorem State.modNv_arrived (s : State) (f : NonVol → NonVol) : (s.modNv f).arrived = s.arrived := rfl
@[simp] theorem State.modNv_sendNum (s : State) (f : NonVol → NonVol) : (s.modNv f).sendNum = s.sendNum := rfl
@[simp] theorem State.modNv_expect (s : State) (f : NonVol → NonVol) : (s.modNv f).expect = s.expect := rfl
@[simp] theorem State.modNv_remotes (s : State) (f : NonVol → NonVol) : (s.modNv f).remotes = s.remotes := rfl
@[simp] theorem State.modNv_remSend (s : State) (f : NonVol → NonVol) : (s.modNv f).remSend = s.remSend := rfl
@[simp] theorem State.modNv_remExpect (s : State) (f : NonVol → NonVol) : (s.modNv f).remExpect = s.remExpect := rfl
@[simp] theorem State.modNv_queueOps (s : State) (f : NonVol → NonVol) : (s.modNv f).queueOps = s.queueOps := rfl
@[simp] theorem State.modNv_offers (s : State) (f : NonVol → NonVol) : (s.modNv f).offers = s.offers := rfl
@[simp] theorem State.modNv_greqs (s : State) (f : NonVol → NonVol) : (s.modNv f).greqs = s.greqs := rfl
@[simp] theorem State.modNv_gops (s : State) (f : NonVol → NonVol) : (s.modNv f).gops = s.gops := rfl
@[simp] theorem State.modNv_gSend (s : State) (f : NonVol → NonVol) : (s.modNv f).gSend = s.gSend := rfl
@[simp] theorem State.modNv_gExpect (s : State) (f : NonVol → NonVol) : (s.modNv f).gExpect = s.gExpect := rfl
@[simp] theorem State.modNv_inSend (s : State) (f : NonVol → NonVol) : (s.modNv f).inSend = s.inSend := rfl
@[simp] theorem State.modNv_inExpect (s : State) (f : NonVol → NonVol) : (s.modNv f).inExpect = s.inExpect := rfl
@[simp] theorem State.modNv_launches (s : State) (f : NonVol → NonVol) : (s.modNv f).launches = s.launches := rfl
@[simp] theorem State.modNv_heldWrites (s : State) (f : NonVol → NonVol) : (s.modNv f).heldWrites = s.heldWrites := rfl
@[simp] theorem State.modNv_smap (s : State) (f : NonVol → NonVol) : (s.modNv f).smap = s.smap := rfl
@[simp] theorem State.modNv_retired (s : State) (f : NonVol → NonVol) : (s.modNv f).retired = s.retired := rfl
@[simp] theorem State.modNv_moves (s : State) (f : NonVol → NonVol) : (s.modNv f).moves = s.moves := rfl
@[simp] theorem State.modNv_records (s : State) (f : NonVol → NonVol) : (s.modNv f).records = s.records := rfl
@[simp] theorem State.modNv_ringInfo (s : State) (f : NonVol → NonVol) : (s.modNv f).ringInfo = s.ringInfo := rfl
@[simp] theorem State.modNv_osHeads (s : State) (f : NonVol → NonVol) : (s.modNv f).osHeads = s.osHeads := rfl
@[simp] theorem State.modNv_hostOut (s : State) (f : NonVol → NonVol) : (s.modNv f).hostOut = s.hostOut := rfl
@[simp] theorem State.modNv_hostWait (s : State) (f : NonVol → NonVol) : (s.modNv f).hostWait = s.hostWait := rfl
@[simp] theorem State.modNv_regs (s : State) (f : NonVol → NonVol) : (s.modNv f).regs = s.regs := rfl
@[simp] theorem State.modNv_nv (s : State) (f : NonVol → NonVol) : (s.modNv f).nv = f s.nv := rfl
@[simp] theorem State.modNv_link (s : State) (f : NonVol → NonVol) : (s.modNv f).link = s.link := rfl
@[simp] theorem State.modNv_aer (s : State) (f : NonVol → NonVol) : (s.modNv f).aer = s.aer := rfl
@[simp] theorem State.modNv_hinges (s : State) (f : NonVol → NonVol) : (s.modNv f).hinges = s.hinges := rfl
@[simp] theorem State.modNv_peerReqs (s : State) (f : NonVol → NonVol) : (s.modNv f).peerReqs = s.peerReqs := rfl
@[simp] theorem State.modNv_peerSets (s : State) (f : NonVol → NonVol) : (s.modNv f).peerSets = s.peerSets := rfl
@[simp] theorem State.modNv_retiring (s : State) (f : NonVol → NonVol) : (s.modNv f).retiring = s.retiring := rfl
@[simp] theorem State.modNv_ports (s : State) (f : NonVol → NonVol) : (s.modNv f).ports = s.ports := rfl
@[simp] theorem State.modNv_hapwin (s : State) (f : NonVol → NonVol) : (s.modNv f).hapwin = s.hapwin := rfl
@[simp] theorem State.modNv_hwin (s : State) (f : NonVol → NonVol) : (s.modNv f).hwin = s.hwin := rfl
@[simp] theorem State.modNv_keystones (s : State) (f : NonVol → NonVol) : (s.modNv f).keystones = s.keystones := rfl
@[simp] theorem State.modNv_kseen (s : State) (f : NonVol → NonVol) : (s.modNv f).kseen = s.kseen := rfl
@[simp] theorem State.modNv_power (s : State) (f : NonVol → NonVol) : (s.modNv f).power = s.power := rfl
@[simp] theorem State.modNv_powerExit (s : State) (f : NonVol → NonVol) : (s.modNv f).powerExit = s.powerExit := rfl
@[simp] theorem State.modNv_slots (s : State) (f : NonVol → NonVol) : (s.modNv f).slots = s.slots := rfl
@[simp] theorem State.modNv_slotPre (s : State) (f : NonVol → NonVol) : (s.modNv f).slotPre = s.slotPre := rfl
@[simp] theorem State.modNv_bar2 (s : State) (f : NonVol → NonVol) : (s.modNv f).bar2 = s.bar2 := rfl
@[simp] theorem State.modNv_powered (s : State) (f : NonVol → NonVol) : (s.modNv f).powered = s.powered := rfl
@[simp] theorem State.modNv_ctxCmd (s : State) (f : NonVol → NonVol) : (s.modNv f).ctxCmd = s.ctxCmd := rfl
@[simp] theorem State.modNv_qCmd (s : State) (f : NonVol → NonVol) : (s.modNv f).qCmd = s.qCmd := rfl
@[simp] theorem State.modNv_selftests (s : State) (f : NonVol → NonVol) : (s.modNv f).selftests = s.selftests := rfl

/-! ## Lookups after updates -/

@[simp] theorem State.grp_setGrp (s : State) (k : Nat) (x : Group) : (s.setGrp k x).grp k = x := AMap.get_put _ _ _ _
theorem State.grp_setGrp_ne (s : State) (k j : Nat) (x : Group) (h : j ≠ k) : (s.setGrp k x).grp j = s.grp j := AMap.get_put_ne _ _ _ _ _ h
@[simp] theorem State.grp_setTeam (s : State) (k j : Nat) (x : Team) : (s.setTeam k x).grp j = s.grp j := rfl
@[simp] theorem State.grp_setCore (s : State) (k j : Nat) (x : Core) : (s.setCore k x).grp j = s.grp j := rfl
@[simp] theorem State.grp_setCtx (s : State) (k j : Nat) (x : Ctx) : (s.setCtx k x).grp j = s.grp j := rfl
@[simp] theorem State.grp_setQueue (s : State) (k j : Nat) (x : Queue) : (s.setQueue k x).grp j = s.grp j := rfl
@[simp] theorem State.grp_setKernel (s : State) (k j : Nat) (x : Kernel) : (s.setKernel k x).grp j = s.grp j := rfl
@[simp] theorem State.grp_bump (s : State) (j : Nat) : s.bump.grp j = s.grp j := rfl
@[simp] theorem State.team_setGrp (s : State) (k j : Nat) (x : Group) : (s.setGrp k x).team j = s.team j := rfl
@[simp] theorem State.team_setTeam (s : State) (k : Nat) (x : Team) : (s.setTeam k x).team k = x := AMap.get_put _ _ _ _
theorem State.team_setTeam_ne (s : State) (k j : Nat) (x : Team) (h : j ≠ k) : (s.setTeam k x).team j = s.team j := AMap.get_put_ne _ _ _ _ _ h
@[simp] theorem State.team_setCore (s : State) (k j : Nat) (x : Core) : (s.setCore k x).team j = s.team j := rfl
@[simp] theorem State.team_setCtx (s : State) (k j : Nat) (x : Ctx) : (s.setCtx k x).team j = s.team j := rfl
@[simp] theorem State.team_setQueue (s : State) (k j : Nat) (x : Queue) : (s.setQueue k x).team j = s.team j := rfl
@[simp] theorem State.team_setKernel (s : State) (k j : Nat) (x : Kernel) : (s.setKernel k x).team j = s.team j := rfl
@[simp] theorem State.team_bump (s : State) (j : Nat) : s.bump.team j = s.team j := rfl
@[simp] theorem State.core_setGrp (s : State) (k j : Nat) (x : Group) : (s.setGrp k x).core j = s.core j := rfl
@[simp] theorem State.core_setTeam (s : State) (k j : Nat) (x : Team) : (s.setTeam k x).core j = s.core j := rfl
@[simp] theorem State.core_setCore (s : State) (k : Nat) (x : Core) : (s.setCore k x).core k = x := AMap.get_put _ _ _ _
theorem State.core_setCore_ne (s : State) (k j : Nat) (x : Core) (h : j ≠ k) : (s.setCore k x).core j = s.core j := AMap.get_put_ne _ _ _ _ _ h
@[simp] theorem State.core_setCtx (s : State) (k j : Nat) (x : Ctx) : (s.setCtx k x).core j = s.core j := rfl
@[simp] theorem State.core_setQueue (s : State) (k j : Nat) (x : Queue) : (s.setQueue k x).core j = s.core j := rfl
@[simp] theorem State.core_setKernel (s : State) (k j : Nat) (x : Kernel) : (s.setKernel k x).core j = s.core j := rfl
@[simp] theorem State.core_bump (s : State) (j : Nat) : s.bump.core j = s.core j := rfl
@[simp] theorem State.ctx_setGrp (s : State) (k j : Nat) (x : Group) : (s.setGrp k x).ctx j = s.ctx j := rfl
@[simp] theorem State.ctx_setTeam (s : State) (k j : Nat) (x : Team) : (s.setTeam k x).ctx j = s.ctx j := rfl
@[simp] theorem State.ctx_setCore (s : State) (k j : Nat) (x : Core) : (s.setCore k x).ctx j = s.ctx j := rfl
@[simp] theorem State.ctx_setCtx (s : State) (k : Nat) (x : Ctx) : (s.setCtx k x).ctx k = x := AMap.get_put _ _ _ _
theorem State.ctx_setCtx_ne (s : State) (k j : Nat) (x : Ctx) (h : j ≠ k) : (s.setCtx k x).ctx j = s.ctx j := AMap.get_put_ne _ _ _ _ _ h
@[simp] theorem State.ctx_setQueue (s : State) (k j : Nat) (x : Queue) : (s.setQueue k x).ctx j = s.ctx j := rfl
@[simp] theorem State.ctx_setKernel (s : State) (k j : Nat) (x : Kernel) : (s.setKernel k x).ctx j = s.ctx j := rfl
@[simp] theorem State.ctx_bump (s : State) (j : Nat) : s.bump.ctx j = s.ctx j := rfl
@[simp] theorem State.queue_setGrp (s : State) (k j : Nat) (x : Group) : (s.setGrp k x).queue j = s.queue j := rfl
@[simp] theorem State.queue_setTeam (s : State) (k j : Nat) (x : Team) : (s.setTeam k x).queue j = s.queue j := rfl
@[simp] theorem State.queue_setCore (s : State) (k j : Nat) (x : Core) : (s.setCore k x).queue j = s.queue j := rfl
@[simp] theorem State.queue_setCtx (s : State) (k j : Nat) (x : Ctx) : (s.setCtx k x).queue j = s.queue j := rfl
@[simp] theorem State.queue_setQueue (s : State) (k : Nat) (x : Queue) : (s.setQueue k x).queue k = x := AMap.get_put _ _ _ _
theorem State.queue_setQueue_ne (s : State) (k j : Nat) (x : Queue) (h : j ≠ k) : (s.setQueue k x).queue j = s.queue j := AMap.get_put_ne _ _ _ _ _ h
@[simp] theorem State.queue_setKernel (s : State) (k j : Nat) (x : Kernel) : (s.setKernel k x).queue j = s.queue j := rfl
@[simp] theorem State.queue_bump (s : State) (j : Nat) : s.bump.queue j = s.queue j := rfl
@[simp] theorem State.kernel_setGrp (s : State) (k j : Nat) (x : Group) : (s.setGrp k x).kernel j = s.kernel j := rfl
@[simp] theorem State.kernel_setTeam (s : State) (k j : Nat) (x : Team) : (s.setTeam k x).kernel j = s.kernel j := rfl
@[simp] theorem State.kernel_setCore (s : State) (k j : Nat) (x : Core) : (s.setCore k x).kernel j = s.kernel j := rfl
@[simp] theorem State.kernel_setCtx (s : State) (k j : Nat) (x : Ctx) : (s.setCtx k x).kernel j = s.kernel j := rfl
@[simp] theorem State.kernel_setQueue (s : State) (k j : Nat) (x : Queue) : (s.setQueue k x).kernel j = s.kernel j := rfl
@[simp] theorem State.kernel_setKernel (s : State) (k : Nat) (x : Kernel) : (s.setKernel k x).kernel k = x := AMap.get_put _ _ _ _
theorem State.kernel_setKernel_ne (s : State) (k j : Nat) (x : Kernel) (h : j ≠ k) : (s.setKernel k x).kernel j = s.kernel j := AMap.get_put_ne _ _ _ _ _ h
@[simp] theorem State.kernel_bump (s : State) (j : Nat) : s.bump.kernel j = s.kernel j := rfl

/-! ## The other updates -/

@[simp] theorem State.modGrp_eq (s : State) (k : Nat) (f : Group → Group) : s.modGrp k f = s.setGrp k (f (s.grp k)) := rfl
@[simp] theorem State.modTeam_eq (s : State) (k : Nat) (f : Team → Team) : s.modTeam k f = s.setTeam k (f (s.team k)) := rfl
@[simp] theorem State.modCore_eq (s : State) (k : Nat) (f : Core → Core) : s.modCore k f = s.setCore k (f (s.core k)) := rfl
@[simp] theorem State.modCtx_eq (s : State) (k : Nat) (f : Ctx → Ctx) : s.modCtx k f = s.setCtx k (f (s.ctx k)) := rfl
@[simp] theorem State.modQueue_eq (s : State) (k : Nat) (f : Queue → Queue) : s.modQueue k f = s.setQueue k (f (s.queue k)) := rfl
@[simp] theorem State.modKernel_eq (s : State) (k : Nat) (f : Kernel → Kernel) : s.modKernel k f = s.setKernel k (f (s.kernel k)) := rfl
@[simp] theorem State.modSlot_eq (s : State) (k : Nat) (z : Bool) (f : PcSlot → PcSlot) :
    s.modSlot k z f = s.setGrp k ((s.grp k).modSlot z f) := rfl

/-! ## Groups -/

@[simp] theorem Group.slot_setSlot (g : Group) (z : Bool) (x : PcSlot) : (g.setSlot z x).slot z = x := by cases z <;> rfl
@[simp] theorem Group.slot_setSlot_not (g : Group) (z : Bool) (x : PcSlot) : (g.setSlot z x).slot (!z) = g.slot (!z) := by cases z <;> rfl
@[simp] theorem Group.sraw_setSlot (g : Group) (z : Bool) (x : PcSlot) (r : Nat) : (g.setSlot z x).sraw r = g.sraw r := by cases z <;> rfl

end Sys2Proof.Machine
end

