-- ==== Sys2Proof/Laws/Memory.lean ====
section
/-!
SUPPORT. Every operation on a memory of the module keeps the canonical form (log 2): HBM, scratch and tiles with their poison.
-/
namespace Sys2Proof

namespace AMap

variable {α : Type} [DecidableEq α]

theorem wf_put (d : α) (m : AMap α) (i : Nat) (x : α) (hx : x ≠ d) (h : wf d m = true) : wf d (put m i x) = true := by
  simp only [wf, Bool.and_eq_true] at *
  exact ⟨sortedFrom_put m 0 i x (by omega) h.1, all_put m i x _ (by simpa using hx) h.2⟩

theorem wf_del (d : α) (m : AMap α) (i : Nat) (h : wf d m = true) : wf d (del m i) = true := by
  simp only [wf, Bool.and_eq_true] at *
  exact ⟨sortedFrom_del m 0 i h.1, all_del m i _ h.2⟩

theorem sortedFrom_filter {β : Type} (m : AMap β) (lo : Nat) (p : Nat × β → Bool) (h : sortedFrom lo m = true) :
    sortedFrom lo (m.filter p) = true := by
  induction m generalizing lo with
  | nil => rfl
  | cons q m ih =>
    obtain ⟨k, v⟩ := q
    simp only [sortedFrom, Bool.and_eq_true] at h
    rw [List.filter_cons]
    split
    · simp only [sortedFrom, Bool.and_eq_true]
      exact ⟨h.1, ih (k + 1) h.2⟩
    · exact sortedFrom_mono _ lo (k + 1) (by have := h.1; simp at this; omega) (ih (k + 1) h.2)

theorem wf_filter (d : α) (m : AMap α) (p : Nat × α → Bool) (h : wf d m = true) : wf d (m.filter p) = true := by
  simp only [wf, Bool.and_eq_true] at *
  refine ⟨sortedFrom_filter m 0 p h.1, ?_⟩
  rw [List.all_eq_true] at *
  intro x hx
  exact h.2 x (List.mem_filter.mp hx).1

/-- A run of updates, each of which keeps the form. -/
theorem wf_foldl {β : Type} (d : α) (l : List β) (f : AMap α → β → AMap α) (hf : ∀ m b, wf d m = true → wf d (f m b) = true)
    (m : AMap α) (h : wf d m = true) : wf d (l.foldl f m) = true := by
  induction l generalizing m with
  | nil => exact h
  | cons b l ih => exact ih _ (hf m b h)

end AMap

namespace Machine

/-! ## A core's memories -/

theorem Core.memWf_iff (c : Core) :
    c.memWf = true ↔ AMap.wf 0 c.scratch = true ∧ AMap.wf false c.scratchPoison = true ∧ AMap.wf 0 c.tiles = true ∧
      AMap.wf false c.tilePoison = true := by
  simp [Core.memWf, Memory.wf, and_assoc]

theorem resetCore_memWf : resetCore.memWf = true := rfl

theorem Core.clearTile_memWf (c : Core) (t : Nat) (h : c.memWf = true) : (c.clearTile t).memWf = true := by
  rw [Core.memWf_iff] at *
  exact ⟨h.1, h.2.1, AMap.wf_filter _ _ _ h.2.2.1, AMap.wf_filter _ _ _ h.2.2.2⟩

theorem Core.copyTile_memWf (c : Core) (a b : Nat) (h : c.memWf = true) : (c.copyTile a b).memWf = true := by
  have hd := Core.clearTile_memWf c b h
  rw [Core.memWf_iff] at hd ⊢
  exact ⟨hd.1, hd.2.1, AMap.wf_foldl_set _ _ _ _ _ hd.2.2.1, AMap.wf_foldl_set _ _ _ _ _ hd.2.2.2⟩

/-- A run of updates of a core, each of which keeps the form. -/
theorem Core.memWf_foldl {β : Type} (l : List β) (f : Core → β → Core) (hf : ∀ c b, c.memWf = true → (f c b).memWf = true) (c : Core)
    (h : c.memWf = true) : (l.foldl f c).memWf = true := by
  induction l generalizing c with
  | nil => exact h
  | cons b l ih => exact ih _ (hf c b h)

theorem setTile_memWf (c : Core) (t : Nat) (bs : List PByte) (h : c.memWf = true) : (setTile c t bs).memWf = true := by
  refine Core.memWf_foldl _ _ (fun c r h => Core.memWf_foldl _ _ (fun c q h => ?_) c h) _ (Core.clearTile_memWf c t h)
  rw [Core.memWf_iff] at *
  refine ⟨h.1, h.2.1, AMap.wf_set _ _ _ _ h.2.2.1, ?_⟩
  dsimp only
  split
  · exact AMap.wf_set _ _ _ _ h.2.2.2
  · exact h.2.2.2

/-! ## The module's memories -/

theorem State.memWf_iff (s : State) :
    s.memWf = true ↔ AMap.wf 0 s.hbm = true ∧ AMap.wf false s.hbmPoison = true ∧ ∀ p ∈ s.cores, p.2.memWf = true := by
  simp [State.memWf, Memory.wf, and_assoc, List.all_eq_true]

theorem State.reset_memWf : State.reset.memWf = true := rfl

/-- An update that leaves the memories alone. -/
theorem State.memWf_same {s t : State} (h : s.memWf = true) (h1 : t.hbm = s.hbm) (h2 : t.hbmPoison = s.hbmPoison) (h3 : t.cores = s.cores) :
    t.memWf = true := by
  rw [State.memWf_iff] at *
  rwa [h1, h2, h3]

theorem State.modGrp_memWf (s : State) (k : Nat) (f : Group → Group) (h : s.memWf = true) : (s.modGrp k f).memWf = true :=
  State.memWf_same h rfl rfl rfl

/-- A run of updates of the state, each of which keeps the form. -/
theorem State.memWf_foldl {β : Type} (l : List β) (f : State → β → State) (hf : ∀ s b, s.memWf = true → (f s b).memWf = true) (s : State)
    (h : s.memWf = true) : (l.foldl f s).memWf = true := by
  induction l generalizing s with
  | nil => exact h
  | cons b l ih => exact ih _ (hf s b h)

theorem State.core_memWf (s : State) (c : Nat) (h : s.memWf = true) : (s.core c).memWf = true := by
  have h3 := ((State.memWf_iff s).mp h).2.2
  unfold State.core
  generalize s.cores = m at h3
  induction m with
  | nil => exact resetCore_memWf
  | cons q m ih =>
    obtain ⟨k, v⟩ := q
    simp only [AMap.get]
    split
    · exact h3 (k, v) (by simp)
    · exact ih (fun p hp => h3 p (List.mem_cons_of_mem _ hp))

theorem State.setCore_memWf (s : State) (c : Nat) (x : Core) (hx : x.memWf = true) (h : s.memWf = true) : (s.setCore c x).memWf = true := by
  rw [State.memWf_iff] at *
  refine ⟨h.1, h.2.1, ?_⟩
  have := AMap.all_put s.cores c x (fun p => p.2.memWf) hx (List.all_eq_true.mpr h.2.2)
  exact List.all_eq_true.mp this

theorem State.modCore_memWf (s : State) (c : Nat) (f : Core → Core) (hf : ∀ x : Core, x.memWf = true → (f x).memWf = true)
    (h : s.memWf = true) : (s.modCore c f).memWf = true :=
  State.setCore_memWf s c _ (hf _ (State.core_memWf s c h)) h

/-- An update of a core that leaves its memories alone. -/
theorem State.modCore_memWf_same (s : State) (c : Nat) (f : Core → Core) (h1 : ∀ x, (f x).scratch = x.scratch)
    (h2 : ∀ x, (f x).scratchPoison = x.scratchPoison) (h3 : ∀ x, (f x).tiles = x.tiles) (h4 : ∀ x, (f x).tilePoison = x.tilePoison)
    (h : s.memWf = true) : (s.modCore c f).memWf = true :=
  State.modCore_memWf s c f (fun x hx => by rw [Core.memWf_iff] at *; rwa [h1, h2, h3, h4]) h

/-! ## Scratch -/

theorem scratchWrite_memWf (s : State) (t : Nat) (bs : List (Nat × PByte)) (h : s.memWf = true) : (scratchWrite s t bs).memWf = true := by
  refine State.modCore_memWf s _ _ (fun c hc => ?_) h
  rw [Core.memWf_iff] at *
  refine ⟨AMap.wf_foldl_set _ _ _ _ _ hc.1, AMap.wf_foldl _ _ _ (fun m sec hm => ?_) _ hc.2.1, hc.2.2⟩
  dsimp only
  split
  · exact AMap.wf_set _ _ _ _ hm
  · split
    · exact AMap.wf_set _ _ _ _ hm
    · exact hm

/-! ## Tiles -/

theorem applyStep_memWf (s : State) (k op : Nat) (act : Lanes) (dst col : Nat) (elt : Nat → Nat → Word → KElt) (h : s.memWf = true) :
    (applyStep s k op act dst col elt).memWf = true := by
  unfold applyStep
  apply State.modGrp_memWf
  apply State.modCore_memWf _ _ _ _ h
  intro c hc
  rw [Core.memWf_iff] at *
  refine ⟨hc.1, hc.2.1, AMap.wf_foldl_set _ _ _ _ _ hc.2.2.1, AMap.wf_foldl _ _ _ (fun m o hm => ?_) _ hc.2.2.2⟩
  split
  · exact AMap.wf_set _ _ _ _ hm
  · exact hm

theorem restoreArrays_memWf (s : State) (t : Nat) (bs : List PByte) (h : s.memWf = true) : (restoreArrays s t bs).memWf = true := by
  unfold restoreArrays
  apply scratchWrite_memWf
  apply State.modCore_memWf
  · intro c hc
    apply Core.memWf_foldl _ _ _ c hc
    intro c p h
    have := (Core.memWf_iff _).mp (setTile_memWf c p.2 (bs.drop (bankArea (s.kernel (s.team t).kernel) + p.1.1 * tileBytes)) h)
    rw [Core.memWf_iff]
    dsimp only
    exact this
  apply State.modCore_memWf
  · intro c hc
    apply Core.memWf_foldl _ _ _ c hc
    intro c p h
    exact setTile_memWf c p.2 _ h
  apply State.modCore_memWf _ _ _ _ h
  intro c hc
  apply Core.memWf_foldl _ _ _ c hc
  intro c b h
  rw [Core.memWf_iff] at *
  exact h

/-! ## HBM -/

/-- What an operation that only records, counts and queues leaves: the memories as they were. -/
def SameHbm (s t : State) : Prop := t.hbm = s.hbm ∧ t.hbmPoison = s.hbmPoison ∧ t.cores = s.cores

theorem SameHbm.trans {s t u : State} (h : SameHbm s t) (g : SameHbm t u) : SameHbm s u :=
  ⟨g.1.trans h.1, g.2.1.trans h.2.1, g.2.2.trans h.2.2⟩

theorem SameHbm.memWf {s t : State} (h : SameHbm s t) (hs : s.memWf = true) : t.memWf = true :=
  State.memWf_same hs h.1 h.2.1 h.2.2

theorem report_sameHbm (s : State) (r : Rec) : SameHbm s (s.report r) := by
  unfold State.report; split <;> exact ⟨rfl, rfl, rfl⟩

theorem tellHost_sameHbm (s : State) (n : Nat) (r : Rec) : SameHbm s (s.tellHost n r) := by
  unfold State.tellHost; split <;> exact ⟨rfl, rfl, rfl⟩

theorem tally_sameHbm (s : State) (i : Nat) : SameHbm s (s.tally i) := ⟨rfl, rfl, rfl⟩

theorem askTest_sameHbm (s : State) (m u e : Nat) (b : Bool) : SameHbm s (s.askTest m u e b) := by
  unfold State.askTest; dsimp only; split <;> exact ⟨rfl, rfl, rfl⟩

theorem refreshFaq_sameHbm (s : State) (p c : Nat) : SameHbm s (refreshFaq s p c) := ⟨rfl, rfl, rfl⟩

theorem queueFault_sameHbm (s : State) (p c : Nat) (u : Bool) : SameHbm s (queueFault s p c u) := by
  unfold queueFault; dsimp only; split
  · exact ⟨rfl, rfl, rfl⟩
  · split <;> exact ⟨rfl, rfl, rfl⟩

/-- A new uncorrectable error poisons its half and changes no byte of HBM (R467). -/
theorem ueMarked_memories (s : State) (pa : Nat) :
    (ueMarked s pa).hbm = s.hbm ∧ (ueMarked s pa).hbmPoison = AMap.put s.hbmPoison (pa / 32) true ∧ (ueMarked s pa).cores = s.cores := by
  have h : ∀ f : Frame, SameHbm s (queueFault (State.setFrame (s.tally 16) (frameOf pa) f) (frameOf pa) (holdCtrl pa) true) := fun f =>
    ((tally_sameHbm s 16).trans ⟨rfl, rfl, rfl⟩).trans (queueFault_sameHbm _ _ _ _)
  unfold ueMarked
  have e := askTest_sameHbm
  refine ⟨(e _ _ _ _ _).1.trans (h _).1, (e _ _ _ _ _).2.1.trans ?_, (e _ _ _ _ _).2.2.trans (h _).2.2⟩
  exact congrArg (fun m => AMap.put m (pa / 32) true) (h _).2.1

/-- The same of one that a read meets: its record and message change no memory. -/
theorem ueDetected_memories (s : State) (pa : Nat) :
    (ueDetected s pa).hbm = s.hbm ∧ (ueDetected s pa).hbmPoison = AMap.put s.hbmPoison (pa / 32) true ∧ (ueDetected s pa).cores = s.cores := by
  have h : SameHbm s ((s.report (ueRec s pa)).tellHost 1 (ueRec s pa)) := (report_sameHbm s _).trans (tellHost_sameHbm _ 1 _)
  have e := ueMarked_memories ((s.report (ueRec s pa)).tellHost 1 (ueRec s pa)) pa
  exact ⟨e.1.trans h.1, by rw [← h.2.1]; exact e.2.1, e.2.2.trans h.2.2⟩

theorem ueDetected_memWf (s : State) (pa : Nat) (h : s.memWf = true) : (ueDetected s pa).memWf = true := by
  have e := ueDetected_memories s pa
  rw [State.memWf_iff] at *
  rw [e.1, e.2.1, e.2.2]
  exact ⟨h.1, AMap.wf_put _ _ _ _ (by decide) h.2.1, h.2.2⟩

/-- A read of a half changes no byte of HBM (R467). -/
theorem readHalf_hbm (s : State) (sec : Nat) : (readHalf s sec).hbm = s.hbm := by
  unfold readHalf; split
  · exact (ueDetected_memories s _).1
  · rfl

theorem readHalf_memWf (s : State) (sec : Nat) (h : s.memWf = true) : (readHalf s sec).memWf = true := by
  unfold readHalf; split
  · exact ueDetected_memWf s _ h
  · exact h

/-- Bytes put into HBM with a poison bit of their half. -/
theorem putHalf_memWf (s : State) (sec : Nat) (bs : List (Nat × PByte)) (b : Bool) (bad : AMap Bool) (h : s.memWf = true) :
    State.memWf { s with hbm := bs.foldl (fun m b => AMap.set 0 m (sec * 32 + b.1 % 32) b.2.val) s.hbm,
                         hbmPoison := AMap.set false s.hbmPoison sec b, hbmBad := bad } = true := by
  rw [State.memWf_iff] at h
  exact (State.memWf_iff _).mpr ⟨AMap.wf_foldl_set 0 bs (fun b => sec * 32 + b.1 % 32) (fun b => b.2.val) _ h.1, AMap.wf_set _ _ _ _ h.2.1, h.2.2⟩

theorem writeHalf_memWf (s : State) (sec : Nat) (bs : List (Nat × PByte)) (h : s.memWf = true) : (writeHalf s sec bs).memWf = true := by
  unfold writeHalf; dsimp only
  by_cases hl : bs.length = 32
  · simp only [hl, decide_true, if_true]
    exact putHalf_memWf s sec bs _ _ h
  · simp only [hl, decide_false, Bool.false_eq_true, if_false]
    exact putHalf_memWf (readHalf s sec) sec bs _ _ (readHalf_memWf s sec h)

/-- A 64-byte write (R369). -/
theorem writeAccess_memWf (s : State) (pa : Nat) (bs : List (Nat × PByte)) (h : s.memWf = true) : (writeAccess s pa bs).memWf = true := by
  unfold writeAccess
  have h1 : (touchRow s pa).memWf = true := State.memWf_same h rfl rfl rfl
  split
  · exact h
  · dsimp only
    split
    · exact (report_sameHbm _ _).memWf h1
    · refine State.memWf_foldl _ _ (fun s k h => ?_) _ h1
      split
      · exact h
      · exact writeHalf_memWf _ _ _ h

/-- A write of a line's bytes. -/
theorem writeHbmLine_memWf (s : State) (pa : Nat) (bs : List (Nat × PByte)) (h : s.memWf = true) : (writeHbmLine s pa bs).memWf = true :=
  writeAccess_memWf _ _ _ (writeAccess_memWf s pa _ h)

/-! ## L1 and the fabric leave the memories behind them alone -/

theorem sendReq_memWf (s : State) (r g o a l : Nat) (b : ReqBody) (h : s.memWf = true) : (sendReq s r g o a l b).memWf = true :=
  State.memWf_same h rfl rfl rfl

theorem sendReply_memWf (s : State) (m : Msg) (r : RepBody) (h : s.memWf = true) : (sendReply s m r).memWf = true :=
  State.memWf_same h rfl rfl rfl

theorem setL1_memWf (s : State) (c asid line : Nat) (x : L1Line) (h : s.memWf = true) : (setL1 s c asid line x).memWf = true :=
  State.modCore_memWf_same s c _ (fun _ => rfl) (fun _ => rfl) (fun _ => rfl) (fun _ => rfl) h

theorem dropL1_memWf (s : State) (c asid line : Nat) (h : s.memWf = true) : (dropL1 s c asid line).memWf = true :=
  State.modCore_memWf_same s c _ (fun _ => rfl) (fun _ => rfl) (fun _ => rfl) (fun _ => rfl) h

theorem newerThan_memWf (s : State) (c asid line : Nat) (bs : List (Nat × PByte)) (h : s.memWf = true) :
    (newerThan s c asid line bs).memWf = true := by
  unfold newerThan
  refine State.memWf_foldl _ _ (fun s k h => ?_) s h
  split
  · exact h
  · exact State.modGrp_memWf _ _ _ h

theorem sendWriteBack_memWf (s : State) (c asid line : Nat) (h : s.memWf = true) : (sendWriteBack s c asid line).memWf = true := by
  unfold sendWriteBack; split
  · exact h
  · split
    · exact h
    · exact setL1_memWf _ _ _ _ _ (sendReq_memWf _ _ _ _ _ _ _ (newerThan_memWf _ _ _ _ _ h))

/-! ## Steps that move tiles and scratch -/

theorem execTilePortMove_memWf (s t : State) (h : s.memWf = true) (e : execTilePortMove s = .next t) : t.memWf = true := by
  unfold execTilePortMove at e
  dsimp only at e
  split at e
  · cases e; exact State.memWf_same h rfl rfl rfl
  · cases e
    apply State.modGrp_memWf
    split
    · exact State.modGrp_memWf _ _ _ h
    · apply State.modCore_memWf _ _ _ _ h
      intro c hc
      rw [Core.memWf_iff] at *
      exact ⟨hc.1, hc.2.1,
        AMap.wf_foldl _ _ _ (fun m r hm => AMap.wf_foldl _ _ _ (fun m j hm => AMap.wf_set _ _ _ _ hm) m hm) _ hc.2.2.1,
        AMap.wf_foldl _ _ _ (fun m r hm => AMap.wf_foldl _ _ _ (fun m j hm => AMap.wf_set _ _ _ _ hm) m hm) _ hc.2.2.2⟩

theorem execWayConversion_memWf (s t : State) (h : s.memWf = true) (e : execWayConversion s = .next t) : t.memWf = true := by
  unfold execWayConversion at e
  dsimp only at e
  split at e
  · cases e; exact State.memWf_same h rfl rfl rfl
  · split at e
    · cases e; exact State.memWf_same h rfl rfl rfl
    · split at e
      · split at e
        · cases e
          apply State.modCore_memWf
          · intro c hc
            rw [Core.memWf_iff] at *
            exact hc
          exact h
        · split at e
          · cases e; exact State.memWf_same h rfl rfl rfl
          · cases e
            exact State.memWf_foldl _ _ (fun s p h => sendWriteBack_memWf _ _ _ _ h) _ h
      · cases e
        apply State.modCore_memWf _ _ _ _ h
        intro c hc
        rw [Core.memWf_iff] at *
        exact ⟨AMap.wf_filter _ _ _ hc.1, AMap.wf_filter _ _ _ hc.2.1, hc.2.2⟩

end Machine

end Sys2Proof
end

