-- ==== Sys2Proof/Laws/Scalar.lean ====
section
/-!
SUPPORT. What the shared operations of scalar words do, said once: the issue, the fold, the result.
-/
namespace Sys2Proof.Machine

/-- A well-formed word that meets no hold is its own body. -/
theorem issueScalar_free (i : Instr) (n : Needs) (s : State) (body : State → Out) (hi : scalarCheck i = none) (hf : Free s n) :
    issueScalar i n s body = body s := by
  simp [issueScalar, hi, hf.1, hf.2]

/-- A word behind a result it needs waits. -/
theorem issueScalar_held (i : Instr) (n : Needs) (s : State) (body : State → Out) (hi : scalarCheck i = none)
    (hr : s.cur.replay = false) (hh : scalarHazard s s.cur.grp n = true) :
    issueScalar i n s body = .next (waitFor s (hazardReason (s.grp s.cur.grp) n)) := by
  simp [issueScalar, hi, hr, hh]

/-- A bit of three words in a row. -/
theorem getLsbD_words (a b c : Word) (i : Nat) :
    (a ++ b ++ c : Lanes).getLsbD i
      = if i < 32 then c.getLsbD i else if i < 64 then b.getLsbD (i - 32) else a.getLsbD (i - 64) := by
  have h1 := BitVec.getLsbD_append (x := a ++ b) (y := c) (i := i)
  have h2 := BitVec.getLsbD_append (x := a) (y := b) (i := i - 32)
  refine Eq.trans h1 ?_
  by_cases h : i < 32
  · simp [h]
  · simp only [h, if_false]
    refine Eq.trans h2 ?_
    by_cases h' : i < 64
    · have : i - 32 < 32 := by omega
      simp [h', this]
    · have : ¬ (i - 32 < 32) := by omega
      have h3 : i - 32 - 32 = i - 64 := by omega
      simp [h', this, h3]

theorem maskWord_bit (m : Lanes) (k i : Nat) : (maskWord m k).getLsbD i = (decide (i < 32) && m.getLsbD (32 * k + i)) := by
  simp [maskWord, BitVec.getLsbD_extractLsb']

/-- A mask word reads as it was written; the others as before (R114). -/
@[simp] theorem maskWord_setMaskWord (m : Lanes) (k j : Nat) (x : Word) (hk : k < 3) (hj : j < 3) :
    maskWord (setMaskWord m k x) j = if j = k then x else maskWord m j := by
  apply BitVec.eq_of_getLsbD_eq
  intro i hi
  have h1 : k = 0 ∨ k = 1 ∨ k = 2 := by omega
  have h2 : j = 0 ∨ j = 1 ∨ j = 2 := by omega
  have e1 : 32 + i - 32 = i := by omega
  have e2 : 64 + i - 64 = i := by omega
  have n1 : ¬ 32 + i < 32 := by omega
  have n2 : ¬ 64 + i < 32 := by omega
  have n3 : ¬ 64 + i < 64 := by omega
  have p1 : 32 + i < 64 := by omega
  rcases h1 with h1 | h1 | h1 <;> rcases h2 with h2 | h2 | h2 <;> subst h1 <;> subst h2 <;>
    simp only [maskWord_bit, setMaskWord] <;> rw [getLsbD_words] <;>
    simp [hi, maskWord, BitVec.getElem_extractLsb', e1, e2, n1, n2, n3, p1]

/-! ## Registers -/

@[simp] theorem zero_halves (x : DWord) : x.extractLsb' 32 32 ++ x.extractLsb' 0 32 = x := by
  apply BitVec.eq_of_getLsbD_eq
  intro i hi
  rw [BitVec.getLsbD_append]
  by_cases h : i < 32
  · simp [h]
  · have h2 : i - 32 < 32 := by omega
    have h3 : 32 + (i - 32) = i := by omega
    simp [h, h2, h3]

theorem high_half (x y : Word) : (x ++ y).extractLsb' 32 32 = x := by
  apply BitVec.eq_of_getLsbD_eq
  intro i hi
  rw [BitVec.getLsbD_extractLsb', BitVec.getLsbD_append]
  have h : ¬ 32 + i < 32 := by omega
  have h2 : 32 + i - 32 = i := by omega
  simp [h, h2, hi]

/-- A written register reads as written; s0 stays zero (R208, R231). -/
theorem readS_writeS (s : State) (k : Nat) (z : Bool) (r : Nat) (x : SReg) (hr : r ≠ 58) :
    readS (writeS s k z r x) k z r = if r = 0 then zeroReg else x := by
  unfold readS writeS
  simp only [State.modGrp_eq, State.grp_setGrp]
  by_cases h0 : r = 0
  · simp [h0]
  · simp only [h0, hr, if_false]
    by_cases h60 : 60 ≤ r ∧ r ≤ 62
    · have hk : r - 60 < 3 := by omega
      simp only [h60, and_self, if_true, Group.writeS, h0, if_false]
      cases z <;> simp [Group.sraw, Group.modSlot, Group.setSlot, Group.slot, hk, high_half]
    · simp [h60, Group.writeS, h0, Group.sraw]

/-- The other registers read as before, by either slot. -/
theorem readS_writeS_ne (s : State) (k : Nat) (z y : Bool) (r q : Nat) (x : SReg) (h : q ≠ r) :
    readS (writeS s k z r x) k y q = readS s k y q := by
  unfold readS writeS
  simp only [State.modGrp_eq, State.grp_setGrp]
  by_cases h0 : q = 0
  · simp [h0]
  · simp only [h0, if_false]
    by_cases h58 : q = 58
    · subst h58
      simp only [if_true, Group.writeS]
      split
      · simp
      · split <;> cases z <;> cases y <;> simp [Group.modSlot, Group.setSlot, Group.slot]
    · simp only [h58, if_false]
      by_cases hr0 : r = 0
      · simp [Group.writeS, hr0]
      · by_cases h60 : 60 ≤ r ∧ r ≤ 62
        · simp only [Group.writeS, hr0, if_false, h60, and_self, if_true]
          by_cases hq : 60 ≤ q ∧ q ≤ 62
          · have hk : r - 60 < 3 := by omega
            have hj : q - 60 < 3 := by omega
            have hne : q - 60 ≠ r - 60 := by omega
            cases z <;> cases y <;>
              simp [hq, Group.sraw, Group.modSlot, Group.setSlot, Group.slot, hk, hj, hne, AMap.get_set_ne, h]
          · cases z <;> cases y <;>
              simp [hq, Group.sraw, Group.modSlot, Group.setSlot, Group.slot, AMap.get_set_ne, h]
        · cases z <;> cases y <;> simp [Group.writeS, hr0, h60, Group.sraw, Group.slot, AMap.get_set_ne, h]

/-! ## Results -/


/-- A group update in place: the state with group k replaced. -/
theorem setGrp_setGrp (s : State) (k : Nat) (g h : Group) : (s.setGrp k g).setGrp k h = s.setGrp k h := by
  have : AMap.put (AMap.put s.groups k g) k h = AMap.put s.groups k h := by
    induction s.groups with
    | nil => simp [AMap.put]
    | cons p m ih =>
      obtain ⟨i, v⟩ := p
      simp only [AMap.put]
      split
      · simp [AMap.put]
      · split
        · simp [AMap.put]
        · simp [AMap.put, *]
  simp [State.setGrp, this]

theorem onlyGroup_setGrp (s : State) (k : Nat) (g : Group) : OnlyGroup s (s.setGrp k g) k :=
  ⟨rfl, fun j h => State.grp_setGrp_ne s k j g h⟩

/-- The group after a word has been folded. -/
def folded (s : State) : Group :=
  let g := s.grp s.cur.grp
  let x := g.slot s.cur.second
  if x.issued then g.setSlot s.cur.second { x with reason := .none }
  else
    ({ g with skip := 0, skid := if g.phase = GPhase.stopping then g.skid + 1 else g.skid, lastpos := (s.cur.ovlid, s.cur.lxpc),
              lastslot := s.cur.second }).setSlot s.cur.second
      { x with acc := crcWord x.acc (s.cur.word.setWidth 32), reason := .none, lastIssue := s.steps, kept := false, rej := none }

theorem foldWord_eq (s : State) (hr : s.cur.replay = false) : foldWord s = s.setGrp s.cur.grp (folded s) := by
  unfold foldWord folded
  simp only [hr, Bool.false_eq_true, if_false, State.modSlot_eq, countIssue, State.modGrp_eq]
  split
  · rfl
  · simp only [setGrp_setGrp, State.grp_setGrp, Group.modSlot]
    cases s.cur.second <;> rfl

theorem folded_keeps (s : State) :
    let g := s.grp s.cur.grp
    { folded s with s := g.s, slot0 := g.slot0, slot1 := g.slot1, sbusy := g.sbusy, skip := g.skip, skid := g.skid,
                    lastpos := g.lastpos, lastslot := g.lastslot } = g := by
  unfold folded; simp only
  split <;> cases s.cur.second <;> rfl

theorem folded_s (s : State) : (folded s).s = (s.grp s.cur.grp).s := by
  unfold folded; simp only
  split <;> cases s.cur.second <;> rfl

theorem folded_other (s : State) : (folded s).slot (!s.cur.second) = (s.grp s.cur.grp).slot (!s.cur.second) := by
  unfold folded; simp only
  split <;> cases s.cur.second <;> rfl

theorem folded_slot (s : State) :
    (folded s).slot s.cur.second
      = { issuing s s with
            acc := if (issuing s s).issued then (issuing s s).acc else crcWord (issuing s s).acc (s.cur.word.setWidth 32)
            reason := .none
            lastIssue := if (issuing s s).issued then (issuing s s).lastIssue else s.steps
            kept := (issuing s s).issued && (issuing s s).kept
            rej := if (issuing s s).issued then (issuing s s).rej else none } := by
  unfold folded issuing; simp only
  split <;> rename_i h <;> simp_all

/-- A register write as a group update. -/
theorem writeS_eq (s : State) (k : Nat) (z : Bool) (r : Nat) (x : SReg) : writeS s k z r x = s.setGrp k ((s.grp k).writeS z r x) := rfl

theorem readS_slots (s : State) (k : Nat) (g h : Group) (z : Bool) (q : Nat) (hs : g.s = h.s)
    (hm : (g.slot z).mask = (h.slot z).mask) (ho : (g.slot z).ok = (h.slot z).ok) :
    readS (s.setGrp k g) k z q = readS (s.setGrp k h) k z q := by
  simp [readS, Group.sraw, hs, hm, ho]

theorem setGrp_same_reads (s : State) (k : Nat) (z : Bool) (q : Nat) : readS (s.setGrp k (s.grp k)) k z q = readS s k z q := by
  simp [readS]

/-- The register is held until its latency has passed (R232). -/
def holdReg (g : Group) (d : SIndex) (busy : Option Bool) : Group :=
  match busy with
  | none => g
  | some dv => if d = 0 && !dv then g else { g with sbusy := g.sbusy ++ [(⟨d, 0, dv⟩ : SBusy)] }

/-- The group after a scalar result. -/
def resulted (s : State) (d : SIndex) (x : SReg) (busy : Option Bool) : Group :=
  (holdReg ((folded s).writeS s.cur.second d.toNat x) d busy).modSlot s.cur.second (fun sl => { sl with pc := sl.pc + 1, issued := false, waitPhase := none })

theorem writeResult_eq (s : State) (d : SIndex) (x : SReg) (busy : Option Bool) (hr : s.cur.replay = false) :
    writeResult s d x busy = s.setGrp s.cur.grp (resulted s d x busy) := by
  unfold writeResult ws advance resulted
  simp only [foldWord_eq s hr, writeS_eq, State.setGrp_cur, State.grp_setGrp, setGrp_setGrp, State.modSlot_eq, State.modGrp_eq]
  cases busy with
  | none => simp [hr, setGrp_setGrp, holdReg]
  | some dv =>
    unfold holdReg
    by_cases h : (decide (d = 0) && !dv) = true
    · simp only [h, if_true, State.setGrp_cur, hr, Bool.false_eq_true, if_false, State.grp_setGrp, setGrp_setGrp]
    · simp only [h, Bool.false_eq_true, if_false, State.setGrp_cur, hr, State.grp_setGrp, setGrp_setGrp]

theorem writeS_keeps (g : Group) (z : Bool) (r : Nat) (x : SReg) :
    { g.writeS z r x with s := g.s, slot0 := g.slot0, slot1 := g.slot1 } = g := by
  unfold Group.writeS
  split
  · rfl
  · split
    · cases z <;> rfl
    · rfl

theorem writeS_other (g : Group) (z : Bool) (r : Nat) (x : SReg) : (g.writeS z r x).slot (!z) = g.slot (!z) := by
  unfold Group.writeS
  split
  · rfl
  · split
    · cases z <;> rfl
    · cases z <;> rfl

theorem writeS_slot (g : Group) (z : Bool) (r : Nat) (x : SReg) :
    (g.writeS z r x).slot z = { g.slot z with mask := ((g.writeS z r x).slot z).mask } := by
  unfold Group.writeS
  by_cases h0 : r = 0
  · simp [h0]
  · simp only [h0, if_false]
    by_cases h : 60 ≤ r ∧ r ≤ 62
    · simp only [h, and_self, if_true]; cases z <;> rfl
    · simp only [h, if_false]; cases z <;> rfl

theorem writeS_mask (g : Group) (z : Bool) (r : Nat) (x : SReg) (h : ¬ (60 ≤ r ∧ r ≤ 62)) :
    ((g.writeS z r x).slot z).mask = (g.slot z).mask := by
  unfold Group.writeS
  by_cases h0 : r = 0
  · simp [h0]
  · simp only [h0, h, if_false]; cases z <;> rfl

theorem resulted_slots (s : State) (d : SIndex) (x : SReg) (busy : Option Bool) :
    (resulted s d x busy).slot (!s.cur.second) = (s.grp s.cur.grp).slot (!s.cur.second)
      ∧ ∃ m, (¬ (60 ≤ d.toNat ∧ d.toNat ≤ 62) → m = (issuing s s).mask)
        ∧ m = (((folded s).writeS s.cur.second d.toNat x).slot s.cur.second).mask
        ∧ (resulted s d x busy).slot s.cur.second =
          { issuing s s with
              pc := (issuing s s).pc + 1, issued := false, waitPhase := none, reason := .none, mask := m
              acc := if (issuing s s).issued then (issuing s s).acc else crcWord (issuing s s).acc (s.cur.word.setWidth 32)
              lastIssue := if (issuing s s).issued then (issuing s s).lastIssue else s.steps
              kept := (issuing s s).issued && (issuing s s).kept
              rej := if (issuing s s).issued then (issuing s s).rej else none } := by
  have h1 := writeS_slot (folded s) s.cur.second d.toNat x
  have h2 := writeS_mask (folded s) s.cur.second d.toNat x
  generalize hm : ((((folded s).writeS s.cur.second d.toNat x)).slot s.cur.second).mask = m at *
  have h3 := writeS_other (folded s) s.cur.second d.toNat x
  rw [folded_other] at h3
  rw [folded_slot] at h1 h2
  unfold resulted
  generalize (folded s).writeS s.cur.second d.toNat x = g at *
  have key : ∀ g' : Group, g'.slot0 = g.slot0 → g'.slot1 = g.slot1 →
      (g'.modSlot s.cur.second (fun sl => { sl with pc := sl.pc + 1, issued := false, waitPhase := none })).slot (!s.cur.second)
        = g.slot (!s.cur.second)
      ∧ (g'.modSlot s.cur.second (fun sl => { sl with pc := sl.pc + 1, issued := false, waitPhase := none })).slot s.cur.second
        = { g.slot s.cur.second with pc := (g.slot s.cur.second).pc + 1, issued := false, waitPhase := none } := by
    intro g' h0 h1
    cases s.cur.second <;> simp [Group.modSlot, Group.setSlot, Group.slot, h0, h1]
  have fin : ∀ g' : Group, g'.slot0 = g.slot0 → g'.slot1 = g.slot1 → _ := fun g' a b => by
    have h := key g' a b
    rw [h3, h1] at h
    exact h
  have h6 : (holdReg g d busy).slot0 = g.slot0 ∧ (holdReg g d busy).slot1 = g.slot1 := by
    unfold holdReg; split
    · exact ⟨rfl, rfl⟩
    · split <;> exact ⟨rfl, rfl⟩
  exact ⟨(fin _ h6.1 h6.2).1, m, h2, rfl, (fin _ h6.1 h6.2).2⟩

theorem resulted_keeps (s : State) (d : SIndex) (x : SReg) (busy : Option Bool) :
    let g := s.grp s.cur.grp
    { (resulted s d x busy) with s := g.s, slot0 := g.slot0, slot1 := g.slot1, sbusy := g.sbusy, skip := g.skip, skid := g.skid,
                                 lastpos := g.lastpos, lastslot := g.lastslot } = g := by
  have h1 := writeS_keeps (folded s) s.cur.second d.toNat x
  have h2 := folded_keeps s
  unfold resulted
  generalize (folded s).writeS s.cur.second d.toNat x = g at *
  simp only at h2 ⊢
  rw [← h2, ← h1]
  unfold holdReg
  cases busy with
  | none => cases s.cur.second <;> rfl
  | some dv => simp only; split <;> cases s.cur.second <;> rfl

theorem resulted_s (s : State) (d : SIndex) (x : SReg) (busy : Option Bool) :
    (resulted s d x busy).s = ((folded s).writeS s.cur.second d.toNat x).s := by
  unfold resulted
  unfold holdReg
  cases busy with
  | none => cases s.cur.second <;> rfl
  | some dv => simp only; split <;> cases s.cur.second <;> rfl

theorem resulted_team (s : State) (d : SIndex) (x : SReg) (busy : Option Bool) : (resulted s d x busy).team = (s.grp s.cur.grp).team := by
  have := congrArg Group.team (resulted_keeps s d x busy)
  exact this

theorem folded_team (s : State) : (folded s).team = (s.grp s.cur.grp).team := by
  have := congrArg Group.team (folded_keeps s)
  exact this

/-- A scalar result (R231): the register, the frame, and the slot at the next word. -/
theorem writeResult_spec (s : State) (d : SIndex) (x : SReg) (busy : Option Bool) (hd : d ≠ 58) (hr : s.cur.replay = false) :
    let t := writeResult s d x busy
    regAfter s t d = (if d = 0 then zeroReg else x) ∧ ScalarFrame s t d ∧ WentTo s t ((issuing s s).pc + 1) := by
  have hd' : d.toNat ≠ 58 := fun h => hd (BitVec.eq_of_toNat_eq h)
  have hs := resulted_slots s d x busy
  obtain ⟨ho, m, hm1, hm2, hsl⟩ := hs
  simp only [writeResult_eq s d x busy hr]
  have hw : writeS (s.setGrp s.cur.grp (folded s)) s.cur.grp s.cur.second d.toNat x
      = s.setGrp s.cur.grp ((folded s).writeS s.cur.second d.toNat x) := by simp [writeS_eq, setGrp_setGrp]
  have slotF := folded_slot s
  have w1 := writeS_slot (folded s) s.cur.second d.toNat x
  have reads : ∀ z q, readS (s.setGrp s.cur.grp (resulted s d x busy)) s.cur.grp z q
      = readS (writeS (s.setGrp s.cur.grp (folded s)) s.cur.grp s.cur.second d.toNat x) s.cur.grp z q := by
    intro z q
    rw [hw]
    by_cases hz : z = s.cur.second
    · subst hz
      apply readS_slots
      · exact resulted_s ..
      · rw [hsl]; exact hm2
      · rw [hsl, w1, slotF]
    · have hz' : z = !s.cur.second := by cases z <;> cases h : s.cur.second <;> simp_all
      subst hz'
      have e : (resulted s d x busy).slot (!s.cur.second) = ((folded s).writeS s.cur.second d.toNat x).slot (!s.cur.second) := by
        rw [ho, writeS_other, folded_other]
      apply readS_slots
      · exact resulted_s ..
      · rw [e]
      · rw [e]
  have readsF : ∀ z q, readS (s.setGrp s.cur.grp (folded s)) s.cur.grp z q = readS s s.cur.grp z q := by
    intro z q
    rw [← setGrp_same_reads s s.cur.grp z q]
    by_cases hz : z = s.cur.second
    · subst hz
      apply readS_slots
      · exact folded_s s
      · rw [slotF]; rfl
      · rw [slotF]; rfl
    · have hz' : z = !s.cur.second := by cases z <;> cases h : s.cur.second <;> simp_all
      subst hz'
      apply readS_slots
      · exact folded_s s
      · rw [folded_other]
      · rw [folded_other]
  refine ⟨?_, ⟨onlyGroup_setGrp .., ?_, ?_, ?_, ?_⟩, ?_⟩
  · unfold regAfter
    rw [reads]
    rw [readS_writeS _ _ _ _ _ hd']
    by_cases h : d = 0
    · simp [h]
    · have : d.toNat ≠ 0 := fun h' => h (BitVec.eq_of_toNat_eq h')
      rw [if_neg this, if_neg h]
  · simp only [KeepsGroup, State.grp_setGrp]; exact resulted_keeps s d x busy
  · simp only [OtherSlot, State.grp_setGrp]; exact ho
  · intro r hrd z
    have : r.toNat ≠ d.toNat := fun h => hrd (BitVec.eq_of_toNat_eq h)
    rw [reads, readS_writeS_ne _ _ _ _ _ _ _ this, readsF]
  · intro h
    unfold KeepsMask
    rw [← hm1 h]
    simp [issuing, hsl]
  · unfold WentTo WentAfter
    have : issuing s (s.setGrp s.cur.grp (resulted s d x busy)) = (resulted s d x busy).slot s.cur.second := by simp [issuing]
    simp [this, hsl]
end Sys2Proof.Machine
end

