-- ==== Sys2Proof/Tests/Slice0.lean ====
section
/-!
SUPPORT. Tests of the model against the words and results the spec writes out, refusals of ill-formed instructions, and
for each statement with hypotheses a state that meets them.
-/
open Sys2Proof Sys2Proof.Machine Sys2Proof.Claims

namespace Sys2Proof.Machine.Tests

-- One theorem after another: a `decide +kernel` that waits for the one before it would hold a thread of its own.
set_option Elab.async false

/-! ## Witnesses: states and operands that meet the hypotheses of the statements, a clause at a time -/

/-- A scalar word w at the head of slot 0, its group as f makes it. -/
def at32 (w : Nat) (f : Group → Group := id) : State :=
  let s := (State.reset.withFetchWord 32 w).modGrp 0 f
  { s with cur := slotSubject s 0 false }

/-- A lane word w at the head of the lane queue, its group as f makes it. -/
def at96 (w : Nat) (f : Group → Group := id) : State :=
  let s := (State.reset.withFetchWord 96 w).modGrp 0 f
  { s with cur := laneSubject s 0 ((headBlock s 0).getD ⟨0, [], [], 0, 0, 0, 0, 0, 0, false, 0⟩) }

/-- A scalar register set. -/
def sets (l : List (Nat × DWord)) (g : Group) : Group := { g with s := l.foldl (fun m p => AMap.put m p.1 ⟨p.2, false⟩) g.s }

def sets' (s : State) (l : List (Nat × DWord)) : State := s.modGrp 0 (sets l)

/-- A team with four scratch ways in a cluster of two, in a context of the SYS right; its kernel may speculate. -/
def roomy (s : State) : State :=
  { s with teams := AMap.put s.teams 0 { s.team 0 with ways := [0, 1, 2, 3] },
           kernels := AMap.put s.kernels 1 { s.kernel 1 with csize := 2, teams := 8, ways := 4, coop := true, spec := true },
           ctxs := AMap.put s.ctxs 1 { s.ctx 1 with sys := true } }

/-- A scalar memory word with s6 = x. -/
def mem32 (x : DWord) : State := sets' (roomy (at32 0x80510008)) [(6, x)]

def isOk {α : Type} [DecidableEq α] (r : Except Nat α) (x : α) : Bool :=
  match r with
  | .ok y => decide (y = x)
  | .error _ => false

def isErr {α : Type} (r : Except Nat α) (e : Nat) : Bool :=
  match r with
  | .ok _ => false
  | .error y => decide (y = e)

theorem isOk_iff {α : Type} [DecidableEq α] {r : Except Nat α} {x : α} : r = .ok x ↔ isOk r x = true := by
  cases r <;> simp [isOk]

def some? {α : Type} (r : Except Nat α) : Bool :=
  match r with
  | .ok _ => true
  | .error _ => false

theorem some_iff {α : Type} {r : Except Nat α} : (∃ x, r = .ok x) ↔ some? r = true := by
  cases r <;> simp [some?]

theorem isErr_iff {α : Type} {r : Except Nat α} {e : Nat} : r = .error e ↔ isErr r e = true := by
  cases r <;> simp [isErr]

/-- Fields of a lane word guarded by nothing. -/
def lf (vd : BitVec 9 := 0) (va : BitVec 9 := 0) (vb : BitVec 9 := 0) (vc : BitVec 9 := 0) (xmod : BitVec 10 := 0) (imm : BitVec 32 := 0) :
    LaneFields := ⟨vd, va, vb, vc, 0, false, xmod, false, false, 0, imm⟩

/-- The first lane word of a block, every lane active. -/
def lane (f : Group → Group := id) : State := at96 0 f


/-- Its operands in a roomy team: scalar registers as listed, and v3 with a number per lane. -/
def laneAt (l : List (Nat × DWord)) (v3 : Nat → Nat := fun _ => 0) : State :=
  (sets' (roomy lane) l).modGrp 0 (fun g => { g with v := (List.range 96).foldl (fun m x => AMap.put m (96 * 3 + x) ⟨BitVec.ofNat 32 (v3 x), false⟩) g.v })

/-- Only the first n lanes of the block's mask. -/
def first (n : Nat) (s : State) : State := { s with cur := { s.cur with mask := BitVec.ofNat 96 (2 ^ n - 1) } }

/-! The longer hypotheses as tests the kernel runs. -/

def newB (s : State) : Bool :=
  (s.grp s.cur.grp).ops.all (fun o => decide (o.id < s.nextId)) && (s.grp s.cur.grp).loads.all (fun o => decide (o.op < s.nextId)) &&
    (s.grp s.cur.grp).fetches.all (fun o => decide (o.op < s.nextId)) && (s.grp s.cur.grp).fifo.all (fun o => decide (o.op < s.nextId)) &&
    (s.grp s.cur.grp).sbusy.all (fun o => decide (o.op < s.nextId ∨ o.op = 0)) && s.remotes.all (fun o => decide (o.op < s.nextId)) &&
    s.gops.all (fun o => decide (o.op < s.nextId)) && decide (0 < s.nextId)

theorem new_iff (s : State) : NewName s ↔ newB s = true := by
  simp [NewName, newB, and_assoc]

def freeB (s : State) (op : LaneOp) (f : LaneFields) : Bool :=
  !s.cur.replay && decide (laneCheck op f = none) && decide (grantCheck (s.grp s.cur.grp).grant op f = none) &&
    !laneBusy (s.grp s.cur.grp) [(op, f)] && decide (guardPoison (s.grp s.cur.grp) s.cur.mask f = 0)

theorem free_iff (s : State) (op : LaneOp) (f : LaneFields) : LaneFree s op f ↔ freeB s op f = true := by
  simp [LaneFree, freeB, and_assoc]

def goesB (s : State) (op : LaneOp) (f : LaneFields) (cls : CtrClass) (fenced : Bool) : Bool :=
  freeB s op f && (List.range 96).any (acts s f) && decide (s.cur.blk ≠ 0) && !laneHeld (s.grp s.cur.grp) s.cur.blk fenced &&
    decide ((s.grp s.cur.grp).count cls < 63)

theorem goes_iff (s : State) (op : LaneOp) (f : LaneFields) (cls : CtrClass) (fenced : Bool) :
    LaneGoes s op f cls fenced ↔ goesB s op f cls fenced = true := by
  simp [LaneGoes, InBlock, goesB, free_iff, and_assoc]

def trapsB (s : State) : Bool := decide ((s.grp s.cur.grp).phase = .running) && decide ((s.teamOf s.cur.grp).state ≠ .handler)

theorem traps_iff (s : State) : TrapsHere s ↔ trapsB s = true := by
  simp [TrapsHere, trapsB]

/-! ## Events -/

/-- A running module with the subject of an event. -/
def still (x : Subject) : State := { roomy (State.reset.withFetchWord 32 0) with cur := x }

def about (a : Nat := 0) (b : Nat := 0) (c : Nat := 0) (flag : Bool := false) : Subject := { noSubject with a := a, b := b, c := c, flag := flag }

def grp0 (f : Group → Group) (s : State) : State := s.modGrp 0 f
def team0 (f : Team → Team) (s : State) : State := { s with teams := AMap.put s.teams 0 (f (s.team 0)) }
def kernel1 (f : Kernel → Kernel) (s : State) : State := { s with kernels := AMap.put s.kernels 1 (f (s.kernel 1)) }
def ctx1 (f : Ctx → Ctx) (s : State) : State := { s with ctxs := AMap.put s.ctxs 1 (f (s.ctx 1)) }

/-- The first page of context 1, writable, at physical address 0, cached at its home. -/
def mapped (s : State) : State := { s with tlb := s.tlb ++ [(homeCtrl 1 0, 1, 0, true, 4)] }

/-- A line of the given dirty bytes, alone in a cache. -/
def oneLine (dirty : BitVec 128) : L1Line := ⟨0, BitVec.allOnes 128, dirty, 0, false, 0, false, false, 0, 0⟩
def f3 : Fetch := ⟨0, 0, .fetch 3 false, some 0, false, none, []⟩
def sliceLine : L2Line := ⟨0, 0, 0, true, 0, 0, false, false, false, 0, 0⟩
def inL1 (line : Nat) (x : L1Line) (s : State) : State := setL1 s 0 1 line x
def inL2 (line : Nat) (x : L2Line) (s : State) : State := { s with l2 := AMap.put s.l2 (lineKey 1 line) x }

/-- A message of core 0 on line 0 of context 1, at router r. -/
def msg (r : Nat) (b : MsgBody) : Msg := ⟨0, 0, 0, 0, 1, 0, 0, sliceFor State.reset 0 1 0, b, none, r, false, false, false, false⟩
def flying (m : Msg) (s : State) : State := { s with fabric := [m] }
def waiting (m : Msg) (s : State) : State := { s with arrived := [m] }

def wentOk {α : Type} (r : Access α) : Bool :=
  match r with
  | .ok _ _ => true
  | _ => false

theorem wentOk_iff {r : Access Unit} : (∃ t, r = .ok () t) ↔ wentOk r = true := by
  cases r <;> simp [wentOk]

/-- An access goes, and what follows it holds of its result. -/
def thenA {α : Type} (r : Access α) (P : α → State → Bool) : Bool :=
  match r with
  | .ok x s => P x s
  | _ => false

theorem thenA_iff {α : Type} {r : Access α} {P : α → State → Bool} : thenA r P = true ↔ ∃ x s, r = .ok x s ∧ P x s = true := by
  cases r with
  | ok x s => exact ⟨fun h => ⟨x, s, rfl, h⟩, fun ⟨_, _, e, h⟩ => by cases e; exact h⟩
  | _ => simp [thenA]

/-- A graph unit's step goes, and what follows it holds of its result. -/
def thenG {α : Type} (r : GRes α) (P : α → State → Bool) : Bool :=
  match r with
  | .ok x s => P x s
  | _ => false

theorem thenG_iff {α : Type} {r : GRes α} {P : α → State → Bool} : thenG r P = true ↔ ∃ x s, r = .ok x s ∧ P x s = true := by
  cases r with
  | ok x s => exact ⟨fun h => ⟨x, s, rfl, h⟩, fun ⟨_, _, e, h⟩ => by cases e; exact h⟩
  | _ => simp [thenG]

/-- What a unit has asked for is answered: a read with what HBM holds at that address, a write done. -/
def served (s : State) : State :=
  { s with unitReqs := s.unitReqs.map (fun r => { r with answer := some (match r.body with
      | .read o n _ => .bytes ((List.range n).map (fun i => ⟨AMap.get 0 s.hbm (r.line * 128 + o + i), false⟩))
      | .bump _ _ => .value 0 false 0
      | _ => .ack) }) }

/-- The state in which an event has all it asks for, within n tries. -/
def ready (e : Instr) : Nat → State → State
  | 0, s => s
  | n + 1, s =>
    match exec e s with
    | .next t => if t.cur.held then ready e n (served { t with cur := s.cur, fabric := s.fabric }) else s
    | _ => s

/-- Bytes in HBM. -/
def inHbm (a : Nat) (bs : List PByte) (s : State) : State :=
  { s with hbm := ((List.range bs.length).zip bs).foldl (fun m p => AMap.set 0 m (a + p.1) p.2.val) s.hbm }

/-! Lines that are at their slices -/

theorem ensureLines_here (s : State) (asid : Nat) (ls : List Nat) (h : ∀ l ∈ ls, (l2Line s asid l).isSome = true) :
    ensureLines s asid false ls = .ok () s := by
  induction ls with
  | nil => rfl
  | cons l ls ih =>
    obtain ⟨x, hx⟩ := Option.isSome_iff_exists.mp (h l (by simp))
    simp only [ensureLines, ensureLine, hx, Bool.false_and, Bool.false_eq_true, if_false]
    exact ih (fun m hm => h m (by simp [hm]))

theorem peek_here (s : State) (asid a n : Nat) (h : ∀ l ∈ linesOf a n, (l2Line s asid l).isSome = true) :
    peek s asid a n = .ok (l2Bytes s asid a n) ((linesOf a n).foldl (fun s l => touchL2 s asid l false) s) := by
  simp only [peek, peekSp, ensureLines_here s asid _ h]

theorem touchL2_rest (s : State) (asid l : Nat) (sp : Bool) : { touchL2 s asid l sp with l2 := s.l2 } = s := by
  unfold touchL2
  split <;> rfl

/-- A read of lines that are at their slices changes nothing but their use (R371). -/
theorem foldl_touchL2_rest (asid : Nat) (ls : List Nat) (s : State) :
    { ls.foldl (fun s l => touchL2 s asid l false) s with l2 := s.l2 } = s := by
  induction ls generalizing s with
  | nil => rfl
  | cons l ls ih =>
    have h := ih (touchL2 s asid l false)
    rw [List.foldl_cons]
    calc _ = { { ls.foldl (fun s l => touchL2 s asid l false) (touchL2 s asid l false) with l2 := (touchL2 s asid l false).l2 } with l2 := s.l2 } := rfl
      _ = s := by rw [h]; exact touchL2_rest s asid l false

theorem witness_ScalarWordResults :
    let s := at32 0x04518700
    Free s { rd := [6, 7], wr := [5] } ∧ (∀ p ∈ registerWords 5 6 7 (rs s 6).val (rs s 7).val, WellFormed p.1) ∧
      (∀ p ∈ divisionWords 5 6 7 (rs s 6).val (rs s 7).val, WellFormed p.1) ∧ dividerBusy s s.cur.grp = false ∧
      Free s { rd := [63], wr := [0] } ∧ (∀ p ∈ unaryWords 0 63 63 (rs s 63).val, WellFormed p.1) ∧
      (let s := at32 0x0451870C (fun g => { g with sbusy := [⟨9, 0, true⟩] })
       Free s { rd := [6, 7], wr := [5] } ∧ dividerBusy s s.cur.grp = true) ∧
      Free s { rd := [], wr := [5] } ∧ WellFormed (.li 5 0xFFFFF) ∧ Free s { rd := [5], wr := [5] } ∧ WellFormed (.lui 5 0xFFFFF) := by
  unfold Free WellFormed
  decide +kernel

theorem witness_CompareAndSelectResults :
    let s := at32 0x08518700
    Free s { rd := [6, 7], wr := [5] } ∧ (∀ p ∈ compareWords 5 6 7 (rs s 6).val (rs s 7).val, WellFormed p.1) ∧
      WellFormed (.cmovNz 5 6 7) ∧ WellFormed (.cmovZ 5 6 7) ∧ Free s { rd := [6, 7, 5], wr := [5] } ∧
      (let s := at32 0x08518708 (fun g => { g with sbusy := [⟨5, 1, false⟩] })
       s.cur.replay = false ∧ ∃ x ∈ (s.grp s.cur.grp).sbusy, x.reg = 5) := by
  unfold Free WellFormed
  decide +kernel

theorem witness_HazardWaits :
    let s := at32 0x04518700 (fun g => { g with sbusy := [⟨6, 1, false⟩] })
    scalarCheck (.add 5 6 7) = none ∧ s.cur.replay = false ∧ scalarHazard s s.cur.grp { rd := [6, 7], wr := [5] } = true := by
  decide +kernel

/-- A branch taken to the one word of the section, and past its end; one not taken. -/
theorem witness_BranchesAndCalls_branch :
    let s := at32 0x43850000
    WellFormed (.brCond 0xE 0 0) ∧ Free s { rd := [] } ∧ condHolds 0xE (rs s 0).val = true ∧ inSection s ((issuing s s).pc + 0) ∧
      WellFormed (.brCond 0 5 1) ∧ Free s { rd := [5] } ∧ (rs s 5).poison = false ∧ condHolds 0 (rs s 5).val = true ∧
      ¬ inSection s ((issuing s s).pc + 1) ∧ TrapsHere s ∧ condHolds 1 (rs s 5).val = false := by
  unfold Free WellFormed inSection TrapsHere
  decide +kernel

/-- Calls with 0, 7 and 8 entries on the stack; returns with one entry and with none. -/
theorem witness_BranchesAndCalls_call :
    let full (n : Nat) := at32 0x48000000 (fun g => { g with rstack := List.replicate n ⟨0, 0⟩ })
    (∀ n ∈ [0, 7, 8], let s := full n
      WellFormed (.call 0) ∧ Free s { wr := [57] } ∧ (s.grp 0).diverged = false ∧ inSection s ((issuing s s).pc + 0) ∧
        TrapsHere s ∧ (s.grp 0).rstack.length = n) ∧
    (let s := full 7
     WellFormed (.callo 5 6) ∧ Free s { rd := [5, 6], wr := [57] } ∧ (rs s 5).poison = false ∧ (rs s 6).poison = false ∧
       (rs s 6).val.toNat < scalarWords s (s.coreOf 0) 0) ∧
    (let s := full 1
     Free s {} ∧ (s.grp 0).rstack = [⟨0, 0⟩] ∧ 0 < scalarWords s (s.coreOf 0) 0) ∧
    (let s := full 0
     Free s {} ∧ (s.grp 0).diverged = false ∧ (s.grp 0).rstack = [] ∧ TrapsHere s) := by
  unfold Free WellFormed inSection TrapsHere
  decide +kernel

/-- The overlay the key of 0 and the place of the return name is in slot 0 of the store. -/
theorem witness_BranchesAndCalls_resolve :
    (let s := at32 0x48000000; ∃ n t, resolve s 0 (some 0) (keyOvlid 0) = .here n t) ∧
    (let s := at32 0x48000000; ∃ n t, resolve s 0 none 0 = .here n t) := ⟨⟨_, _, rfl⟩, ⟨_, _, rfl⟩⟩

/-- BRD with no lane on the predicate, all of them, and one; the last with room and without. -/
theorem witness_DivergenceAndJoin_split :
    let at2 (b : Lanes) (room : BitVec 12) := at32 0x44020000 (fun g => { g with p := AMap.put g.p 2 ⟨b, 0⟩, room := room })
    WellFormed (.brd 2 0) ∧
    (∀ s ∈ [at2 0 2, at2 (BitVec.allOnes 96) 2, at2 1 2, at2 1 1],
      Free s { rd := [60, 61, 62], wr := [60, 61, 62], preds := [2] } ∧ (issuing s s).mask &&& ((s.grp 0).pred 2).poison = 0 ∧
        inSection s ((issuing s s).pc + 0) ∧ ((s.grp 0).slot true).live = false ∧ (s.grp 0).drecs.length ≤ 2 ∧ TrapsHere s) ∧
    (issuing (at2 0 2) (at2 0 2)).mask &&& ((at2 0 2).grp 0 |>.pred 2).bits = 0 ∧
    (let s := at2 1 2
     let m := (issuing s s).mask
     m &&& ((s.grp 0).pred 2).bits ≠ 0 ∧ m &&& ~~~((s.grp 0).pred 2).bits ≠ 0 ∧ 2 ≤ (s.grp 0).room.toNat) ∧
    ((at2 1 1).grp 0).room.toNat < 2 := by
  unfold Free WellFormed inSection TrapsHere
  decide +kernel

/-- The first side of a split at its JOIN, and the second. -/
theorem witness_DivergenceAndJoin_join :
    let at1 (x : Lanes) (arr : Bool) := at32 0x4C000000 (fun g =>
      { g with slot0 := { g.slot0 with mask := 1 }, drecs := [.joinA x arr, .joinM (BitVec.allOnes 96) 0 0] })
    WellFormed (.join 0) ∧
    (∀ s ∈ [at1 0 false, at1 (~~~1) true],
      Free s { rd := [60, 61, 62], wr := [60, 61, 62] } ∧ inSection s ((issuing s s).pc + 0)) ∧
    ((at1 0 false).grp 0).drecs = [.joinA 0 false, .joinM (BitVec.allOnes 96) 0 0] ∧
    (let s := at1 (~~~1) true
     let x := (issuing s s).mask
     (s.grp 0).drecs = [.joinA (~~~1) true, .joinM (BitVec.allOnes 96) (issuing s s).ovlid ((issuing s s).pc + 0)] ∧
       x &&& ~~~1 = 0 ∧ x ||| ~~~1 = BitVec.allOnes 96 ∧ x &&& ~~~(BitVec.allOnes 96) = 0) := by
  unfold Free WellFormed inSection
  decide +kernel

/-- SIGCHK where the accumulator agrees, where SIGSKIP is set, and where neither holds. -/
theorem witness_SignatureCheck :
    let at3 (a : Word) (k : Bool) := at32 0x5400A3F1 (fun g => { g with slot0 := { g.slot0 with acc := a, sigskip := k } })
    WellFormed (.sigchk 0xA3F1) ∧ (∀ s ∈ [at3 0x7700A3F1 false, at3 0 true, at3 0 false], Free s {} ∧ TrapsHere s) ∧
    (issuing (at3 0x7700A3F1 false) (at3 0x7700A3F1 false)).acc.extractLsb' 0 20 = 0xA3F1 ∧
    (let s := at3 0 false
     (issuing s s).sigskip = false ∧ (issuing s s).acc.extractLsb' 0 20 ≠ 0xA3F1 ∧ s.link ≠ .contained) := by
  unfold Free WellFormed TrapsHere
  decide +kernel

theorem witness_IdempotentRegions :
    let s := at32 0x0C000006
    let t := at32 0x0C000006 (fun g => { g with slot1 := { g.slot1 with live := true } })
    Free s { ctr := [.ld, .cp, .tl, .gr, .en] } ∧ (s.grp 0).diverged = false ∧
      (s.grp 0).ops.all (fun o => decide (o.cls = .st)) = true ∧ Free s {} ∧
      (t.grp 0).diverged = true ∧ TrapsHere t ∧ Free t { ctr := [.ld, .cp, .tl, .gr, .en] } ∧ Free t {} := by
  unfold Free TrapsHere
  decide +kernel

/-- LX whose block just fits, with three and four blocks queued; LX one word past the section. -/
theorem witness_LaneBlocksAndOverlays :
    let b : LaneBlock := ⟨0, [], [], 0, 0, 0, 1, 0, 0, false, 0⟩
    let at4 (n : Nat) := let s := at96 0 (fun g => { g with laneq := List.replicate n b }); { s with cur := slotSubject s 0 false }
    WellFormed (.lx 0 0) ∧ WellFormed (.lx 0 1) ∧
    (∀ n ∈ [3, 4], let s := at4 n
      Free s { rd := [60, 61, 62] } ∧ (s.grp 0).blocksHeld = n ∧ 0 + 0 + 1 ≤ laneWords s (s.coreOf 0) (issuing s s).islot) ∧
    (let s := at4 0
     ¬ (1 + 0 + 1 ≤ laneWords s (s.coreOf 0) (issuing s s).islot) ∧ TrapsHere s) ∧
    (let s := at32 0x58518000
     (rs s 6).poison = false ∧ s.cur.replay = false ∧ WellFormed (.ovlLd 5 6) ∧ Free s { rd := [6], wr := [5], ctr := [.cp] } ∧
       (s.grp 0).count .cp < 63 ∧ WellFormed (.ovlEv 5 6) ∧ WellFormed (.ovlPin 5 6) ∧ WellFormed (.ovlUnpin 5 6) ∧
       Free s { rd := [6], wr := [5] }) := by
  unfold Free WellFormed TrapsHere
  decide +kernel

/-- Every special register that may be read, and every one that may be written. -/
theorem witness_SpecialRegisters :
    let s := at32 0x5C500001
    (∀ n ∈ [1, 2, 3, 4, 5, 6, 7, 0x10, 0x11, 0x12, 0x13, 0x14, 0x15, 0x16, 0x17],
      WellFormed (.srd 5 (BitVec.ofNat 14 n)) ∧ Free s (sregNeeds n 5 false)) ∧
    (∀ n ∈ [0x10, 0x11, 0x12, 0x13, 0x14, 0x15, 0x16],
      WellFormed (.swr 5 (BitVec.ofNat 14 n)) ∧ Free s (sregNeeds n 5 true)) ∧
    (rs s 5).poison = false ∧ (s.grp 0).drecs = [] ∧ (s.grp 0).dbelow = 0 := by
  unfold Free WellFormed
  decide +kernel

theorem witness_ExitTrapAndReturn :
    let s := at32 0x0C000000
    Free s {} ∧ (s.grp 0).diverged = false ∧ (s.grp 0).drecs = [] ∧ (s.grp 0).dbelow = 0 ∧ TrapsHere s ∧
      (let t := at32 0x0C000000 (fun g => { g with dbelow := 1 }); Free t {} ∧ TrapsHere t ∧ 0 < (t.grp 0).dbelow) ∧
      WellFormed (.trap 63) ∧ Free s { rd := [63] } ∧
      (let t := sets' s [(6, 0xFFF)]
       WellFormed (.launch 8 6 7) ∧ Free t { rd := [6, 7], wr := [8], ctr := [.st] } ∧ (rs t 6).poison = false ∧
         (rs t 7).poison = false ∧ (rs t 6).val.toNat < 2 ^ 12) ∧
      WellFormed (.rett 5) ∧ Free s { rd := [5] } ∧ inHandler s 0 = false ∧
      (∀ x ∈ [0, 1, 2],
        let t := sets' { s with teams := AMap.put s.teams 0 { s.team 0 with state := .handler, primgrp := some 0 } } [(5, BitVec.ofNat 64 x)]
        inHandler t 0 = true ∧ (t.grp 0).quiet = true ∧ (rs t 5).poison = false ∧ (rs t 5).val.toNat = x ∧
          (t.ctx (t.asidOf 0)).state = .active) := by
  unfold Free WellFormed TrapsHere
  decide +kernel

/-- Places of four bytes: the ends of linear space, of own scratch and of a member's window; none past them. -/
theorem witness_places :
    let at_ (a : Nat) := locate (mem32 0) 0 ⟨true, true, false⟩ a 4
    let win (a : Nat) := locate (mem32 0) 0 ⟨false, false, true⟩ a 4
    at_ 0 = .ok (.lin 0) ∧ at_ 0xFFFFFEFFFFFFC = .ok (.lin 0xFFFFFEFFFFFFC) ∧ at_ 0xFFFFFEFFFFFFE = .error memBadaddr ∧
      at_ ownBase = .ok (.own 0) ∧ at_ (ownBase + 65532) = .ok (.own 65532) ∧ at_ (ownBase + 65534) = .error memScratch ∧
      at_ windowBase = .error memBadaddr ∧ win windowBase = .ok (.win 0 0) ∧ win (windowBase + 2 ^ 20 + 65532) = .ok (.win 1 65532) ∧
      win (windowBase + 2 ^ 21) = .error memRscratch := by
  simp only [isOk_iff, isErr_iff]
  decide +kernel

/-- A lane store of the slot stands in the lane queue. -/
def behind : State :=
  let s := at96 0x40480150F802E82000000080 (fun g => { g with slot0 := { g.slot0 with prior := g.laneq.map (·.id) } })
  { s with cur := slotSubject s 0 false }

/-- A core whose miss-status entries are all in use. -/
def noEntry : State := mem32 0 |>.modGrp 0 (fun g => { g with fetches := List.replicate 1024 ⟨0, 0, .fetch 0 false, none, false, none, []⟩ })

theorem witness_ScalarLoads_and_ScalarStores :
    let s := mem32 0
    (Free behind { rd := [6], wr := [5] } ∧ MayGo behind .ld 6 ∧ behindLaneStore behind = true) ∧ behindLaneStore s = false ∧
      (mshrFree noEntry 0 = 0 ∧ noEntry.cur.widx = 0xFFFF) ∧
    (∀ p ∈ loadWords 5 6 0 0, WellFormed p.1) ∧ Free s { rd := [6], wr := [5] } ∧ MayGo s .ld 6 ∧ NewName s ∧
      2 ≤ mshrFree s (s.coreOf 0) ∧ TrapsHere s ∧ fifoByte (s.grp 0) (s.asidOf 0) 0 = none ∧ l1Byte s (s.coreOf 0) (s.asidOf 0) 0 = none ∧
      (∀ p ∈ storeWords 5 6 0 0, WellFormed p.1) ∧ Free s { rd := [6, 5] } ∧ MayAccess s .st 6 ∧ 2 ≤ fifoFree s 0 ∧
      smAddress (mem32 0xFFFFFEFFFFFFC) 6 0 2 = 0xFFFFFEFFFFFFC ∧ smAddress (mem32 (BitVec.ofNat 64 ownBase)) 6 1023 2 + 4 = ownBase ∧ 0 + 4 ≤ 2 ^ 20 := by
  unfold Free WellFormed MayAccess MayGo NewName TrapsHere
  decide +kernel

theorem witness_ScalarAtomics :
    let s := mem32 0
    (∀ p ∈ atomicWords 5 6 7, WellFormed p.1) ∧ Free s { rd := [6, 7] ++ [5], wr := [5] } ∧ Free s { rd := [6, 7] ++ [], wr := [5] } ∧
      MayAccess s .ld 6 ∧ NewName s ∧ (rs s 7).poison = false ∧ (rs s 5).poison = false ∧ TrapsHere s ∧ 1 ≤ mshrFree s (s.coreOf 0) ∧
      ownBase % 4 = 0 ∧ (ownBase + 2) % 4 ≠ 0 ∧ ppoison (scratchRead s 0 0 4) = false := by
  unfold Free WellFormed MayAccess MayGo NewName TrapsHere
  decide +kernel

/-- Every scope has a place for its word. -/
theorem witness_AcquireAndRelease :
    (let s := mem32 0
     s.cur.replay = false ∧ bindHeld (s.grp 0) s.cur.second = false ∧ NewName s ∧
       (∀ i ∈ [Instr.acqTeam 5 6, .acqCluster 5 6, .acqDevice 5 6, .acqSystem 5 6, .relTeam 6 7, .relCluster 6 7, .relDevice 6 7, .relSystem 6 7],
         WellFormed i) ∧
       Free s { rd := [6], wr := [5] } ∧ MayGo s .ld 6 ∧ mshrFree s (s.coreOf 0) ≠ 0 ∧ Free s { rd := [6, 7] } ∧ (rs s 6).poison = false ∧
       (rs s 7).poison = false ∧ queuedMemory s 0 false = false ∧ (s.grp 0).count .st < 63) ∧
    (∀ n ∈ [0, 1, 2, 3], syncPlace (mem32 0) 0 n 0 = .ok (.lin 0)) := by
  simp only [isOk_iff]
  unfold Free WellFormed MayGo NewName
  decide +kernel

theorem witness_BindingRequests :
    let s := mem32 0xFFF
    s.cur.replay = false ∧ (s.grp 0).count .st < 63 ∧ WellFormed (.bind 5 6 62) ∧ Free s { rd := [6, 62, 63], wr := [5] } ∧
      (rs s 6).poison = false ∧ (rs s 62).poison = false ∧ (rs s 63).poison = false ∧ WellFormed (.unbind 6) ∧ Free s { rd := [6] } ∧
      (rs s 6).val.toNat < 2 ^ 12 := by
  unfold Free WellFormed
  decide +kernel

/-- Maintenance of no bytes and of the last line of linear space; a WAIT at its threshold and one below it. -/
theorem witness_MaintenanceAndWaits :
    let s := sets' (mem32 (BitVec.ofNat 64 (windowBase - 128))) [(7, 128)]
    queuedMemory s 0 false = false ∧ Free s {} ∧ (∀ i ∈ [Instr.cleanL1 6 7, .cleanL2 6 7, .invL1 6 7, .invL2 6 7, .clinvL1 6 7, .clinvL2 6 7], WellFormed i) ∧
      Free s { rd := [6, 7] } ∧ MayGo s .st 6 ∧ (rs s 7).poison = false ∧ (rs s 6).val.toNat + (rs s 7).val.toNat ≤ windowBase ∧
      (rs s 6).val.toNat < windowBase ∧ (rs s 7).val.toNat ≤ 2 ^ 40 ∧ (rs s 7).val.toNat ≠ 0 ∧ (rs (mem32 0) 7).val.toNat = 0 ∧
    (let op : OutOp := { id := 0, cls := .ld, second := false, done := false, fenced := true, parked := false, blk := 0, ovlid := 0, off := 0, widx := 0, sat := 0 }
     let s := at32 0x94FFFF0F (fun g => { g with ops := [op] })
     (s.grp 0).count .ld ≤ 1 ∧ ¬ ((s.grp 0).count .ld ≤ 0) ∧ Free s (waitNeeds s { ctr := [.ld] }) ∧ WellFormed (.waitr 0 5) ∧
       Free s (waitNeeds s { rd := [5], ctr := [.ld] }) ∧ (rs s 5).poison = false ∧ (rs s 5).val.toNat < (s.grp 0).count .ld ∧
       (s.grp 0).count .st ≤ (rs s 5).val.toNat) := by
  unfold Free WellFormed MayGo
  decide +kernel

/-- Barrier 15 armed for n of which m have arrived, and unarmed. -/
theorem witness_TeamBarriers :
    let armed (b : BState) (n m : Nat) (x : DWord) : State :=
      let s := sets' (roomy (at32 0x98000206)) [(6, x)]
      { s with teams := AMap.put s.teams 0 { s.team 0 with bars := AMap.put (s.team 0).bars 15 ⟨b, 0, n, m, 1, 0, 0⟩ } }
    (∀ s ∈ [armed .unarmed 0 0 1, armed .opened 255 0 255],
      Free s { rd := [6] } ∧ (rs s 6).poison = false ∧ (s.kernelOf 0).coop = true ∧ 1 ≤ (rs s 6).val.toNat ∧ (rs s 6).val.toNat ≤ 255 ∧
        ((s.team 0).bar 15).state ≠ .forwarded ∧ (((s.team 0).bar 15).state = .opened → ((s.team 0).bar 15).arrived = 0)) ∧
    (∀ i ∈ [Instr.barInitTeam 6 15, .barInitCluster 6 15, .barInitGrid 6 15, .barArr 5 15, .barWait 6 15], WellFormed i) ∧
    (∀ s ∈ [armed .opened 1 0 0, armed .opened 2 0 0],
      Free s { wr := [5] } ∧ Free s {} ∧ queuedMemory s 0 false = false ∧ fencedPending (s.grp 0) false = [] ∧ (s.team 0).state ≠ .handler ∧ ((s.team 0).bar 15).state = .opened ∧
        ((s.team 0).bar 15).scope = 0 ∧ (issuing s s).issued = false) ∧
    (((armed .opened 1 0 0).team 0).bar 15).expect ≤ 0 + 1 ∧ 0 + 1 < (((armed .opened 2 0 0).team 0).bar 15).expect ∧
    (let d (x : DWord) := ((1 : BitVec 16).toNat + 2 ^ 16 - (rs (armed .opened 2 0 x) 6).val.toNat % 2 ^ 16) % 2 ^ 16
     (1 ≤ d 0 ∧ d 0 ≤ 32767) ∧ ¬ (1 ≤ d 1 ∧ d 1 ≤ 32767)) ∧
    (let s := team0 (fun x => { x with state := .handler }) (armed .opened 1 0 0)
     ((s.team 0).bar 15).state ≠ .unarmed ∧ (s.team 0).state = .handler ∧ Free s { wr := [5] }) ∧
    (let s := armed .unarmed 0 0 1
     ((s.team 0).bar 15).state = .unarmed ∧ TrapsHere s ∧ Free s { wr := [5] }) := by
  unfold Free WellFormed TrapsHere
  decide +kernel

/-- Beside an aged word of slot 1, a word of slot 0 with no rejection, with three, and one that became aged later. -/
theorem witness_AgedWordsComeFirst :
    ∀ rej ∈ [none, some ⟨3, 4, 2, 0⟩, some ⟨16, 4, 2, 5⟩],
      let s := at32 0 (fun g => { g with slot0 := { g.slot0 with rej := rej }, slot1 := { g.slot1 with rej := some ⟨16, 2, 1, 0⟩ } })
      0 ∈ groupsOn s 0 ∧ ⟨16, 2, 1, 0⟩ ∈ agedWords s 0 ∧
        (rejections s).all (fun m => decide (m.count < 16 ∨ 0 < m.stamp)) = true ∧ 0 < mshrFree s 0 ∧ s.cur.grp = 0 ∧ 0 < fifoFree s 0 := by
  decide +kernel

theorem witness_IntegerLaneWords :
    let sat := { lf (vd := 255) with sat := true }
    let imm := { lf (vd := 1) (imm := 0xFFFFFFFF) with bimm := true }
    (∀ p ∈ exactWords sat, LaneFree lane p.2.1 sat) ∧ (∀ p ∈ exactWords (lf (vd := 255)), LaneFree lane p.2.1 (lf (vd := 255))) ∧
      (∀ p ∈ plainWords (lf (vd := 1) (va := 255)), LaneFree lane p.2.1 (lf (vd := 1) (va := 255))) ∧
      LaneFree lane .vid (lf (vd := 1)) ∧ LaneFree lane .vbcast (lf (vd := 1) (va := 63)) ∧ LaneFree lane .vbcastImm imm := by
  unfold LaneFree
  decide +kernel

theorem witness_ShiftRoundAndBitField :
    let f := lf (vd := 1) (va := 2) (vb := 3) (xmod := 1)
    LaneFree lane .vshrr f ∧ LaneFree lane .vbfx f := by
  unfold LaneFree
  decide +kernel

theorem witness_LaneComparesAndSelect :
    let f := lf (vd := 7) (va := 1) (vb := 2)
    (∀ p ∈ laneCompares f, LaneFree lane p.2.1 f) ∧ (∀ p ∈ floatCompares f, LaneFree lane p.2.1 f) ∧ LaneFree lane .vfcmpUn f ∧
      LaneFree lane .pand f ∧ LaneFree lane .por f ∧ LaneFree lane .pxor f ∧ LaneFree lane .pnot (lf (vd := 7) (va := 1)) ∧
      LaneFree lane .vsel (lf (vd := 7) (va := 1) (vb := 2) (vc := 7)) := by
  unfold LaneFree
  decide +kernel

theorem witness_FloatLaneResults :
    let fma := { lf (vd := 1) (va := 2) (vb := 3) (vc := 4) (xmod := 2) with rm := 3 }
    let one := { lf (vd := 1) (va := 2) with rm := 2 }
    (∀ p ∈ floatWords (lf (vd := 1)), LaneFree lane p.2.1 (lf (vd := 1))) ∧ LaneFree lane .vfma fma ∧ LaneFree lane .vfms fma ∧
      LaneFree lane .vfsqrt one ∧ LaneFree lane .vcvt (lf (vd := 1) (va := 2) (imm := 0xF353)) := by
  unfold LaneFree
  decide +kernel

/-- An index register of zeros reaches the register named, the last of the grant or the one past it. -/
theorem witness_IndirectAndReductions :
    let s := lane
    (∀ l, l < 96 → acts s (lf) l = true → (elem s 3 l).poison = false) ∧
    (let f := lf (vd := 1) (va := 255) (vb := 3)
     LaneFree s .vrdi f ∧ ∀ l, l < 96 → acts s f l = true → f.va.toNat + (elem s f.vb l).val.toNat < (s.grp 0).grant) ∧
    (let f := lf (vd := 1) (va := 256) (vb := 3)
     LaneFree s .vrdi f ∧ TrapsHere s ∧ ∃ l, l < 96 ∧ acts s f l = true ∧ (s.grp 0).grant ≤ f.va.toNat + (elem s f.vb l).val.toNat) ∧
    (let f := lf (vd := 255) (va := 1) (vb := 3)
     LaneFree s .vwri f ∧ ∀ l, l < 96 → acts s f l = true → f.vd.toNat + (elem s f.vb l).val.toNat < (s.grp 0).grant) ∧
    (let f := lf (vd := 256) (va := 1) (vb := 3)
     LaneFree s .vwri f ∧ TrapsHere s ∧ ∃ l, l < 96 ∧ acts s f l = true ∧ (s.grp 0).grant ≤ f.vd.toNat + (elem s f.vb l).val.toNat) ∧
    (∀ n ∈ [0, 1, 2, 3, 4, 5],
      LaneFree s .vredi (lf (vd := 5) (va := 1) (xmod := BitVec.ofNat 10 n)) ∧ (BitVec.ofNat 10 n).toNat % 8 = n ∧
        ((List.range 96).filter (acts s (lf (vd := 5) (va := 1)))).map (fun l => elem s 1 l) ≠ []) ∧
    (5 : SIndex).toNat = (lf (vd := 5)).vd.toNat ∧ LaneFree s .vredf (lf (vd := 5) (va := 1) (xmod := 2)) := by
  unfold LaneFree TrapsHere
  decide +kernel

/-- A pattern of this context and none; slides within and to the bounds of both element sizes. -/
theorem witness_CrossbarWords :
    let own := { lane with cores := AMap.put lane.cores 0 { lane.core 0 with patterns := AMap.put (lane.core 0).patterns 63 ⟨1, [], false⟩ } }
    let f := lf (vd := 1) (va := 2) (imm := 63)
    LaneFree own .vperm f ∧ ((own.core 0).pattern 63).poison = false ∧ ((own.core 0).pattern 63).tag = own.asidOf 0 ∧
      LaneFree lane .vperm f ∧ ((lane.core 0).pattern 63).tag ≠ lane.asidOf 0 ∧ ((lane.core 0).pattern 63).poison = false ∧ TrapsHere lane ∧
      LaneFree lane .vslide (lf (vd := 1) (va := 2) (imm := 95)) ∧ LaneFree lane .vslide (lf (vd := 1) (va := 2) (vb := 3) (xmod := 3) (imm := 191)) ∧
      LaneFree lane .vslide (lf (vd := 1) (va := 2) (xmod := 5) (imm := BitVec.ofInt 32 (-191))) := by
  unfold LaneFree TrapsHere
  decide +kernel

theorem witness_TableWords :
    let own := { lane with cores := AMap.put lane.cores 0 { lane.core 0 with act0 := { (lane.core 0).act0 with tag := 1 } } }
    let f := lf (vd := 1) (va := 2)
    let w := lane (fun g => { g with w := (List.range 96).foldl (fun m l => AMap.put m (96 * 3 + l) ⟨2 ^ 63, false⟩) g.w })
    LaneFree own .actEval f ∧ (own.core 0).curAct.tag = own.asidOf 0 ∧ LaneFree lane .actEval f ∧
      (lane.core 0).curAct.tag ≠ lane.asidOf 0 ∧ TrapsHere lane ∧
      LaneFree w .wval (lf (vd := 1) (va := 3)) ∧ LaneFree w .wval (lf (vd := 1) (va := 3) (vb := 4) (xmod := 1)) ∧
      (∀ l, l < 96 → acts w f l = true → winValid ((w.grp 0).win 3 l).val = true) ∧
      LaneFree lane .wval (lf (vd := 1) (va := 3)) ∧ (∃ l, l < 96 ∧ acts lane f l = true ∧ winValid ((lane.grp 0).win 3 l).val = false) := by
  unfold LaneFree TrapsHere
  decide +kernel

theorem witness_PairedLaneWord :
    let u : PairHalf := ⟨.vfadd, 1, 2, 3, 0, 0, 0⟩
    let a : PairHalf := ⟨.actEval, 1, 2, 0, 0, 0, 0⟩
    let l : PairHalf := ⟨.vadd, 4, 2, 3, 0, 0, 0⟩
    let own := { lane with cores := AMap.put lane.cores 0 { lane.core 0 with act0 := { (lane.core 0).act0 with tag := 1 } } }
    (∀ x ∈ [u, a], halvesCheck x l = none ∧ pairCheck x l = none ∧ LaneFree own x.op (halfFields x)) ∧ LaneFree own l.op (halfFields l) ∧
      (own.core (own.coreOf own.cur.grp)).curAct.tag = own.asidOf own.cur.grp := by
  unfold LaneFree
  decide +kernel

/-- A word of each lane at own scratch, at linear space, at a member's window, and past the end of own scratch. -/
theorem witness_LaneLoads_and_LaneStores :
    let f := lf (vd := 8) (va := 21) (vb := 3) (xmod := 0x102) (imm := 0xFFFFFFFC)
    let g := lf (vd := 8) (va := 21) (xmod := 0x002) (imm := 4)
    let at_ (x : Nat) := laneAt [(21, BitVec.ofNat 64 (x + 4))] id
    let rs_ (x : Nat) := laneAt [(21, BitVec.ofNat 64 x)]
    (∀ s ∈ [at_ 0, at_ ownBase, at_ windowBase, at_ (ownBase + 65536)],
      LaneGoes s .vld f .ld true ∧ LaneGoes s .vrld f .ld true ∧ LaneGoes s .vst f .st true ∧ LaneGoes s .vrst f .st true ∧ NewName s ∧
        cleanAddress s f false ∧ cleanAddress s g true ∧ LaneGoes s .vlds g .ld true ∧ LaneGoes s .vsts g .st true ∧
        2 * actCount s f ≤ mshrFree s (s.coreOf 0) ∧ 2 * actCount s f ≤ fifoFree s 0 ∧ TrapsHere s) ∧
      (∀ l, l < 96 → locate (at_ 0) 0 (regionsOf false) (laneAddress (at_ 0) f false f.imm l) 4 = .ok (.lin (4 * l)) ∧
        locate (at_ ownBase) 0 (regionsOf false) (laneAddress (at_ ownBase) f false f.imm l) 4 = .ok (.own (4 * l)) ∧
        locate (at_ windowBase) 0 (regionsOf true) (laneAddress (at_ windowBase) f false f.imm l) 4 = .ok (.win 0 (4 * l)) ∧
        locate (rs_ ownBase) 0 (regionsOf false) (laneAddress (rs_ ownBase) g true g.imm l) 4 = .ok (.own (4 * l)) ∧
        locate (at_ (ownBase + 65536)) 0 (regionsOf false) (laneAddress (at_ (ownBase + 65536)) f false f.imm l) 4 = .error memScratch ∧
        4 * l + 4 ≤ 2 ^ 20) := by
  simp only [isOk_iff, isErr_iff, goes_iff, new_iff, traps_iff]
  unfold cleanAddress
  decide +kernel

/-- The lanes' atomics at words next to each other, aligned, in own scratch (two lanes) and in linear space. -/
theorem witness_LaneAtomics :
    let f := lf (vd := 8) (va := 21) (vb := 3) (vc := 9) (xmod := 0x102) (imm := 2)
    let at_ (x : Nat) := laneAt [(21, BitVec.ofNat 64 x)] id
    let s := first 2 (at_ ownBase)
    (∀ t ∈ [s, at_ 0], LaneGoes t .vatom f .ld true ∧ NewName t ∧ cleanAddress t f false ∧ actCount t f ≤ mshrFree t (t.coreOf 0) ∧
      (∀ l, l < 96 → acts t f l = true → (laneByte t 4 f.vc l 0).poison = false ∧ (laneByte t 4 f.vd l 0).poison = false) ∧
      (∀ l, l < 96 → acts t f l = true → laneAddress t f false 0 l % 4 = 0)) ∧
    (∀ l, l < 96 → acts s f l = true → locate s 0 ⟨true, true, false⟩ (laneAddress s f false 0 l) 4 = .ok (.own (4 * l)) ∧
      ppoison (scratchRead s 0 (4 * l) 4) = false ∧
      ∀ j z i, j < 96 → acts s f j = true → z < 4 → i < 4 → scratchKey (s.team 0) (4 * j + z) = scratchKey (s.team 0) (4 * l + i) →
        j = l ∧ z = i) ∧
    (∀ l, l < 96 → locate (at_ 0) 0 ⟨true, true, false⟩ (laneAddress (at_ 0) f false 0 l) 4 = .ok (.lin (4 * l))) := by
  refine ⟨?_, ?_, ?_⟩
  · unfold LaneGoes LaneFree InBlock NewName cleanAddress
    decide +kernel
  · intro l h a
    refine ⟨?_, ?_, ?_⟩ <;> revert a <;> revert l
    · simp only [isOk_iff]
      decide +kernel
    · decide +kernel
    · intro l _ _ j z i _ _ hz hi e
      have key (x : Nat) (hx : x < 16384) : scratchKey ((first 2 (laneAt [(21, BitVec.ofNat 64 ownBase)] id)).team 0) x = x := by
        simp only [scratchKey, show x / 16384 = 0 by omega]
        have h : ((first 2 (laneAt [(21, BitVec.ofNat 64 ownBase)] id)).team 0).ways = [0, 1, 2, 3] := by decide +kernel
        simp [h]
        omega
      rw [key _ (by omega), key _ (by omega)] at e
      omega
  · simp only [isOk_iff]
    decide +kernel

/-- A stream of 4096 weights at rate 1, seed 5 (R279). -/
def stream : DWord := BitVec.ofNat 64 (4096 + 2 ^ 28 + 5 * 2 ^ 32)

/-- Every byte that a lane fetches for index i of the stream at address a has a place. -/
def fetchedB (s : State) (a : DWord) (w : Stream) (i : Nat) : Bool :=
  (numberRuns (winBytes w i).1).all (fun r => some? (locate s 0 (regionsOf false) (streamAddr a r.1) r.2))

theorem witness_TableLoads :
    let s := laneAt [(21, 0), (22, 8), (23, stream)]
    let w := s.modGrp 0 (fun g => { g with w := (List.range 96).foldl (fun m l => AMap.put m l ⟨BitVec.ofNat 64 (2 ^ 63 + 2 ^ 60 + 5 * 2 ^ 16), false⟩) g.w })
    newB s = true ∧ trapsB s = true ∧ goesB s .vptld (lf (va := 21) (imm := 63)) .ld true = true ∧ (laneScalar s 21).poison = false ∧
      (laneScalar s 21).val.toNat % 32 = 0 ∧ locate s 0 (regionsOf false) (laneScalar s 21).val.toNat 96 = .ok (.lin 0) ∧
      locate s 0 (regionsOf false) (laneScalar s 21).val.toNat 2064 = .ok (.lin 0) ∧ 66 ≤ mshrFree s (s.coreOf 0) ∧
      goesB s .actLd (lf (va := 21)) .ld true = true ∧ goesB s .vptld (lf (va := 22)) .ld true = true ∧
      (laneScalar s 22).val.toNat % 32 ≠ 0 ∧ goesB s .actSwap (lf (vd := 5)) .ld true = true ∧
      parseStream (laneScalar s 23).val = some ⟨4096, 1, 5⟩ ∧
      3 * actCount s (lf (vd := 0) (va := 1) (vb := 21) (vc := 23)) ≤ mshrFree s (s.coreOf 0) ∧
      goesB s .wld (lf (vd := 0) (va := 1) (vb := 21) (vc := 23)) .ld true = true ∧
      (∀ l, l < 96 → (elem s 1 l).poison = false ∧ (elem s 1 l).val.toNat < 4096 ∧
        fetchedB s (laneScalar s 21).val ⟨4096, 1, 5⟩ (elem s 1 l).val.toNat = true) ∧
      goesB w .wadv (lf (vd := 0) (vb := 21) (vc := 23)) .ld true = true ∧
      (∀ l, l < 96 → let x := ((w.grp 0).win 0 l).val; winValid x = true ∧ winRate x = 1 ∧ winSeed x = 5 ∧
        fetchedB w (laneScalar w 21).val ⟨4096, 1, 5⟩ ((winK x + 1) % 4096) = true) ∧
      goesB s .wadv (lf (vd := 0) (vb := 21) (vc := 22)) .ld true = true ∧ parseStream (laneScalar s 22).val = none := by
  simp only [isOk_iff]
  decide +kernel

/-- Operands of a copy of len bytes from r to d, with v3 a word a lane and barrier 15 armed. -/
def copyAt (d r len : Nat) : State :=
  let s := laneAt [(21, BitVec.ofNat 64 d), (22, BitVec.ofNat 64 r), (23, BitVec.ofNat 64 len), (24, BitVec.ofNat 64 ownBase)] (4 * ·)
  { s with teams := AMap.put s.teams 0 { s.team 0 with bars := AMap.put (s.team 0).bars 15 ⟨.opened, 0, 2, 0, 0, 0, 0⟩ } }

/-- A copy between two members, with a release and a barrier; one of no bytes, of 2^20, of one more, and one onto itself. -/
theorem witness_CopyAndExchangeWords_copy :
    let f := lf (vd := 3) (va := 3) (vb := 21) (vc := 22) (imm := 0x2EDF)
    let g := lf (va := 23) (vb := 21) (vc := 22)
    let h := lf (vd := 5) (va := 3) (vb := 24) (vc := 22) (imm := 0x2E00)
    (let s := copyAt ownBase windowBase 8
     (immRel f || immAcq f) = true ∧ (readS s 0 false (immSreg f).toNat).poison = false ∧
       syncPlace s 0 (immScope f) (readS s 0 false (immSreg f).toNat).val.toNat = .ok (.lin 8) ∧ immBe f = true ∧
       ((s.teamOf 0).bar (immBar f)).state ≠ .unarmed ∧ (laneScalar s 21).poison = false ∧ (laneScalar s 22).poison = false ∧
       goesB s .vcp f .cp false = true ∧
       (∀ l, l < 96 → (elem s 3 l).poison = false ∧
         (∃ x, locate s 0 ⟨true, true, true⟩ (lanePlace (laneScalar s 22).val (elem s 3 l).val f 0) 4 = .ok x) ∧
         ∃ x, locate s 0 ⟨true, true, true⟩ (lanePlace (laneScalar s 21).val (elem s 3 l).val f 0) 4 = .ok x) ∧
       goesB s .vcpc h .cp false = true ∧ (laneScalar s 24).val.toNat % 128 = 0 ∧
       (∃ x, locate s 0 ⟨false, true, false⟩ (laneScalar s 24).val.toNat 8 = .ok x) ∧
       ∀ l, l < 96 → ∃ x, locate s 0 ⟨false, true, false⟩ ((laneScalar s 24).val.toNat + 128 + 4 * l) 4 = .ok x) ∧
    (∀ n ∈ [0, 2 ^ 20, 2 ^ 20 + 1],
      let s := copyAt (2 ^ 30) 0 n
      (immRel g || immAcq g) = false ∧ immBe g = false ∧ goesB s .cpy g .cp false = true ∧ (laneScalar s 23).poison = false ∧
        (laneScalar s 23).val.toNat = n ∧ (∃ x, locate s 0 ⟨true, true, true⟩ 0 n = .ok x) ∧
        (∃ x, locate s 0 ⟨true, true, true⟩ (2 ^ 30) n = .ok x) ∧ normalAddr s 0 0 + n ≤ normalAddr s 0 (2 ^ 30) ∧ trapsB s = true) ∧
    (let s := copyAt 0 0 1
     goesB s .cpy g .cp false = true ∧ normalAddr s 0 0 < normalAddr s 0 0 + 1 ∧ ∃ x, locate s 0 ⟨true, true, true⟩ 0 1 = .ok x) := by
  simp only [some_iff]
  simp only [isOk_iff]
  decide +kernel

/-- A partner in another cluster and one in the same; a queue in member 1's window. -/
theorem witness_CopyAndExchangeWords_exchange :
    let f := lf (vd := 5) (va := 3) (vb := 21)
    let s := laneAt [(21, 2), (22, BitVec.ofNat 64 (windowBase + 2 ^ 20))]
    freeB s .xshfl f = true ∧ s.cur.blk ≠ 0 ∧ laneHeld (s.grp 0) s.cur.blk true = false ∧ (s.grp 0).count .ld < 63 ∧
      (laneScalar s 21).poison = false ∧ partnerOk s 0 (laneScalar s 21).val = true ∧ (∀ y ∈ s.offers, y.partner ≠ teamGrp s 0) ∧
      newB s = true ∧ trapsB s = true ∧ partnerOk (laneAt [(21, 1)]) 0 (laneScalar (laneAt [(21, 1)]) 21).val = false ∧
      locate s 0 ⟨false, false, true⟩ (laneScalar s 22).val.toNat 16 = .ok (.win 1 0) ∧ (laneScalar s 22).val.toNat % 16 = 0 ∧
      1 ≤ mshrFree s (s.coreOf 0) ∧ goesB s .qpush (lf (vd := 0) (va := 3) (vb := 22)) .st true = true ∧
      goesB s .qpush (lf (vd := 6) (va := 3) (vb := 22) (xmod := 1)) .st true = true ∧
      goesB s .qpop (lf (vd := 5) (vb := 22)) .ld true = true ∧ goesB s .qpop (lf (vd := 5) (vb := 22) (vc := 6) (xmod := 1)) .ld true = true := by
  simp only [isOk_iff]
  decide +kernel

/-- Operands of an engine word: a tile operand in own scratch, N, a stream and a block address; over n tiles. -/
def engineAt (b n w : DWord) (tiles : Nat) : State :=
  let s := laneAt [(21, b), (22, n), (23, w)]
  { s with teams := AMap.put s.teams 0 { s.team 0 with tiles := List.range tiles } }

def engineB (s : State) (op : LaneOp) (f : LaneFields) : Bool := goesB s op f .en false && decide ((s.grp s.cur.grp).engq.length < 4)

theorem engine_iff (s : State) (op : LaneOp) (f : LaneFields) : EngineGoes s op f ↔ engineB s op f = true := by
  simp [EngineGoes, engineB, goes_iff]

/-- Where no bank of the core is held, no tile is shadowed. -/
theorem unshadowed_of_none (s : State) (mine : Bool) (ts : List Nat)
    (h : ([16, 17, 18, 19].all (fun b => decide (((s.core (s.coreOf s.cur.grp)).bank b).owner = none))) = true) : Unshadowed s mine ts := by
  intro b hb j t e
  have := List.all_eq_true.mp h b hb
  simp [e] at this

/-- The dense words over the last four tiles with 512 columns where scratch holds them, over 16 columns, and refused. -/
theorem witness_EngineCommandWords_dense :
    let f := lf (vd := 12) (va := 64) (vb := 21) (imm := 22)
    let g := lf (vd := 15) (va := 64) (vb := 21) (imm := 0x1D6)
    let spec := lf (vd := 15) (va := 64) (vb := 21) (xmod := 1) (imm := 0x1D6)
    let s := engineAt (BitVec.ofNat 64 ownBase) 512 0 16
    let t := engineAt (BitVec.ofNat 64 (ownBase + 63488)) 16 0 16
    (∀ p ∈ denseWords f, engineB s p.2.1 f = true) ∧ (∀ p ∈ denseWords g, engineB t p.2.1 g = true ∧ 63488 + 16 * p.2.2 ≤ scratchBytes t 0) ∧
      engineB t .tmmaE4m3 spec = true ∧ (t.kernelOf 0).spec = true ∧ (claimBanks t 0 (columnTiles 2032 16)).isSome = true ∧
      (laneScalar s 21).poison = false ∧ (readS s 0 false 22).poison = false ∧ (readS s 0 false 22).val.toNat = 512 ∧
      (readS t 0 false 22).val.toNat = 16 ∧ 128 * 12 + 512 ≤ 128 * (s.teamOf 0).tiles.length ∧ 128 * 15 + 112 + 16 ≤ 128 * (t.teamOf 0).tiles.length ∧
      immC0 f = 0 ∧ immC0 g = 112 ∧ (ownBase + 63488) % 128 = 0 ∧ ownBase % 128 = 0 ∧ 512 * 64 ≤ scratchBytes s 0 ∧ trapsB s = true ∧
      ((engineAt 0 16 0 12).teamOf 0).tiles.length ≤ 12 ∧
      (let s := engineAt 0 512 0 13
       128 * (s.teamOf 0).tiles.length < 128 * 12 + 512 ∧ (s.teamOf 0).tiles.length ≤ 16 ∧ engineB s .tmmaE4m3 f = true) ∧
      128 * 12 + max 8 1 ≤ 128 * ((engineAt 0 8 0 16).teamOf 0).tiles.length ∧ engineB (engineAt 0 8 0 16) .tmmaE4m3 f = true ∧
      (readS (engineAt 0 8 0 16) 0 false 22).val.toNat % 16 ≠ 0 := by
  decide +kernel

theorem witness_EngineCommandWords_unshadowed :
    Unshadowed (engineAt 0 16 0 16) false [0, 15] ∧ SpecFit (engineAt 0 16 0 16) (lf) [15] :=
  ⟨unshadowed_of_none _ _ _ (by decide +kernel), unshadowed_of_none _ _ _ (by decide +kernel), fun h => absurd h (by decide)⟩

/-- A trellis word of a stream that holds its columns, and of a register that is no stream; TZERO of the last tiles; TRES, TLD, TST. -/
theorem witness_EngineCommandWords_trellis :
    let f := lf (vd := 15) (va := 64) (vb := 21) (vc := 23) (imm := 0x116)
    let s := engineAt 0 0 stream 16
    let t := engineAt 0 0 0 16
    (∀ p ∈ trellisWords f, engineB s p.2.1 f = true ∧ engineB t p.2.1 f = true ∧ 0 + 64 * p.2.2 ≤ 4096 ∧
      128 * 15 + immC0 f + p.2.2 ≤ 128 * (s.teamOf 0).tiles.length ∧ immC0 f + p.2.2 ≤ 512) ∧
    parseStream (laneScalar s 23).val = some ⟨4096, 1, 5⟩ ∧ parseStream (laneScalar t 23).val = none ∧ trapsB t = true ∧
    (readS s 0 false 22).val.toNat % 64 = 0 ∧ (readS s 0 false 22).poison = false ∧ (laneScalar s 21).poison = false ∧
    (laneScalar s 23).poison = false ∧
    engineB s .tzero (lf (imm := 15)) = true ∧ 0 + 15 < (s.teamOf 0).tiles.length ∧ engineB s .tres (lf (vd := 15) (va := 21)) = true ∧
    goesB s .tld (lf (vd := 64) (va := 15) (imm := 3)) .tl false = true ∧ goesB s .tst (lf (vd := 15) (va := 64) (imm := 3)) .tl false = true ∧
    (∀ c ∈ (s.grp 0).engq, 15 ∉ c.tiles) := by
  decide +kernel

/-- Blocks at the first and last place of linear space, off their alignment and past the end, with a release of scope 2. -/
theorem witness_EngineCommandWords_blocks :
    let f := lf (va := 21) (imm := 0x2D40)
    (∀ a ∈ [0, windowBase - 64, windowBase, 8],
      let s := engineAt (BitVec.ofNat 64 a) 0 0 16
      (∀ p ∈ [LaneOp.encTc, .embG, .embR, .gbulk], engineB s p f = true) ∧ (laneScalar s 21).poison = false ∧
        (laneScalar s 21).val.toNat = a ∧ (immRel f || immAcq f) = true ∧ (readS s 0 false (immSreg f).toNat).poison = false ∧ trapsB s = true ∧
        syncPlace s 0 (immScope f) (readS s 0 false (immSreg f).toNat).val.toNat = .ok (.lin 0)) ∧
    0 % 64 = 0 ∧ (windowBase - 64) % 64 = 0 ∧ windowBase - 64 + 64 ≤ windowBase ∧ windowBase < windowBase + 64 ∧ 8 % 64 ≠ 0 := by
  simp only [isOk_iff]
  decide +kernel

theorem newGraph_of_empty (s : State) (h : newB s = true) (e : s.greqs = []) : NewGraphName s := by
  simp [NewGraphName, new_iff, h, e]

/-- Graph number 65535, and one that is poisoned. -/
theorem witness_GraphWords :
    let f := lf (vd := 8) (va := 3) (imm := 22)
    let g := lf (vd := 8) (va := 3) (vb := 4) (vc := 5) (imm := 0x8256)
    let s := laneAt [(22, 65535)] id
    let z := s.modGrp 0 (fun h => { h with s := AMap.put h.s 22 ⟨0, true⟩ })
    (∀ p ∈ vertexWords f, goesB s p.2.1 f .gr true = true ∧ goesB z p.2.1 f .gr true = true) ∧ goesB s .gadd g .gr true = true ∧
      (readS s 0 false 22).poison = false ∧ (readS z 0 false 22).poison = true ∧ trapsB z = true ∧ idemOpen (z.grp 0).idempc = false ∧
      (∀ l, l < 96 → (elem s 3 l).poison = false ∧ (elem s 4 l).poison = false ∧ (elem s 5 l).poison = false ∧ (elem s 0 l).poison = false) ∧
      newB s = true ∧ s.greqs = [] ∧ newB z = true ∧ z.greqs = [] := by
  decide +kernel

/-- A cursor open in one lane, its others closed. -/
def cursorAt : State :=
  first 1 ((laneAt [(21, 0)]).modGrp 0 (fun g => { g with c := AMap.put g.c (96 * 7) ⟨1, true, false, false, false, 0, 0, 0, 5⟩ }))

/-- Two lanes that open a cursor, the lower of which has one open already, on vertices 0 and 1. -/
theorem witness_CursorWords_pair :
    let s := first 2 ((laneAt [(22, 1)] id).modGrp 0 (fun g => { g with c := AMap.put g.c (96 * 7) ⟨1, true, false, false, false, 0, 0, 0, 5⟩ }))
    goesB s .copen (lf (va := 3) (vc := 7) (imm := 22)) .gr true = true ∧ newB s = true ∧ s.greqs = [] ∧ (readS s 0 false 22).poison = false ∧
      ((s.grp 0).cursor 7 0).isOpen = true ∧ ((s.grp 0).cursor 7 1).isOpen = false ∧ (elem s 3 0).val.toNat ≠ (elem s 3 1).val.toNat ∧
      (∀ l, l < 96 → (elem s 3 l).poison = false) := by
  decide +kernel

theorem witness_CursorWords :
    let s := laneAt [(21, 0), (22, 1)] id
    newB s = true ∧ s.greqs = [] ∧ newB cursorAt = true ∧ cursorAt.greqs = [] ∧
      (∀ op ∈ [LaneOp.copen, .copenLive], goesB s op (lf (va := 3) (vc := 7) (xmod := 2) (imm := 22)) .gr true = true ∧
        goesB cursorAt op (lf (va := 3) (vc := 7) (imm := 22)) .gr true = true) ∧
      (readS s 0 false 22).poison = false ∧ (∀ l, l < 96 → (elem s 3 l).poison = false ∧ (elem cursorAt 3 l).poison = false) ∧
      goesB cursorAt .cnext (lf (vd := 8) (vc := 7)) .gr true = true ∧ goesB cursorAt .cclose (lf (vc := 7)) .gr true = true ∧
      (∀ l, l < 96 → acts cursorAt (lf) l = true → ((cursorAt.grp 0).cursor 7 l).isOpen = true) ∧
      goesB s .csave (lf (va := 21) (vc := 7)) .gr true = true ∧ (laneScalar s 21).poison = false ∧ (laneScalar s 21).val.toNat % 16 = 0 ∧
      13 ≤ fifoFree s 0 ∧ goesB s .crest (lf (va := 21) (vc := 7)) .gr true = true ∧ 49 ≤ mshrFree s (s.coreOf 0) ∧
      s.cur.held = false ∧
      (∀ l, l < 96 → locate s 0 (regionsOf false) ((laneScalar s 21).val + BitVec.ofNat 64 (16 * l)).toNat 16 = .ok (.lin (16 * l))) := by
  simp only [isOk_iff]
  decide +kernel

/-- The request a sector's reply answers, with bytes of its sector written back since. -/
def answered (s : State) (newer : List (Nat × PByte) := []) : State := grp0 (fun g => { g with fetches := [{ f3 with newer := newer }] }) s

theorem witness_ResultAndCacheSteps :
    (let s := grp0 (fun g => { g with sbusy := [⟨63, 0, false⟩] }) (still (about 0 63)); ∃ x ∈ (s.grp 0).sbusy, x.op = 0 ∧ x.reg.toNat = 63) ∧
    (let s := grp0 (fun g => { g with lbusy := [⟨9, [], [], [], []⟩] }) (still (about 0 9)); ∃ x ∈ (s.grp 0).lbusy, x.id = 9) ∧
    (let e : StoreEnt := ⟨0, 1, [(127, ⟨7, false⟩)], false⟩
     let s := grp0 (fun g => { g with fifo := [e] }) (still (about 0))
     (s.grp 0).fifo = e :: [] ∧ e.bytes ≠ [] ∧ (∀ b ∈ e.bytes, b.1 / 128 = 0) ∧ (e.bytes.map (·.1)).Nodup ∧
       l1Room s (s.coreOf 0) e.asid 0 e.spall = true) ∧
    (let f : Fetch := ⟨0, 5, .fetch 3 false, none, false, none, []⟩
     let s := grp0 (fun g => { g with fetches := [f] }) (still (about 0))
     (s.grp 0).fetches = f :: [] ∧ f.sent = none ∧ f.faulted = none) ∧
    (∀ d ∈ [(0 : Nat), 2 ^ 127], let s := inL1 0 (oneLine (BitVec.ofNat 128 d)) (still (about 0 1 0))
      l1Line s s.cur.a s.cur.b s.cur.c = some (oneLine (BitVec.ofNat 128 d)) ∧ (oneLine (BitVec.ofNat 128 d)).wb = false) ∧
    (let s := answered (still (about 0 1 0)); 0 ∈ groupsOn s 0 ∧ s.asidOf 0 = 1 ∧ f3 ∈ (s.grp 0).fetches ∧ f3.sent.isSome = true) ∧
    (oneLine 0).dirty = 0 ∧ (oneLine (BitVec.ofNat 128 (2 ^ 127))).dirty ≠ 0 := by
  decide +kernel

def sectorMsg : Msg := msg 0 (.rep (.sector 3 (List.replicate 32 ⟨0, false⟩)))
def ackMsg : Msg := msg 0 (.rep .ack)

theorem witness_FabricAndSliceSteps_messages :
    (∀ newer ∈ [[], [(127, ⟨1, false⟩)]], let s := answered (flying sectorMsg (still (about))) newer
     findMsg s.fabric s.cur.b = some sectorMsg ∧ ejects s sectorMsg = true ∧
       fetchOf s sectorMsg = some { f3 with newer := newer } ∧ l1Room s 0 1 0 false = true) ∧
    (∀ b ∈ [MsgBody.req (.fetch 3 false), .line false, .dirty [], .access 0 0 false, .store 0 []],
      let m := { msg 0 b with router := destRouter (msg 0 b) }
      let s := flying m (still (about)); findMsg s.fabric s.cur.b = some m ∧ ejects s m = true ∧ waitsThere b = true) ∧
    (let m := { msg 0 (.rep .ack) with requester := 4000 }
     let s := flying m (still (about)); findMsg s.fabric s.cur.b = some m ∧ ejects s m = true) ∧
    (let s := inL1 0 { oneLine 0 with wb := true } (flying ackMsg (still (about)))
     findMsg s.fabric s.cur.b = some ackMsg ∧ ejects s ackMsg = true ∧ l1Line s 0 1 0 = some { oneLine 0 with wb := true }) ∧
    (∀ b ∈ [ReqBody.fetch 3 false, .write [(127, ⟨1, false⟩)], .atomic 10 4 124 0 0 95, .atomic 25 8 120 0 0 0, .acq 120],
      let m := msg 0 (.req b)
      let s := inL2 0 sliceLine (waiting m (still (about)))
      s.cur.flag = false ∧ findMsg s.arrived s.cur.b = some m ∧ nextFor s m.asid m.line = some m ∧
        owner s (bucketOf m.asid m.line) = m.slice ∧ atPeer s m = false ∧ l2Line s m.asid m.line = some sliceLine ∧
        heldAt s m.asid m.line = []) ∧
    (let m := msg 0 (.req (.fetch 3 false))
     let s := waiting m (still (about))
     s.cur.flag = false ∧ s.cur.c ≠ 1 ∧ nextFor s m.asid m.line = some m ∧ l2Line s m.asid m.line = none ∧
        lineComing s m.asid m.line = false ∧ noRoom s m.asid m.line = false) ∧
    sliceLine.writable = true ∧ sliceLine.tgt ≠ 2 ∧ (124 % 4 = 0 ∧ 124 / 128 = 0) ∧ (120 % 8 = 0 ∧ 120 / 128 = 0) ∧
      (∀ i ∈ [0, 1, 2, 3], sliceLine.poison.getLsbD i = false) := by
  decide +kernel

/-- A remote store due at member 0. -/
theorem witness_FabricAndSliceSteps_store :
    let r : RemReq := ⟨0, 1, 0, 0, 1, 0, 0, 0, 0, .store [(0, ⟨1, false⟩)], true, false⟩
    let s := { still (about) with remotes := [r] }
    s.remotes.find? (fun r => decide (r.id = s.cur.b)) = some r ∧ memberTeam s (s.grp r.grp).team r.member = some 0 ∧
      r.num = AMap.get 0 s.remExpect (remKey r.requester r.kernel r.cluster r.member r.block) ∧ (s.team 0).state ≠ .saved ∧
      (s.team 0).state ≠ .restoring := by
  decide +kernel

/-- A line its slice has asked of its home controller, which holds its translation. -/
theorem witness_ControllerSteps_line :
    let m := msg 0 (.line false)
    let s := mapped (waiting m (still (about)))
    findMsg s.arrived s.cur.b = some m ∧ bytesAway s 1 0 = false ∧ (cached s 1 (0 * 128)).map (·.tgt) = some 0 ∧ l2Line s 1 0 = none ∧
      (cached s 1 (0 * 128)).map (·.writable) = some true := by
  decide +kernel

/-- A read of a half and a write of one, at the controller that holds them; the frame is in use. -/
theorem witness_ControllerSteps_arrays :
    (∀ pa ∈ [(0 : Nat), 64], let m := msg 0 (.access 5 pa (decide (pa = 64)))
      let s := waiting m (still (about)); findMsg s.arrived s.cur.b = some m ∧ storeAway s pa = false) ∧
    (∀ x ∈ [((0 : Nat), (63 : Nat)), (64, 64), (64, 127)], let bs : List (Nat × PByte) := [(x.2, ⟨1, false⟩)]
      let s := waiting (msg 0 (.store x.1 bs)) (still (about))
      findMsg s.arrived s.cur.b = some (msg 0 (.store x.1 bs)) ∧ (s.frame (frameOf x.1)).retired = false ∧ (bs.map (·.1)).Nodup ∧
        (∀ b ∈ bs, b.1 / 64 = x.1 / 64 % 2)) := by
  decide +kernel

/-- A half of a line comes to its slice: the other still wanted, or there as d says. -/
def halfMsg (hi : Bool) : Msg := { msg 0 (.half 7 hi 0 0) with router := destRouter (msg 0 (.half 7 hi 0 0)) }

def halfOf (hi : Bool) (d : Option (BitVec 512 × BitVec 2)) : State :=
  flying (halfMsg hi) { still (about) with hbmReqs := [⟨7, 1, 0, 0, true, false, if hi then d else none, if hi then none else d⟩] }

def halfB (hi : Bool) (d : Option (BitVec 512 × BitVec 2)) : Bool :=
  let s := halfOf hi d
  decide (findMsg s.fabric s.cur.b = some (halfMsg hi)) && ejects s (halfMsg hi) && !l2Full s 1 0 && (l2Line s 1 0).isNone &&
    (heldAt s 1 0).isEmpty && decide ((s.hbmReqs.find? (fun r => decide (r.id = 7))).map (fun r => if hi then r.lo else r.hi) = some d)

theorem witness_DeliverSteps_halves :
    halfB false none = true ∧ halfB false (some (0, 0)) = true ∧ halfB true none = true ∧ halfB true (some (0, 0)) = true := by
  refine ⟨?_, ?_, ?_, ?_⟩ <;> decide +kernel

def sync0 (y : SyncOp) (s : State) : State := grp0 (fun g => { g with syncs := [y] }) s

/-- Line 4 is bound to the word at 0. -/
def bound4 (s : State) : State := ctx1 (fun c => { c with binds := AMap.put c.binds 0 ⟨true, 0, 512, 128⟩ }) s

def acq0 : SyncOp := ⟨0, false, 2, 0, ⟨0, false⟩, 5, [], none, some ⟨7, false⟩, true⟩
def rel0 (scope : Nat) (lines : Option (List Nat)) : SyncOp := ⟨0, true, scope, 0, ⟨7, false⟩, 0, [], lines, none, false⟩

theorem witness_SyncSteps_words :
    (let s := inL1 4 (oneLine 1) (bound4 (sync0 acq0 (still (about))))
     (s.grp 0).syncs.find? (fun y => decide (y.op = s.cur.b) && !y.isRel) = some acq0 ∧ boundLine (s.ctx (s.asidOf 0)) acq0.word 4 = true ∧
       l1Line s (s.coreOf 0) (s.asidOf 0) 4 = some (oneLine 1)) ∧
    (∀ y ∈ [rel0 0 none, rel0 2 (some []), rel0 2 none],
      let s := inL1 4 (oneLine 1) (bound4 (sync0 y (still (about))))
      (s.grp 0).syncs.find? (fun y => decide (y.op = s.cur.b) && y.isRel && !y.sent) = some y ∧ (s.grp 0).anyPending y.after = false ∧
        locate s 0 ⟨true, true, true⟩ y.word 8 = .ok (.lin 0) ∧ boundLine (s.ctx (s.asidOf 0)) y.word 4 = true ∧
        l1Line s (s.coreOf 0) (s.asidOf 0) 4 = some (oneLine 1)) ∧
    (oneLine 1).dirty ≠ 0 ∧ (oneLine 1).wb = false := by
  simp only [isOk_iff]
  decide +kernel

def bind0 (isBind : Bool) (s : State) : State := grp0 (fun g => { g with binds := [⟨0, isBind, 0, windowBase - 1, 1, 0, 5⟩] }) s

/-- A BIND of the last byte of linear space with entry 0 clear and entry 1 the first clear one; an UNBIND of a valid entry and of a clear one. -/
theorem witness_SyncSteps_bindings :
    (let s := inL2 0 sliceLine (mapped (bind0 true (still (about))))
     s.cur.held = false ∧ ((s.grp 0).binds.find? (fun y => decide (y.op = s.cur.b) && y.isBind)).isSome = true ∧
       (∀ i, i ≤ 0 → ((AMap.get ⟨false, 0, 0, 0⟩ (s.ctx 1).binds i).valid = true ↔ i ≠ 0)) ∧
       ∃ t, poke s 1 ((s.ctx 1).btbase + 32 * 0) (cleanBytes 8 0 ++ cleanBytes 8 (windowBase - 1) ++ cleanBytes 8 1 ++ cleanBytes 8 1) = .ok () t) ∧
    (let s := inL2 0 sliceLine (mapped (bound4 (bind0 true (still (about)))))
     (∀ i, i ≤ 1 → ((AMap.get ⟨false, 0, 0, 0⟩ (s.ctx 1).binds i).valid = true ↔ i ≠ 1)) ∧
       ∃ t, poke s 1 ((s.ctx 1).btbase + 32 * 1) (cleanBytes 8 0 ++ cleanBytes 8 (windowBase - 1) ++ cleanBytes 8 1 ++ cleanBytes 8 1) = .ok () t) ∧
    (let s := inL2 0 sliceLine (mapped (bound4 (bind0 false (still (about)))))
     ((s.grp 0).binds.find? (fun y => decide (y.op = s.cur.b) && !y.isBind)).isSome = true ∧
       (AMap.get ⟨false, 0, 0, 0⟩ (s.ctx 1).binds 0).valid = true ∧
       ∃ t, poke s 1 ((s.ctx 1).btbase + 32 * 0 + 0x18) (cleanBytes 4 0) = .ok () t) ∧
    (let s := bind0 false (still (about)); (AMap.get ⟨false, 0, 0, 0⟩ (s.ctx 1).binds 0).valid = false) := by
  simp only [wentOk_iff]
  decide +kernel

/-- An operation that is over; an INV on its last step; a wider barrier one short of its count, full, and released. -/
theorem witness_SyncSteps_counters :
    (let o : OutOp := ⟨0, .ld, false, true, true, false, 0, 0, 0, 0, 0⟩
     retirable ((grp0 (fun g => { g with ops := [o] }) (still (about))).grp 0) = some o) ∧
    (∀ level ∈ [1, 2], let m : MaintOp := ⟨0, 1, level, 4, 4, [], none⟩
      let s := grp0 (fun g => { g with ops := [⟨0, .st, false, false, true, false, 0, 0, 0, 0, 0⟩], maints := [m] }) (still (about))
      retirable (s.grp 0) = none ∧ (s.grp 0).maints = [m] ∧ (∀ e ∈ (s.grp 0).fifo, e.op ∉ m.after)) ∧
    (let b (st : BState) : AMap Barrier := AMap.put [] 15 ⟨st, 1, 1, 0, 0, 0, 0⟩
     (let s := team0 (fun t => { t with bars := b .forwarded, widerOut := [15] }) (still (about))
      (s.team 0).state = .running ∧ (s.team 0).widerOut = 15 :: [] ∧ ((s.team 0).bar 15).scope ≠ 2 ∧
        AMap.get 0 (s.kernel 1).clusBar ((s.team 0).clusid * 16 + 15) + 1 < (s.kernel 1).csize ∧
        (let h := team0 (fun t => { t with state := .halting }) (grp0 (fun g => { g with phase := .exited }) s)
         (h.team 0).state = .halting ∧ liveGroups h 0 = [] ∧ (h.team 0).widerOut = 15 :: []) ∧
        (s.kernel 1).csize ≤ AMap.get 0 (kernel1 (fun k => { k with clusBar := AMap.put k.clusBar 15 1 }) s |>.kernel 1).clusBar 15 + 1) ∧
     (let s := team0 (fun t => { t with bars := b .forwarded, widerIn := [15] }) (still (about))
      (s.team 0).widerIn = 15 :: [] ∧ ((s.team 0).bar 15).state = .forwarded ∧ ((s.team 0).bar 15).arrived < ((s.team 0).bar 15).expect)) := by
  decide +kernel

def whole (d : LoadDest) : PendLoad := ⟨0, d, [⟨95, [0], [some ⟨7, false⟩], 2 ^ 63, 0⟩], false⟩
def loading (d : LoadDest) (s : State) : State := grp0 (fun g => { g with loads := [whole d] }) s
def acting (l : List (Nat × Nat × Option (BitVec 6))) (s : State) : State := s.modCore 0 (fun c => { c with actReqs := l })

theorem witness_LaneUnitSteps_tables :
    (let s := loading (.pattern 63) (still (about))
     wholeLoad (s.grp 0) s.cur.b = some (whole (.pattern 63)) ∧ (whole (.pattern 63)).pieces.length = 1) ∧
    (let s := acting [(0, 0, none)] (loading (.actBank 0) (still (about)))
     (s.core 0).actReqs = (0, 0, none) :: [] ∧ wholeLoad (s.grp 0) 0 = some (whole (.actBank 0))) ∧
    (let s := acting [(0, 0, some 5)] (still (about)); (s.core 0).actReqs = (0, 0, some 5) :: [] ∧ (s.core 0).act1.tag ≠ s.asidOf 0) ∧
    (let s := (acting [(0, 0, some 5)] (still (about))).modCore 0 (fun c => { c with act1 := { c.act1 with tag := 1 } })
     (s.core 0).act1.tag = s.asidOf 0 ∧ (s.core 0).actCur = false) ∧
    (let s := loading (.window 3) (still (about))
     (s.grp 0).loads.find? (fun l => decide (l.op = s.cur.b)) = some (whole (.window 3)) ∧
       ((whole (.window 3)).pieces.find? (·.whole)).map (·.lane) = some 95) := by
  decide +kernel

def copy0 (data : Option (List (Nat × PByte))) (commit : Option (BitVec 6 × Nat × DWord)) : Copy :=
  ⟨0, [(0, 0, ownBase, 4)], data, [], none, false, false, 0, 0, commit, [4], false, none⟩
def copying (c : Copy) (s : State) : State := grp0 (fun g => { g with copies := [c] }) s

/-- A copy that reads, writes its one granule, is over; a commit whose version agrees, and one whose does not. -/
theorem witness_LaneUnitSteps_copies :
    (∀ c ∈ [copy0 none none, copy0 (some [(ownBase, ⟨1, false⟩)]) none, copy0 (some []) none, copy0 (some []) (some (5, ownBase, 0)),
        copy0 (some []) (some (5, ownBase, 1))],
      let s := copying c (still (about))
      (s.grp 0).copies.find? (fun c => decide (c.op = s.cur.b)) = some c ∧ c.waitPage = none ∧ c.acq = false ∧ c.arrived = false ∧
        c.bar = none ∧ c.rel = false) ∧
    (let c := copy0 none none
     let s := ready .copyGranuleWrite 2 (copying c (still (about)))
     (s.grp 0).copies = [c] ∧ thenA (readSources s (copyUnit s 0 c.op 0) c.pieces) (fun _ _ => true) = true) ∧
    (∀ a ∈ [(0 : Nat), ownBase + 4],
      let c := copy0 (some [(0, ⟨1, false⟩), (ownBase + 4, ⟨1, false⟩), (ownBase + 7, ⟨1, false⟩)]) none
      let s := ready .copyGranuleWrite 2 (copying c (still (about 0 0 a)))
      let bs := c.data.getD []
      (s.grp 0).copies = [c] ∧ s.cur.c = a ∧ ((granuleAt s.cur.c bs).head?).map (·.1) = some a ∧
        wentOk (writeGranule s (copyUnit s 0 c.op (s.cur.c / 4 + 1)) a (granuleAt s.cur.c bs)
          (clearsWith s c s.cur.c (bs.filter (fun x => decide (x.1 / 4 ≠ s.cur.c / 4))))) = true) ∧
    (let s := inL1 4 (oneLine 1) (still (about)); l1Line s (s.coreOf 0) (s.asidOf 0) 4 = some (oneLine 1)) ∧
    ownBase % 128 = 0 ∧ pvalue (scratchRead (still (about)) 0 (ownBase - ownBase) 8) = (0 : DWord).toNat ∧
      pvalue (scratchRead (still (about)) 0 (ownBase - ownBase) 8) ≠ (1 : DWord).toNat := by
  decide +kernel

def offer (op grp t place : Nat) : Offer := ⟨grp, op, 5, 1, [⟨7, false⟩], 1, (t, 0), 0, place, false⟩

/-- Two teams of one group each: team 1 has TEAMID 2; in a state in which it is resident or not. -/
def two (st : TState) (l : List Offer) (s : State) : State :=
  { s with teams := AMap.put s.teams 1 { s.team 0 with teamid := 2, clusid := 1, core := 0, state := st },
           groups := AMap.put s.groups 16 { s.grp 0 with team := 1 }, offers := l }

/-- The offer op's message to core 0, at its end. -/
def offerMsg (op : Nat) : Msg := { msg 0 (.offer op 0) with router := destRouter (msg 0 (.offer op 0)) }

theorem witness_LaneUnitSteps_exchange :
    (∀ st ∈ [TState.running, .saved], let s := flying (offerMsg 3) (two st [offer 3 0 2 0] (still (about 0 3)))
      s.fabric.find? (fun m => isOffer s.cur.b m.body) = some (offerMsg 3) ∧ ejects s (offerMsg 3) = true ∧
        s.offers.find? (fun y => decide (y.op = s.cur.b) && decide (y.place = 0)) = some (offer 3 0 2 0) ∧
        partnerGroup s (offer 3 0 2 0) = some (1, 16) ∧ residentTeam (s.team 1) = decide (st = .running) ∧ (s.team 1).state ≠ .saving ∧
        (s.team 1).core = 0 ∧ heldOffers s 0 < 64 ∧
        (setOffer s 3 (fun y => { y with place := 1 })).offers.find? (fun x => decide (x.grp = 16) && !x.completed) = none) ∧
    (let s := flying (offerMsg 3) (two .running [offer 3 0 2 0, offer 4 16 0 1] (still (about 0 3)))
     let s1 := setOffer s 3 (fun y => { y with place := 1 })
     s1.offers.find? (fun x => decide (x.grp = 16) && !x.completed) = some (offer 4 16 0 1) ∧
       matching s1 (offer 4 16 0 1) = some (offer 3 0 2 1)) ∧
    (let s := two .running [offer 3 0 2 2] (still (about 0 3))
     s.offers.find? (fun y => decide (y.op = s.cur.b) && decide (y.place = 2)) = some (offer 3 0 2 2)) ∧
    (let q : QueueOp := ⟨0, 0, true, false, 0, 0, 1, 0, [], 0, true⟩
     let s := { still (about) with queueOps := [q] }
     s.queueOps.find? (fun q => decide (q.op = s.cur.b) && q.refused && decide (q.left = 0)) = some q) := by
  decide +kernel

/-! The engine -/

def cmd (op : LaneOp) (f : LaneFields) (v1 v2 : DWord) (begun : Bool) : EngCmd :=
  ⟨0, singleWord (laneCode op) f, BitVec.allOnes 96, v1, v2, 0, 0, 0, 0, begun, true, false, false, 0, 0, false, none, none⟩

def engine (c : EngCmd) (s : State) : State := grp0 (fun g => { g with engq := [c], ops := [⟨0, .en, false, false, false, false, 0, 0, 0, 0, 0⟩] }) s

def turnB (s : State) (c : EngCmd) (op : LaneOp) (f : LaneFields) : Bool :=
  decide (headCmd s s.cur.a = some c) && decide (c.part = some (op, f)) && !c.finished && decide (c.stop = none)

theorem turn_iff (s : State) (c : EngCmd) (op : LaneOp) (f : LaneFields) : Turn s c op f ↔ turnB s c op f = true := by
  simp [Turn, turnB, and_assoc]

/-- A stream block of 64 weights at rate 3 (R334): stream, descriptor, target, work. -/
def encBlk : List PByte :=
  cleanBytes 8 0x4000 ++ cleanBytes 8 (64 + 3 * 2 ^ 28) ++ cleanBytes 8 0x8000 ++ cleanBytes 8 0x10000 ++ cleanBytes 32 0

def encAt (begun : Bool) : State := inHbm 0 encBlk (mapped (engine (cmd .encTc (lf (va := 21)) 0 0 begun) (still (about))))

theorem witness_EngineSteps_start :
    (let f := lf (vd := 15) (imm := 0)
     let c := cmd .tzero f 0 0 false
     let s := engine c (still (about))
     turnB s c .tzero f = true ∧ c.started = false ∧ movesOn (s.grp 0) c.tiles = false ∧ scratchStoreDue s 0 c.op = false) ∧
    (let c := cmd .encTc (lf (va := 21)) 0 0 false
     let s := ready .engineCmdStart 2 (encAt false)
     turnB s c .encTc (lf (va := 21)) = true ∧ immAcq (lf (va := 21)) = false ∧ movesOn (s.grp 0) c.tiles = false ∧
       c.started = false ∧ scratchStoreDue s 0 c.op = false ∧
       thenA (readBlock s 0 c) (fun blk _ => !ppoison blk && (parseEnc blk).isSome) = true) := by
  decide +kernel

/-- Every dense word at its first K-step, at the last columns of its tile; TZERO; TRES of a held bank; a load and a store of a slice. -/
theorem witness_EngineSteps_run :
    (∀ op ∈ [LaneOp.tmmaE4m3, .tmmaE5m2, .tmmaI8, .tmmaBf16, .tmmaF16, .tmmaE2m1],
      let f := lf (vd := 15) (va := 64) (vb := 21) (imm := 0x1C0)
      let c := cmd op f (BitVec.ofNat 64 ownBase) 16 true
      let s := engine c (still (about))
      turnB s c op f = true ∧ engineTurn s (s.coreOf s.cur.a) = some s.cur.a ∧ c.started = true ∧ isDense op = true ∧
        f.xmod.getLsbD 0 = false ∧ (128 * (f.vd.toNat % 16) + immC0 f + 16 * c.step) % 128 ≤ 112) ∧
    (let f := lf (vd := 15)
     let c := cmd .tzero f 0 0 true
     let s := engine c (still (about))
     turnB s c .tzero f = true ∧ engineTurn s 0 = some 0 ∧ c.started = true) ∧
    (let f := lf (vd := 15) (va := 21)
     let c := cmd .tres f 1 0 true
     let s := (engine c (still (about))).modCore 0 (fun q => { q with banks := AMap.put q.banks 19 ⟨some (0, 15), true⟩ })
     turnB s c .tres f = true ∧ engineTurn s 0 = some 0 ∧ heldBank (s.core 0) 0 15 = some 19 ∧ ((s.core 0).bank 19).init = true ∧
       physTile s 0 15 ≠ 19 ∧ AMap.wf 0 (s.core 0).tiles = true) ∧
    (∀ load ∈ [true, false],
      let m : TileMove := ⟨0, load, 15, 3, 224, BitVec.allOnes 96⟩
      let s := grp0 (fun g => { g with moves := [m] }) (still (about))
      (s.grp 0).moves.find? (fun m => decide (m.op = s.cur.b)) = some m ∧ m.q < 4) ∧
    (∀ op ∈ [LaneOp.tzero, .encTc],
      let f := lf (va := if op = .tzero then 0 else 21)
      let c := { cmd op f 0 0 true with finished := true, wrote := true }
      let s := engine c (still (about))
      (s.grp 0).engq = c :: [] ∧ c.part = some (op, f) ∧ c.stop = none ∧ c.inflight = 0 ∧ c.waitPage = none ∧ teamHere s 0 = true ∧
        immRel f = false) := by
  decide +kernel

/-! Writes whose answers are there -/

def WritesDone (s : State) : Prop := ∀ r ∈ s.unitReqs, ∀ bs, r.body = .write bs → r.answer = some .ack

theorem unitAsks_writesDone (s : State) (u : Asker) (asid : Nat) (hs : WritesDone s) (l : List (Nat × List (Nat × PByte)))
    (h : ∀ p ∈ l, ∃ r ∈ s.unitReqs, u.made asid p.1 (.write p.2) r = true) :
    unitAsks s u asid (l.map (fun p => (p.1, .write p.2))) = .ok (l.map (fun _ => .ack)) s := by
  induction l with
  | nil => rfl
  | cons p l ih =>
    obtain ⟨r, hr, hm⟩ := h p (by simp)
    have hsome : (s.unitReqs.find? (u.made asid p.1 (.write p.2))).isSome = true := List.find?_isSome.mpr ⟨r, hr, hm⟩
    obtain ⟨x, hx⟩ := Option.isSome_iff_exists.mp hsome
    have hb : x.body = .write p.2 := by
      have := List.find?_some hx
      simp only [Asker.made, Bool.and_eq_true, decide_eq_true_eq] at this
      exact this.2
    have ha := hs x (List.mem_of_find?_eq_some hx) _ hb
    have hi := ih (fun q hq => h q (by simp [hq]))
    simp only [List.map_cons, unitAsks, unitAsk, hx, ha, hi]

/-- The requests of a unit's write, answered. -/
def writeReqs (u : Asker) (asid a : Nat) (bs : List PByte) : List UnitReq :=
  let l := (List.range bs.length).zip bs |>.map (fun p => (a + p.1, p.2))
  (linesTouched l).map (fun n => ⟨u.who, u.key, u.part, u.grp, 0, asid, n, .write (bytesIn n l), some .ack⟩)

theorem unitPoke_done (s : State) (u : Asker) (asid a : Nat) (bs : List PByte) (hs : WritesDone s)
    (h : ∀ r ∈ writeReqs u asid a bs, r ∈ s.unitReqs) : unitPoke s u asid a bs = .ok () s := by
  have hl := unitAsks_writesDone s u asid hs
    ((linesTouched ((List.range bs.length).zip bs |>.map (fun p => (a + p.1, p.2)))).map
      (fun n => (n, bytesIn n ((List.range bs.length).zip bs |>.map (fun p => (a + p.1, p.2))))))
    (fun p hp => by
      obtain ⟨n, hn, rfl⟩ := List.mem_map.mp hp
      exact ⟨_, h _ (List.mem_map.mpr ⟨n, hn, rfl⟩), by simp [Asker.made]⟩)
  rw [List.map_map] at hl
  simp only [unitPoke, unitPokeBytes]
  rw [show (fun l => (l, ReqBody.write (bytesIn l ((List.range bs.length).zip bs |>.map (fun p => (a + p.1, p.2)))))) =
    ((fun p : Nat × List (Nat × PByte) => (p.1, ReqBody.write p.2)) ∘
      (fun n => (n, bytesIn n ((List.range bs.length).zip bs |>.map (fun p => (a + p.1, p.2)))))) from rfl, hl]

/-! The first step of the first pass over a stream of zeros -/

def encCmd : EngCmd := { cmd .encTc (lf (va := 21)) 0 0 true with aux := 1 }
def encB : EncBlock := ⟨0x4000, ⟨64, 3, 0⟩, 0x8000, 0x10000⟩
def encU : Asker := ⟨4000, 0, 0, 0⟩
def encOut : List (Nat × Nat) :=
  (List.range (2 ^ 9)).map (bestBranch 7 (2 ^ 9) (branchCost 0 [0, 0, 0, 0] (List.replicate 4 0)) (firstMetrics (2 ^ 9) 1 0))
def encMetrics : List PByte := encOut.flatMap (fun o => cleanBytes 4 o.1)
def encSurvivors : List PByte := encOut.map (fun o => ⟨BitVec.ofNat 8 o.2, false⟩)
def encFirst : List UnitReq := writeReqs encU 1 (metricAddr encB ((0 + 1) % 2)) encMetrics
def encLast : List UnitReq := writeReqs encU 1 (survAddr encB 0) encSurvivors

/-- Its block, its inputs and its first metrics are there. -/
def encBegun : State := ready .trellisStep 4 (inHbm 0 encBlk (mapped (engine encCmd (still (about)))))

/-- The writes that end the step are answered too. -/
def encDone : State := { encBegun with unitReqs := encBegun.unitReqs ++ (encFirst ++ encLast) }

def accIs {α : Type} [DecidableEq α] (r : Access α) (x : α) : Bool :=
  match r with
  | .ok y _ => decide (y = x)
  | _ => false

def writtenB (r : UnitReq) : Bool :=
  match r.body with
  | .write _ => decide (r.answer = some .ack)
  | _ => true

def encGoesB (s : State) : Bool :=
  turnB s encCmd .encTc (lf (va := 21)) && decide (engineTurn s (s.coreOf s.cur.a) = some s.cur.a) && decide (s.asidOf s.cur.a = 1) &&
    decide (s.cur.a = 0) && decide (s.coreOf 0 = 0) && accIs (readBlock s 0 encCmd) encBlk &&
    accIs (encInputs s encU 1 encB 0) (List.replicate 16 ⟨0, false⟩, List.replicate 2 ⟨0, false⟩) &&
    accIs (stepMetrics s encU 1 encB 0 1 0) (firstMetrics (2 ^ 9) 1 0)

theorem encDone_goes : encGoesB encDone = true := by
  decide +kernel

theorem encDone_written : WritesDone encDone := by
  have hA : encBegun.unitReqs.all writtenB = true := by decide +kernel
  intro r hr bs hb
  rcases List.mem_append.mp hr with h | h
  · have := List.all_eq_true.mp hA r h
    simpa [writtenB, hb] using this
  · simp only [encFirst, encLast, writeReqs, List.mem_append, List.mem_map] at h
    rcases h with ⟨_, -, rfl⟩ | ⟨_, -, rfl⟩ <;> rfl

theorem witness_EngineSteps_trellis_store : storeStep encDone encU 1 encB 0 encOut = .ok () encDone := by
  have hm : unitPoke encDone encU 1 (metricAddr encB ((0 + 1) % 2)) encMetrics = .ok () encDone :=
    unitPoke_done _ _ _ _ _ encDone_written (fun _ hr => List.mem_append_right _ (List.mem_append_left _ hr))
  have hv : unitPoke encDone encU 1 (survAddr encB 0) encSurvivors = .ok () encDone :=
    unitPoke_done _ _ _ _ _ encDone_written (fun _ hr => List.mem_append_right _ (List.mem_append_right _ hr))
  rw [encMetrics] at hm
  rw [encSurvivors] at hv
  rw [storeStep, hm]
  exact hv

theorem witness_EngineSteps_trellis : parseEnc encBlk = some encB ∧ encB.q = 9 ∧ ppoison encBlk = false ∧
    words (List.replicate 16 ⟨0, false⟩) 4 = [0, 0, 0, 0] ∧ pvalue (List.replicate 2 ⟨0, false⟩) = 0 ∧ isNan fp32 0 = false ∧
    isInf fp32 0 = false ∧ isNan bf16 0 = false ∧ isInf bf16 0 = false := by
  decide +kernel

theorem unitAsks_same {s t : State} {u : Asker} {asid : Nat} {l : List (Nat × ReqBody)} {as : List RepBody}
    (h : unitAsks s u asid l = .ok as t) : t = s := by
  induction l generalizing as with
  | nil => cases h; rfl
  | cons p l ih =>
    simp only [unitAsks] at h
    have one : ∀ a x, unitAsk s u asid p.1 p.2 = .ok a x → x = s := by
      intro a x hx
      unfold unitAsk at hx
      split at hx
      · split at hx <;> cases hx
      · split at hx
        · cases hx
        · split at hx <;> cases hx
        · cases hx; rfl
    split at h
    · cases h
    · rename_i a x hx
      have hs := one a x hx
      subst hs
      split at h
      · rename_i b y hy
        cases h; exact ih hy
      · exact ih h
    · rename_i x hx
      split at h
      · cases h
      · rename_i hn
        exact absurd h (hn _ _)

theorem unitPeek_same {s t : State} {u : Asker} {asid a n : Nat} {sp : Bool} {bs : List PByte} (h : unitPeek s u asid a n sp = .ok bs t) :
    t = s := by
  unfold unitPeek at h
  split at h
  · rename_i hx
    cases h; exact unitAsks_same hx
  · cases h
  · cases h

theorem unitPoke_same {s t : State} {u : Asker} {asid a : Nat} {bs : List PByte} (h : unitPoke s u asid a bs = .ok () t) : t = s := by
  unfold unitPoke unitPokeBytes at h
  split at h
  · rename_i hx
    cases h; exact unitAsks_same hx
  · cases h
  · cases h

theorem encInputs_same {s t : State} {u : Asker} {asid i : Nat} {b : EncBlock} {x : List PByte × List PByte}
    (h : encInputs s u asid b i = .ok x t) : t = s := by
  simp only [encInputs] at h
  split at h
  · rename_i h1
    split at h
    · rename_i h2
      cases h
      rw [unitPeek_same h2, unitPeek_same h1]
    · cases h
    · cases h
  · cases h
  · cases h

theorem stepMetrics_same {s t : State} {u : Asker} {asid p e : Nat} {b : EncBlock} {x : List Nat} (h : stepMetrics s u asid b 0 p e = .ok x t) :
    t = s := by
  unfold stepMetrics at h
  simp only [if_pos] at h
  split at h
  · rename_i hx
    cases h; exact unitPoke_same hx
  · cases h
  · cases h

theorem accIs_ok {α : Type} [DecidableEq α] {r : Access α} {x : α} (h : accIs r x = true) : ∃ t, r = .ok x t := by
  unfold accIs at h
  split at h
  · exact ⟨_, by rw [of_decide_eq_true h]⟩
  · cases h

/-- The hypotheses about the step's accesses, one after another. -/
theorem witness_EngineSteps_trellis_chain : ∃ s1 s2 s3 s4, readBlock encDone 0 encCmd = .ok encBlk s1 ∧
    encInputs s1 encU 1 encB 0 = .ok (List.replicate 16 ⟨0, false⟩, List.replicate 2 ⟨0, false⟩) s2 ∧
    stepMetrics s2 encU 1 encB 0 1 0 = .ok (firstMetrics (2 ^ 9) 1 0) s3 ∧ storeStep s3 encU 1 encB 0 encOut = .ok () s4 := by
  have hg := encDone_goes
  simp only [encGoesB, Bool.and_eq_true] at hg
  obtain ⟨⟨⟨-, h1⟩, h2⟩, h3⟩ := hg
  obtain ⟨_, e1⟩ := accIs_ok h1
  obtain ⟨_, e2⟩ := accIs_ok h2
  obtain ⟨_, e3⟩ := accIs_ok h3
  rw [show _ = encDone from unitPeek_same e1] at e1
  rw [show _ = encDone from encInputs_same e2] at e2
  rw [show _ = encDone from stepMetrics_same e3] at e3
  exact ⟨_, _, _, _, e1, e2, e3, witness_EngineSteps_trellis_store⟩

/-- A table of one row of 16 FP32 elements at 0x4000, its index list at 0x5000, its offsets at 0x6000, its results in own scratch. -/
def embBlk (bags : Bool) : List PByte :=
  cleanBytes 8 0x4000 ++ cleanBytes 4 1 ++ cleanBytes 2 16 ++ cleanBytes 1 0 ++ cleanBytes 1 0 ++ cleanBytes 4 64 ++ cleanBytes 4 1 ++
    cleanBytes 8 0x5000 ++ cleanBytes 8 ownBase ++ cleanBytes 8 (if bags then 0x6000 else 0) ++ cleanBytes 4 (if bags then 1 else 0) ++
    cleanBytes 12 0

def bulkBlk : List PByte := cleanBytes 8 0x4000 ++ cleanBytes 4 1 ++ cleanBytes 52 0

/-- Line 128 holds the table's row at its slice. -/
def blockAt (op : LaneOp) (blk : List PByte) : State :=
  inL2 128 sliceLine (inHbm 0 blk (inHbm 0x6000 (cleanBytes 4 0 ++ cleanBytes 4 1) (mapped (engine (cmd op (lf (va := 21)) 0 0 true) (still (about))))))

def blockCmd (op : LaneOp) : EngCmd := cmd op (lf (va := 21)) 0 0 true

/-- The command's block is there, and what it holds goes on. -/
def onBlock (s : State) (op : LaneOp) (P : List PByte → State → Bool) : Bool :=
  turnB s (blockCmd op) op (lf (va := 21)) && (blockCmd op).started && !(blockCmd op).asked &&
    thenA (readBlock s 0 (blockCmd op)) (fun blk s1 => !ppoison blk && P blk s1)

/-- The one row of an EMB.G. -/
def embGB (s : State) : Bool :=
  let u := engineOf s 0 0
  onBlock s .embG fun blk s1 => match parseEmb s1 0 false blk with
    | none => false
    | some b => thenA (unitPeek s1 u 1 (b.idx + 4 * 0) 4 false) (fun ib s2 => !ppoison ib && (match pickRow b (pvalue ib) with
      | .row x => thenA (unitPeek s2 u 1 (b.tbase + b.stride * x) b.rb true) (fun bs s3 =>
          thenA (writePlace s3 u (b.dst + b.os * 0) bs) (fun _ _ => true))
      | _ => false))

/-- The one bag of an EMB.R. -/
def embRB (s : State) : Bool :=
  let u := engineOf s 0 0
  onBlock s .embR fun blk s1 => match parseEmb s1 0 true blk with
    | none => false
    | some b => thenA (unitPeek s1 u 1 (b.offs + 4 * 0) 8 false) (fun ob s2 => !ppoison ob && (
        let lo := pvalue (ob.take 4)
        let hi := pvalue (ob.drop 4)
        thenA (unitPeek s2 u 1 (b.idx + 4 * lo) (4 * (hi - lo)) false) (fun ib s3 => !ppoison ib && (match pickAll b (words ib (hi - lo)) with
          | none => false
          | some (rows, _) => thenA (readRows s3 1 b rows) (fun bs s4 =>
              thenA (writePlace s4 u (b.dst + 4 * b.dim * 0) (bagBytes b bs)) (fun _ _ => true))))))

/-- The one record of a GBULK. -/
def gbulkB (s : State) : Bool :=
  let u := engineOf s 0 0
  onBlock s .gbulk fun blk s1 => match parseBulk blk with
    | none => false
    | some b => decide (0 < b.count) && thenA (unitPeek s1 u 1 (b.list + 12 * 0) 12 false) (fun rb s2 =>
        !ppoison rb && s2.greqs.all (fun r => decide (r.id < s2.nextId)))

theorem witness_BlockSteps : embGB (ready .embGRow 6 (blockAt .embG (embBlk false))) = true ∧
    embRB (ready .embRBag 6 (blockAt .embR (embBlk true))) = true ∧ gbulkB (ready .gbulkRecord 6 (blockAt .gbulk bulkBlk)) = true := by
  decide +kernel

/-! A graph of 16 vertices, four segments a unit, in the first page of context 1, and the units that keep its entry. -/

def gent : GEntry := ⟨0x1000, 16, 0x10000, 0x20000, 0x4000, 4, true⟩

def graph0 (s : State) : State :=
  mapped (ctx1 (fun c => { c with gents := (List.range 96).foldl (fun m u => AMap.put m (u * 65536) gent) c.gents }) s)

/-- An edge from vertex 1 to vertex 2 with attribute 7: lines of the vertices, of the two segments and of their sequence blocks (R191–R194). -/
def withEdge (s : State) : State :=
  [(32, 84162174444369509358485207874935736240292859862111989829625398069712210096708496653309261286104521356495942450032284634410369531967196959304226505560535193735667013910974320665585131560041820041965026899098861568),
   (564, 3481262655100090673562308127874887850720568871287973991414528967539975913462267067236352),
   (620, 3481262654984298584324991932451316865711880963434704006748888712985528150799426957344768),
   (1076, 1), (1132, 1)].foldl (fun s p => inHbm (128 * p.1) (cleanBytes 128 p.2) s) s

/-- A reserved slot in the in-list of vertex 0: its vertex and its segment. -/
def reserved (s : State) : State :=
  [(32, 2 ^ 64 + 2 ^ 96), (512, 2 ^ 80 + 2 ^ 88)].foldl (fun s p => inHbm (128 * p.1) (cleanBytes 128 p.2) s) s

/-- The pool of vertex 15's unit with no segment left. -/
def full15 (s : State) : State :=
  inHbm (0x4000 + 16 * graphOwner 0 15) (cleanBytes 4 4) s

def req (kind : GKind) (stage : GStage) (v other : Nat) : GReq :=
  { blankReq with kind := kind, stage := stage, asid := 1, vertex := v, other := other, attr := 7, unit := graphOwner 0 v, cur := 7, lane := 95 }

def asking (r : GReq) (s : State) : State := { s with greqs := [r], gops := [⟨0, 0, .first, 8, none, 1, []⟩] }

/-- The request at its stage, with the answers its event has asked for, in a graph of one edge or of none. -/
def at_ (e : Instr) (r : GReq) (f : State → State := id) : State := ready e 12 (asking r (f (graph0 (still (about)))))

def atUnitB (s : State) (r : GReq) (stage : GStage) : Bool :=
  decide (findReq s s.cur.b = some r) && decide (r.stage = stage) && !r.moving && decide (r.waitPage = none)

theorem atUnit_iff (s : State) (r : GReq) (stage : GStage) : AtUnit s r stage ↔ atUnitB s r stage = true := by
  simp [AtUnit, atUnitB, and_assoc]

def gdueB (s : State) (r : GReq) (stage : GStage) : Bool := atUnitB s r stage && due s r

theorem gdue_iff (s : State) (r : GReq) (stage : GStage) : GDue s r stage ↔ gdueB s r stage = true := by
  simp [GDue, gdueB, atUnit_iff]

/-- A step ends with this status. -/
def statusIs {α : Type} (r : GRes α) (c : Nat) : Bool :=
  match r with
  | .status x _ => decide (x = c)
  | _ => false

def stays (r : GReq) (s : State) : Bool := decide (findReq s r.id = some r)

def degreeB (d : Bool) (v : Nat) : Bool :=
  let r := req (.degree d) .sent v 0
  let s := at_ .graphRankRead r withEdge
  gdueB s r .sent && thenG ((placeOf s r r.gid r.vertex).bind fun p s => readView s p) (fun _ s' => stays r s')

def noDegreeB : Bool :=
  let r := req (.degree false) .sent nullVertex 0
  let s := at_ .graphRankRead r
  gdueB s r .sent && statusIs ((placeOf s r r.gid r.vertex).bind fun p s => readView s p) gNullv

def rankB (d : Bool) (v : Nat) : Bool :=
  let r := req (.rank d) .sent v 0
  let s := at_ .graphRankRead r withEdge
  gdueB s r .sent && thenG (placeOf s r r.gid r.vertex) (fun p s1 => thenG (readView s1 p) (fun x s2 =>
    (liveSlots (x.list d))[r.rank]?.isSome && stays r s2))

/-- Degrees and the rank of the edge, in both directions; a degree of no vertex. -/
theorem witness_GraphReads : degreeB false 1 = true ∧ degreeB true 2 = true ∧ noDegreeB = true ∧ rankB false 1 = true ∧ rankB true 2 = true := by
  decide +kernel

def addSentB (k : GKind) : Bool :=
  let r := req k .sent 15 0
  let s := at_ .reserveInSlot r
  gdueB s r .sent && thenG (graphEntry s (graphUnit r.srcUnit r.id r.grp) r.asid r.gid) (fun e s1 => e.bound && decide (15 < e.vcount) &&
    decide (15 ≠ nullVertex) && thenG (placeOf s1 r 0 15) (fun p s2 => thenG (readView s2 p) (fun x s3 =>
      decide (x.vert.outDeg < seqTop - 1) && stays r s3)))

def addAskedB : Bool :=
  let r := req .add .asked 15 0
  let s := at_ .reserveInSlot r
  atUnitB s r .asked && inDue s r && thenG (reserveAt s r) (fun _ s' => stays r s')

def addReservedB : Bool :=
  let r := { req .add .reserved 15 0 with took := true }
  let s := at_ .outInsert r
  atUnitB s r .reserved && decide (r.status = gOk) && thenG (insertOut s r) (fun _ s' => stays r s')

def addNoRoomB : Bool :=
  let r := { req .add .reserved 15 0 with took := true }
  let s := at_ .outInsert r full15
  atUnitB s r .reserved && decide (r.status = gOk) && statusIs (insertOut s r) gFull

def addRefusedB : Bool :=
  let r := { req .add .reserved 15 0 with status := gFull }
  atUnitB (at_ .outInsert r) r .reserved && decide (r.status ≠ gOk)

def addCancelB : Bool :=
  let r := { req .add .cancel 15 0 with status := gFull }
  let s := at_ .reserveCancel r
  atUnitB s r .cancel && inDue s r && decide (r.status ≠ gWithdrawn) && thenG (cancelAt s r) (fun _ _ => true)

def addInB : Bool :=
  let r := req .add .outDone 15 0
  let s := at_ .inInsert r reserved
  atUnitB s r .outDone && inDue s r && thenG (insertIn s r) (fun _ s' => (findReq s' r.id).isSome)

/-- An add from vertex 15 to vertex 0 at each of its stages, where its source's pool is empty, refused, and cancelled. -/
theorem witness_GraphAdds : addSentB .add = true ∧ addSentB .bulkAdd = true ∧ addAskedB = true ∧ addReservedB = true ∧ addNoRoomB = true ∧
    addRefusedB = true ∧ addCancelB = true ∧ addInB = true := by
  refine ⟨?_, ?_, ?_, ?_, ?_, ?_, ?_, ?_⟩ <;> decide +kernel

def delB : Bool :=
  let r := req .del .sent 1 0
  let s := at_ .outRemove r withEdge
  gdueB s r .sent && thenG (removeOut s r) (fun _ s' => stays r s')

def delInB : Bool :=
  let r := req .delIn .sent 2 0
  let s := at_ .inRankRemove r withEdge
  gdueB s r .sent && thenG (placeOf s r 0 2) (fun p s1 => thenG (readView s1 p) (fun x s2 => (liveSlots x.ins)[r.rank]?.isSome && stays r s2))

def delLastB (k : GKind) : Bool :=
  let r := req k .outDone 1 2
  let s := at_ .inRemove r withEdge
  atUnitB s r .outDone && inDue s r && thenG (removeIn s r) (fun _ s' => (findReq s' r.id).isSome)

/-- The edge removed by its out-rank and by its in-rank, at each of its stages. -/
theorem witness_GraphRemovals : delB = true ∧ delInB = true ∧ delLastB .del = true ∧ delLastB .delIn = true := by
  refine ⟨?_, ?_, ?_, ?_⟩ <;> decide +kernel

/-- A cursor on vertex 1: before its entry, at its end; or past its entry. -/
def cursorOn (atEnd past : Bool) : Cursor := ⟨0, true, true, false, atEnd, 0, if past then BitVec.ofNat 32 1 else 0, 0, 1⟩

def onVertex (c : Cursor) (s : State) : State := grp0 (fun g => { g with c := AMap.put g.c (96 * 7 + 95) c }) s

def openB (live : Bool) : Bool :=
  let r := req (.openCur live false) .sent 1 0
  let s := at_ .cursorOpen r withEdge
  gdueB s r .sent && thenG ((placeOf s r 0 1).bind fun p s => pinAt s p (!live)) (fun _ s' => stays r s')

def endB : Bool :=
  let r := req .nextCur .sent 1 0
  let s := at_ .cursorNext r (fun s => onVertex (cursorOn true false) (withEdge s))
  gdueB s r .sent && ((s.grp 0).cursor 7 95).atEnd

/-- The next entry of a cursor, or none behind it. -/
def nextB (past : Bool) : Bool :=
  let r := req .nextCur .sent 1 0
  let s := at_ .cursorNext r (fun s => onVertex (cursorOn false past) (withEdge s))
  let c := (s.grp 0).cursor 7 95
  gdueB s r .sent && !c.atEnd && thenG (placeOf s r c.gid.toNat c.vertex.toNat) (fun p s1 => thenG (readView s1 p) (fun x s2 =>
    (match afterPosition (x.list c.inList) c with
     | none => false
     | some l => decide ((l.find? (fun y => yields c y.2.2)).isSome = !past)) && stays r s2))

def pinned1 (s : State) : State := inHbm (0x1000 + 32 + 28) (cleanBytes 2 1) s

def closeB : Bool :=
  let r := req .closeCur .sent 1 0
  let s := at_ .cursorClose r (fun s => pinned1 (onVertex (cursorOn false false) (withEdge s)))
  gdueB s r .sent && thenG (unpinAt s r ((s.grp 0).cursor 7 95)) (fun _ s' => (findReq s' r.id).isSome)

def closeLostB : Bool :=
  let r := req .closeCur .sent 1 0
  let s := at_ .cursorClose r (fun s => onVertex (cursorOn false false) (withEdge s))
  gdueB s r .sent && statusIs (unpinAt s r ((s.grp 0).cursor 7 95)) gCorrupt

theorem witness_GraphCursors : openB false = true ∧ openB true = true ∧ endB = true ∧ nextB false = true ∧ nextB true = true ∧ closeB = true ∧
    closeLostB = true := by
  refine ⟨?_, ?_, ?_, ?_, ?_, ?_, ?_⟩ <;> decide +kernel

/-- The answer of the request's unit, at its core. -/
def answerMsg : Msg := { msg 0 (.graphAns 0 0) with router := destRouter (msg 0 (.graphAns 0 0)) }

theorem witness_GraphAnswers :
    (∀ k ∈ [GKind.degree false, .nextCur],
      let r := { req k .answered 1 0 with answer := some ⟨gOk, 1, 0, none⟩ }
      let s := flying answerMsg (asking r (still (about)))
      findMsg s.fabric s.cur.b = some answerMsg ∧ ejects s answerMsg = true ∧ findReq s r.id = some r ∧ r.stage ≠ .closing ∧
        (s.gops.find? (fun x => decide (x.op = r.op))).isSome = true ∧ r.lane < 96 ∧ r.cur < 8 ∧
        (∀ y ∈ s.greqs, y.kind.ofCursor = true → y.grp = r.grp → y.id = r.id)) ∧ GKind.nextCur.ofCursor = true := by
  decide +kernel

def heldB (s : State) : Bool :=
  match heldGraph s 1 with
  | none => false
  | some (unit, bs) =>
    wentOk (unitPokeBytes s { graphUnit unit 0 0 with part := 1 * 2 ^ 45 + lineOf ((bs.head?.map (·.1)).getD 0) + 1 } 1 bs)

theorem witness_GraphWriteBack :
    heldB (ready .graphWriteback 2 (ctx1 (fun c => { c with gstore := AMap.put c.gstore (storeKey 95 0x1000) 1 }) (mapped (still (about 1))))) = true := by
  decide +kernel

/-! Groups that end, overlays -/

def rec0 : DRec := .joinA 1 false

theorem witness_GroupEndSteps :
    (let s := grp0 (fun g => { g with phase := .stopping }) (still (about)); (s.grp s.cur.a).phase = .stopping) ∧
    (let s := grp0 (fun g => { g with slot0 := { g.slot0 with reason := .exitdrain } }) (still (about))
     (s.teamOf 0).state = .running ∧ (s.teamOf 0).preempt = false ∧ (s.grp 0).phase = .running ∧ draining (s.grp 0) = true ∧
       (s.grp 0).laneq = [] ∧ (s.grp 0).ops = []) ∧
    (let s := inL2 1 sliceLine (grp0 (fun g => { g with drecs := [rec0, rec0, rec0], dbelow := 1, ptr := 16 }) (still (about)))
     (s.grp 0).phase ≠ .halted ∧ (s.grp 0).phase ≠ .saved ∧ (s.grp 0).stackWait = none ∧ (s.grp 0).drecs.length < 4 ∧ 0 < (s.grp 0).dbelow ∧
       thenA (peek s (s.asidOf 0) (ptrAddr ((s.grp 0).ptr - BitVec.ofNat 48 ((s.grp 0).drecs.length + 1))) 16)
         (fun _ s' => decide (s'.groups = s.groups)) = true) ∧
    (let s := inL2 1 sliceLine (grp0 (fun g => { g with drecs := [rec0, rec0, rec0, rec0, rec0], ptr := 16 }) (still (about)))
     (s.grp 0).phase ≠ .halted ∧ (s.grp 0).phase ≠ .saved ∧ (s.grp 0).stackWait = none ∧ (s.grp 0).drecs = [rec0, rec0, rec0, rec0] ++ [rec0] ∧
       thenA (poke s (s.asidOf 0) (ptrAddr ((s.grp 0).ptr - BitVec.ofNat 48 5)) ((recordBytes rec0).map (fun b => ⟨b, false⟩)))
         (fun _ s' => decide (s'.groups = s.groups)) = true) ∧
    (let s := grp0 (fun g => { g with slot0 := { g.slot0 with reason := .counter } }) (still (about))
     watchdogDue s 0 = true ∧ (s.team 0).state = .running ∧ liveGroups s 0 = 0 :: []) ∧
    (let s := inL2 1 sliceLine (grp0 (fun g => { g with phase := .restarting, idempc := 1, ptr := 9, room := 0, dbelow := 1 }) (still (about)))
     (s.grp 0).phase = .restarting ∧ (s.teamOf 0).state = .running ∧ (s.grp 0).stackWait = none ∧ (s.grp 0).restart = none ∧
       thenA (entryMask s 0) (fun _ s' => decide (s'.groups = s.groups)) = true) := by
  decide +kernel

/-- Two descriptors at 0x2000 and 0x2080, of overlays 0 and 1, under the directory at 0x1000, each line at its slice. -/
def descData (n : Nat) : Nat := 0x4000 + 0x1000 * 2 ^ 64 + 2 * 2 ^ 128 + n * 2 ^ 160 + 2 ^ 176 + 16 * 2 ^ 192 + 4 * 2 ^ 224

def withLine (line data : Nat) (s : State) : State := inL2 line { sliceLine with data := BitVec.ofNat 1024 data } s

def withDescs (s : State) : State :=
  withLine 32 (0x2000 + 0x2080 * 2 ^ 64) (withLine 64 (descData 0) (withLine 65 (descData 1)
    (kernel1 (fun n => { n with dirbase := 0x1000, dirlen := 2, entry := 0x2000 }) s)))

def asks (r : OvlReq) (s : State) : State := s.modCore 0 (fun c => { c with ovlreqs := [r] })

/-- What the store makes of a LOAD of the descriptor at a. -/
def loadOf (s : State) (a : Nat) : Nat :=
  match readDesc s 1 (s.kernel 1).dirbase (s.kernel 1).dirlen a with
  | .bad _ _ => 0
  | .away _ => 1
  | .ok d s1 =>
    match decideLoad s1 0 1 d with
    | .held _ _ => 2
    | .noroom _ _ => 3
    | .started _ _ => 4

/-- An address that is not aligned; an overlay that is held; no frame left; a load that starts. -/
theorem witness_OverlaySteps_loads :
    (∀ a ∈ [0x2001, 0x2000, 0x2080], let s := asks (.load 0 5 63 a) (withDescs (still (about)))
      (s.core s.cur.a).ovlreqs = .load 0 5 63 a :: [] ∧ s.asidOf 0 = 1 ∧ s.kernelOf 0 = s.kernel 1) ∧
    loadOf (withDescs (still (about))) 0x2001 = 0 ∧ loadOf (withDescs (still (about))) 0x2000 = 2 ∧
    loadOf (withDescs (still (about))) 0x2080 = 4 ∧ loadOf (ctx1 (fun c => { c with frameq := 1 }) (withDescs (still (about)))) 0x2080 = 3 := by
  decide +kernel

/-- The key of the slot that holds overlay 0. -/
def key0 : DWord := slotKey (still (about)) 0 0 1

/-- The group's own position is in another slot. -/
def elsewhere (s : State) : State := grp0 (fun g => { g with slot0 := { g.slot0 with islot := 5 } }) s

theorem witness_OverlaySteps_keys :
    (∀ n ∈ [0, 1], let k := if n = 0 then 0 else key0; let s := asks (.evict 0 5 false 63 k) (still (about)); (s.core s.cur.a).ovlreqs = .evict 0 5 false 63 k :: []) ∧
    (∀ n ∈ [0, 1], let k := if n = 0 then 0 else key0; let s := asks (.pin 0 5 false 63 k true) (still (about)); (s.core s.cur.a).ovlreqs = .pin 0 5 false 63 k true :: []) ∧
    keyValid (still (about)) 0 1 0 = false ∧ keyValid (still (about)) 0 1 key0 = true ∧ pinned (still (about)) 0 (keySlot key0) = true ∧
    (let s := elsewhere (still (about))
     keyValid s 0 (s.asidOf 0) key0 = true ∧ ((s.core 0).storeSlot (keySlot key0)).state ≠ .loading ∧ pinned s 0 (keySlot key0) = false) := by
  decide +kernel

/-- Slot 0 loads an image of 4 bytes, all zero, with a digest. -/
def loadSlot (tag : List Byte) (x : StoreSlot) : StoreSlot :=
  { x with state := .loading, code := 0x4000, asid := 1, bytes := 4, tag := tag, image := [], waiters := [(0, 5, 63, 1)] }

def reading (tag : List Byte) : State :=
  inL2 128 sliceLine ((still (about)).modCore 0 (fun c => { c.setStore 0 (loadSlot tag (c.storeSlot 0)) with imgReads := [0] }))

theorem reading_bytes (tag : List Byte) : ∃ s', peek (reading tag) 1 0x4000 4 = .ok (List.replicate 4 ⟨0, false⟩) s' ∧
    s'.cores = (reading tag).cores ∧ s'.groups = (reading tag).groups := by
  have h : ∀ s : State, s.l2 = (reading []).l2 → s.heldWrites = [] → (∀ l ∈ linesOf 0x4000 4, (l2Line s 1 l).isSome = true) ∧
      l2Bytes s 1 0x4000 4 = List.replicate 4 ⟨0, false⟩ := by
    intro s hs hw
    unfold l2Bytes heldAt l2Line
    rw [hs, hw]
    decide +kernel
  have hr := foldl_touchL2_rest 1 (linesOf 0x4000 4) (reading tag)
  refine ⟨_, by rw [peek_here _ _ _ _ (h (reading tag) rfl rfl).1, (h (reading tag) rfl rfl).2], ?_, ?_⟩
  · have h := congrArg State.cores hr; exact h
  · have h := congrArg State.groups hr; exact h

/-- An image whose digest is right, and one whose digest is not. -/
theorem witness_OverlaySteps_images (tag : List Byte) (h : tag = sha3_512 [0, 0, 0, 0] ∨ tag = []) :
    let s := reading tag
    let x := (s.core 0).storeSlot 0
    (s.core s.cur.a).imgReads = 0 :: [] ∧ x.doomed = false ∧ x.asid = 1 ∧ x.code = 0x4000 ∧ x.bytes = 4 ∧ x.tag = tag ∧
      x.waiters = [(0, 5, 63, 1)] ∧ (∃ s', peek s 1 0x4000 4 = .ok (List.replicate 4 ⟨0, false⟩) s' ∧ s'.cores = s.cores ∧ s'.groups = s.groups) ∧
      (tag = [] → sha3_512 [0, 0, 0, 0] ≠ tag) := by
  refine ⟨rfl, rfl, rfl, rfl, rfl, rfl, rfl, reading_bytes tag, ?_⟩
  rintro rfl
  decide +kernel

theorem witness_OverlaySteps_reload :
    let s := grp0 (fun g => { g with reloads := [⟨3, false, none, 0⟩] }) ((still (about)).modCore 0 (fun c => { c with roomWait := [(0, 3, false)] }))
    (s.core s.cur.a).roomWait ≠ [] ∧ (0, 3, false) ∈ (s.core s.cur.a).roomWait ∧ 0 ∈ groupsOn s s.cur.a ∧
      (⟨3, false, none, 0⟩ : Reload) ∈ (s.grp 0).reloads := by
  decide +kernel

/-! ## Images -/

theorem ensureLines_writable (s : State) (asid : Nat) (ls : List Nat) (h : ∀ l ∈ ls, ∃ x, l2Line s asid l = some x ∧ x.writable = true) :
    ensureLines s asid true ls = .ok () s := by
  induction ls with
  | nil => rfl
  | cons l ls ih =>
    obtain ⟨x, hx, hw⟩ := h l (by simp)
    simp only [ensureLines, ensureLine, hx, hw, Bool.not_true, Bool.and_false, Bool.false_eq_true, if_false]
    exact ih (fun m hm => h m (by simp [hm]))

/-- Two states that differ only in what the slices hold. -/
def OnlySlices (s t : State) : Prop := { t with l2 := s.l2, heldWrites := s.heldWrites } = s

theorem OnlySlices.trans {s t u : State} (h : OnlySlices s t) (g : OnlySlices t u) : OnlySlices s u := by
  unfold OnlySlices at *
  calc _ = { { u with l2 := t.l2, heldWrites := t.heldWrites } with l2 := s.l2, heldWrites := s.heldWrites } := rfl
    _ = s := by rw [g]; exact h

theorem OnlySlices.rest {s t : State} (h : OnlySlices s t) :
    t.groups = s.groups ∧ t.teams = s.teams ∧ t.kernels = s.kernels ∧ t.ctxs = s.ctxs := by
  unfold OnlySlices at h
  have h1 := congrArg State.groups h
  have h2 := congrArg State.teams h
  have h3 := congrArg State.kernels h
  have h4 := congrArg State.ctxs h
  exact ⟨h1, h2, h3, h4⟩

theorem mergeHeld_slices (s : State) (asid l : Nat) : OnlySlices s (mergeHeld s asid l) := by
  unfold mergeHeld
  split
  · rfl
  · dsimp only
    split <;> rfl

theorem l2Write_slices (s : State) (asid l : Nat) (bs : List (Nat × PByte)) : OnlySlices s (l2Write s asid l bs) := by
  unfold l2Write
  dsimp only
  split
  · exact mergeHeld_slices s asid l
  · exact (mergeHeld_slices s asid l).trans rfl

theorem touchL2_slices (s : State) (asid l : Nat) (sp : Bool) : OnlySlices s (touchL2 s asid l sp) := by
  unfold touchL2
  split <;> rfl

theorem foldl_l2Write_slices (asid : Nat) (f : Nat → List (Nat × PByte)) (ls : List Nat) (s : State) :
    OnlySlices s (ls.foldl (fun s l => l2Write (touchL2 s asid l false) asid l (f l)) s) := by
  induction ls generalizing s with
  | nil => rfl
  | cons l ls ih => exact ((touchL2_slices s asid l false).trans (l2Write_slices _ asid l (f l))).trans (ih _)

/-- A write to lines that are at their slices goes, and changes nothing but what the slices hold. -/
theorem poke_here (s : State) (asid n : Nat) (bs : List PByte) (hn : bs.length ≤ 128 * n)
    (h : ∀ l < n, ∃ x, l2Line s asid l = some x ∧ x.writable = true) : ∃ t, poke s asid 0 bs = .ok () t ∧ OnlySlices s t := by
  unfold poke pokeBytes
  generalize hb : ((List.range bs.length).zip bs).map (fun p => (0 + p.1, p.2)) = b
  have hl : ∀ l ∈ linesTouched b, l < n := by
    intro l hl
    simp only [linesTouched, List.mem_eraseDups, List.mem_map] at hl
    obtain ⟨p, hp, rfl⟩ := hl
    rw [← hb] at hp
    obtain ⟨q, hq, rfl⟩ := List.mem_map.mp hp
    have := List.mem_range.mp (List.of_mem_zip hq).1
    simp only [lineOf]
    omega
  simp only [ensureLines_writable s asid _ (fun l hm => h l (hl l hm))]
  exact ⟨_, rfl, foldl_l2Write_slices asid (fun l => bytesIn l b) (linesTouched b) s⟩

/-- Its header for one group and nothing else granted (R82): MAGIC, and N. -/
def imageLine (l : Nat) : L2Line := { sliceLine with data := if l = 0 then BitVec.ofNat 1024 (0x5A435449 + 2 ^ 96) else 0 }

/-- Team 0 in the state f gives it, its kernel of one group without registers, tiles or ways; its image's place is at the slices. -/
def imaged (f : Team → Team) (g : Group → Group) : State :=
  let s := grp0 g (team0 (fun x => f { x with tiles := [], ways := [] })
    (kernel1 (fun n => { n with groups := 1, tiles := 0, regs := 0, ways := 0, spec := false, csize := 1, teams := 1, coop := false }) (still (about))))
  { s with l2 := (List.range 192).map (fun l => (lineKey 1 l, imageLine l)) }

theorem imaged_lines (f : Team → Team) (g : Group → Group) : ∀ l < 192, ∃ x, l2Line (imaged f g) 1 l = some x ∧ x.writable = true := by
  have h : ∀ s : State, s.l2 = (List.range 192).map (fun l => (lineKey 1 l, imageLine l)) →
      ∀ l < 192, ∃ x, l2Line s 1 l = some x ∧ x.writable = true := by
    intro s hs
    unfold l2Line
    rw [hs]
    have : ∀ l < 192, ((((List.range 192).map (fun l => (lineKey 1 l, imageLine l))).find?
        (fun p => decide (p.1 = lineKey 1 l))).map (·.2)).any (·.writable) = true := by decide +kernel
    intro l hl
    have hx := this l hl
    rw [Option.any_eq_true] at hx
    exact hx
  exact h _ rfl

theorem leBytes_length (n v : Nat) : (leBytes n v).length = n := by
  induction n generalizing v with
  | zero => rfl
  | succ n ih => simp [leBytes, ih]

theorem cleanBytes_length (n v : Nat) : (cleanBytes n v).length = n := by simp [cleanBytes, leBytes_length]
theorem fitTo_length (n : Nat) (bs : List PByte) : (fitTo n bs).length = n := by simp [fitTo, zeros]
theorem zeros_length (n : Nat) : (zeros n).length = n := by simp [zeros]
theorem pelt_length (n v : Nat) (p : Bool) : (pelt n v p).length = n := by simp [pelt, leBytes_length]

theorem flatMap_length {α : Type} (l : List α) (f : α → List PByte) (n : Nat) (h : ∀ x, (f x).length = n) :
    (l.flatMap f).length = l.length * n := by
  induction l with
  | nil => simp
  | cons x l ih =>
    simp only [List.flatMap_cons, List.length_append, h, ih, List.length_cons]
    rw [Nat.add_mul, Nat.one_mul, Nat.add_comm]

theorem groupRecord_length (s : State) (k : Nat) : (groupRecord s k 0).length = 16384 := by
  have h1 : ∀ x : PcSlot, (slotBytes x).length = 16 := fun x => by simp [slotBytes, cleanBytes_length]
  have h2 : (replayBytes (s.grp k).replay).length = 32 := by
    unfold replayBytes
    split
    · exact zeros_length 32
    · exact fitTo_length 32 _
  have h3 : (windowBytes (s.grp k)).length = 4 * (96 * 8) := by
    rw [windowBytes, flatMap_length (n := 96 * 8)]
    · simp
    · intro q
      rw [flatMap_length (n := 8)]
      · simp [allLanes]
      · intro l
        split <;> simp [pelt_length, zeros_length]
  have h4 : (cursorsBytes (s.grp k)).length = 8 * (96 * 16) := by
    rw [cursorsBytes, flatMap_length (n := 96 * 16)]
    · simp
    · intro q
      rw [flatMap_length (n := 16)]
      · simp [allLanes]
      · intro l
        simp [cursorBytes, leBytes_length]
  simp only [groupRecord, groupHeader, List.length_append, fitTo_length, cleanBytes_length, zeros_length, h1, h2, h3, h4,
    flatMap_length _ _ 8 (fun r => pelt_length 8 _ _), flatMap_length _ _ 16 (fun p => pelt_length 16 _ _),
    flatMap_length _ _ 8 (fun r => cleanBytes_length 8 _), rstackBytes, predBytes]
  simp

theorem imageBytes_length (s : State) (t : Nat) (h1 : (s.team t).tiles = []) (h2 : (s.kernel (s.team t).kernel).spec = false)
    (h3 : (s.kernel (s.team t).kernel).ways = 0) (h4 : (s.kernel (s.team t).kernel).regs = 0) (h5 : (s.team t).groups = 1) :
    (imageBytes s t).length = 24576 := by
  have b : ∀ x : Barrier, (barBytes x).length = 16 := fun x => by simp [barBytes, cleanBytes_length]
  have e : (engineArea s t).length = 16 * 256 := by
    rw [engineArea, flatMap_length (n := 256)]
    · simp
    · intro i
      split <;> simp [fitTo_length, zeros_length]
  simp only [imageBytes, headerBytes, h1, h2, h3, h4, bankAreas, List.length_append, fitTo_length, zeros_length, e,
    flatMap_length _ _ 16 (fun i => b _), flatMap_length _ _ 16384 (fun k => groupRecord_length s k), scratchRead, teamGroups, h5]
  simp [byteAddrs]

/-- Team 0 is at rest, and its image is the one of one group without registers, tiles or ways at address 0. -/
def restB (s : State) : Bool :=
  let x := s.team 0
  let n := s.kernel x.kernel
  decide (liveGroups s 0 = [0]) && x.waitPage.isNone && decide ((s.grp 0).phase ≠ .stopping) && (withdrawOffers s 0).isNone &&
    (withdraw s 0).isNone && settled s 0 && (linesToClean s x.core x.asid).isEmpty && (s.grp 0).slot0.waitPhase.isNone && (s.grp 0).slot1.waitPhase.isNone && (s.grp 0).drecs.isEmpty && x.tiles.isEmpty &&
    !n.spec && decide (n.ways = 0) && decide (n.regs = 0) && decide (x.groups = 1) && decide (x.asid = 1) && decide (imageOf s 0 = 0)

theorem image_written (s : State) (hl : ∀ l < 192, ∃ x, l2Line s 1 l = some x ∧ x.writable = true) (h : restB s = true) :
    ∃ s2, ImageWritten s s s2 0 ∧ hasHandler s2 0 = hasHandler s 0 ∧ s2.ctxs = s.ctxs := by
  simp only [restB, Bool.and_eq_true, decide_eq_true_eq, Option.isNone_iff_eq_none, List.isEmpty_iff, Bool.not_eq_true'] at h
  obtain ⟨⟨⟨⟨⟨⟨⟨⟨⟨⟨⟨⟨⟨⟨⟨⟨live, wait⟩, stop⟩, offers⟩, draw⟩, rest⟩, clean⟩, w0⟩, w1⟩, recs⟩, tiles⟩, spec⟩, ways⟩, regs⟩, groups⟩, asid⟩, at0⟩ := h
  obtain ⟨t, ht, hs⟩ := poke_here s 1 192 (imageBytes s 0) (Nat.le_of_eq (imageBytes_length s 0 tiles spec ways regs groups)) hl
  obtain ⟨h1, h2, h3, h4⟩ := hs.rest
  refine ⟨t, ⟨s, ?_, rfl, ?_, ?_, wait, ?_, offers, ?_, ?_, clean, ?_, h1, h2, h3⟩, ?_, h4⟩
  · simp [live, flushTeam, flushRecs, recs]
  · simp [releaseWaiters, live, releaseWaiter, Group.slot, w0, w1]
  · simp [live]
  · simpa [live] using stop
  · simp [live, draw]
  · simpa [live] using rest
  · rw [at0, asid, ht]
  · simp only [hasHandler, primaryOf, State.grp, State.team, h1, h2]

def saveable (st : TState) (handler : Bool) : State :=
  imaged (fun x => { x with state := st, preempt := decide (st = .running) }) (fun g => { g with idempc := if handler then 2 ^ 44 else 0 })

/-- A team pre-empted in Running, one being saved, one that has halted with a handler and one without: its image is written. -/
theorem witness_TeamSteps_images (st : TState) (handler : Bool) (h : st = .running ∨ st = .saving ∨ st = .halting) :
    let s := saveable st handler
    (s.team s.cur.a).state = st ∧ (s.team s.cur.a).preempt = decide (st = .running) ∧
      ∃ s2, ImageWritten s s s2 0 ∧ hasHandler s2 0 = handler ∧ (s2.ctx (s.team 0).asid).state = .active := by
  obtain ⟨s2, h1, h2, h3⟩ := image_written (saveable st handler) (imaged_lines _ _) (by rcases h with rfl | rfl | rfl <;> cases handler <;> decide +kernel)
  refine ⟨rfl, rfl, s2, h1, h2.trans ?_, ?_⟩
  · rcases h with rfl | rfl | rfl <;> cases handler <;> decide +kernel
  · rw [State.ctx, h3]
    rcases h with rfl | rfl | rfl <;> cases handler <;> decide +kernel

def restoring : State := imaged (fun x => { x with state := .restoring }) id

theorem witness_TeamSteps_restore :
    let s := restoring
    let x := s.team 0
    let n := s.kernel x.kernel
    let r := cleanStep s x.core x.asid (linesOf (imageOf s 0) (imgSize n))
    x.state = .restoring ∧ x.waitPage = none ∧ r.2.1 = [] ∧ thenA (peek r.1 x.asid (imageOf r.1 0) (imgSize n)) (fun bs s2 =>
      headerOk n bs && decide (s2.groups = s.groups) && decide (s2.teams = s.teams) && decide (s2.kernels = s.kernels)) = true := by
  decide +kernel

theorem witness_TeamSteps_starts :
    (∀ st ∈ [TState.running, .halting], let s := team0 (fun x => { x with asked := true, state := st }) (still (about))
      (s.team s.cur.a).asked = true ∧ (s.team s.cur.a).state = st) ∧
    (let s := kernel1 (fun n => { n with csize := 1 }) (team0 (fun x => { x with state := .placed }) (still (about)))
     (s.team 0).state = .placed ∧ (membersOf s 0).length = (s.kernel (s.team 0).kernel).csize ∧
       ∀ m ∈ membersOf s 0, (s.team m).state = .placed ∧ (s.team m).kHalt = false) ∧
    (let s := grp0 (fun g => { g with phase := .exited }) (still (about))
     (s.team 0).state = .running ∧ liveGroups s 0 = [] ∧ (s.team 0).widerOut = []) ∧
    (let s := grp0 (fun g => { g with phase := .waiting }) (still (about)); 0 ∈ liveGroups s 0 ∧ (s.grp 0).phase = .waiting ∧ (s.grp 0).beside = none) ∧
    (∀ w ∈ [0, 1, 18], let s := { (still (about 5)).modCore 5 (fun c => { c with newSplit := some w, split := 1 }) with teams := [] }
      (s.core 5).newSplit = some w ∧ teamsOn s 5 = [] ∧ groupsOn s 5 = [] ∧ ∀ p ∈ allLines s 5, unclean s 5 p.1 p.2 = false) ∧
    (let s := { (still (about 5)).modCore 5 (fun c => { c with newSplit := some 18, split := 1, l1 := [(lineKey 1 0, { oneLine 0 with way := 2 })] }) with teams := [] }
     groupsOn s 5 = [] ∧ allLines s 5 ≠ [] ∧ ∀ p ∈ allLines s 5, unclean s 5 p.1 p.2 = false) := by
  decide +kernel

/-! Contexts -/

/-- A command of the host on context or queue 1 (R77, R88), the context in a state. -/
def told (v : DWord) (st : CState) : State := ctx1 (fun c => { c with state := st }) (still { noSubject with val := v, a := 1 })

def ctxMayB (s : State) (st : CState) : Bool :=
  decide (s.link = .up) && decide (s.power = 0) && s.regs.ready && !postedAhead s && !s.regs.ctxBusy && decide (cmdCtx s.cur.val ≠ 0) &&
    decide ((s.ctx (cmdCtx s.cur.val)).state = st)

theorem ctxMay_iff (s : State) (st : CState) : CtxMay s st ↔ ctxMayB s st = true := by
  simp [CtxMay, HostHere, ctxMayB, and_assoc]

theorem witness_ContextSteps_commands :
    (∀ st ∈ [CState.free, .created, .active, .suspending, .suspended, .faulted, .dying, .dead],
      ctxMayB (told 0x10000 st) st = true ∧ (told 0x10000 st).regs.ctxarg.toNat % 128 = 0 ∧ (told 0x10000 st).cur.flag = false) ∧
    ctxMayB (still { noSubject with val := 0xFFF0000 }) .free = true := by
  decide +kernel

/-- The binding table of a context just enabled, and of one that resumes. -/
theorem witness_ContextSteps_binds :
    ∀ st ∈ [CState.created, .suspended], ctxMayB (told 0x10000 st) st = true ∧
      thenA (readBinds (told 0x10000 st) 1 (List.range 1024)) (fun es _ => decide (es.length = 4096)) = true := by
  decide +kernel

/-- A context whose quotas QUOTA changed while it was Suspended. -/
theorem witness_ContextSteps_quotas :
    let s := ctx1 (fun c => { c with newQuota := some (3, 2, 1) }) (told 0x10000 .suspended)
    ctxMayB s .suspended = true ∧ s.cur.flag = false ∧
      thenA (readBinds s 1 (List.range 1024)) (fun _ t => decide ((t.ctx 1).newQuota = some (3, 2, 1))) = true := by
  decide +kernel

theorem witness_ContextSteps_ends :
    (let s := team0 (fun x => { x with state := .saved }) (told 0x10000 .suspending)
     (s.ctx s.cur.a).state = .suspending ∧ (s.ctx s.cur.a).gstore = [] ∧ (∀ u ∈ teamsOf s s.cur.a, onCore (s.team u) = false) ∧
       (farLines s s.cur.a (fun _ => true)).all (fun x => decide (x.2.dirty = 0)) = true ∧ farAway s s.cur.a (fun _ => true) = false) ∧
    (let s := { told 0x10000 .dying with teams := [], groups := [], kernels := [], cores := [] }
     (s.ctx s.cur.a).state = .dying ∧ (s.ctx s.cur.a).gstore = [] ∧ toEnd s s.cur.a = false ∧ toSweep s s.cur.a = false ∧ inFlight s s.cur.a = false) := by
  decide +kernel

/-! Queues and kernels -/

/-- Queue 4095 of context 1 in a state, subject of a command. -/
def queued (f : Queue → Queue) (st : QState) : State :=
  let s := still { noSubject with val := 2 ^ 32 + 0xFFF0, a := 4095 }
  s.setQueue 4095 (f { freeQueue with state := st, asid := 1, log2n := 4, ring := 0x1000, wraddr := 0x100, rdaddr := 0x108 })

def queueMayB (s : State) (st : QState) : Bool :=
  decide (s.link = .up) && decide (s.power = 0) && s.regs.ready && !postedAhead s && !s.regs.qBusy && decide ((s.queue (cmdQid s.cur.val)).state = st)

theorem queueMay_iff (s : State) (st : QState) : QueueMay s st ↔ queueMayB s st = true := by
  simp [QueueMay, HostHere, queueMayB, and_assoc]

/-- A queue's descriptor at address 0: ring at 0x1000, 16 entries, its WR at 0x100 and its RD at 0x108. -/
def queueDesc : Nat := 0x1000 + 4 * 2 ^ 64 + 0x100 * 2 ^ 128 + 0x108 * 2 ^ 192

theorem witness_QueueSteps_commands :
    (∀ st ∈ [QState.free, .disabled, .enabled, .halted], queueMayB (queued id st) st = true ∧ ((queued id st).queue 4095).head ≠ .dispatching) ∧
    (let s := withLine 0 queueDesc (inL2 2 sliceLine (queued id .free))
     queueMayB s .free = true ∧ s.cur.flag = false ∧ cmdAsid s.cur.val = 1 ∧ (s.ctx 1).state = .active ∧ s.regs.qarg.toNat % 64 = 0 ∧
       s.regs.qarg.toNat + 64 ≤ linearEnd ∧ thenA (peek s 1 s.regs.qarg.toNat 64) (fun bs s1 => queueDescOk (s1.ctx 1) bs &&
         thenA (peek s1 1 (field bs 0x18 8) 8) (fun _ _ => true)) = true) ∧
    (let s := { queued id .enabled with cur := { noSubject with val := 4095 } }
     (s.link = .up ∧ s.power = 0 ∧ s.regs.ready = true ∧ postedAhead s = false) ∧ s.cur.flag = false ∧ (s.queue (s.cur.val.toNat % 4096)).state = .enabled ∧
       (s.queue (s.cur.val.toNat % 4096)).devlaunch = false) := by
  decide +kernel

/-- WR = 1 at its place; a mapped queue whose head is a MARKER, and one whose head is of an unknown type. -/
def atHead (type : Nat) : State :=
  withLine 32 type ({ queued (fun q => { q with slot := some 63, wr := 1 }) .enabled with slots := [(63, 4095)] })

theorem witness_QueueSteps_doorbell :
    (let s := withLine 2 1 ({ queued (fun q => { q with bell := true }) .enabled with cur := { noSubject with a := 4095, flag := true } })
     let q := s.queue s.cur.a
     s.cur.flag = true ∧ q.bell = true ∧ q.state = .enabled ∧ pagePending s q.asid q.wraddr = false ∧
       thenA (peek s q.asid q.wraddr 8) (fun bs _ => !ppoison bs && decide (pvalue bs = 1)) = true) ∧
    (∀ type ∈ [2, 3], let s := atHead type
      let q := s.queue s.cur.a
      q.slot ≠ none ∧ q.taken = false ∧ q.bell = false ∧ q.head = .none ∧ q.state = .enabled ∧ wantsSlot s q = true ∧
        thenA (peek s q.asid (packetAddr q q.rd.toNat) 128) (fun bs s' => match checkPacket s' q s.cur.a bs with
          | .ok _ _ => decide (type = 2)
          | .bad _ _ => decide (type = 3)
          | .away _ => false) = true) := by
  decide +kernel

theorem witness_QueueSteps_slots :
    (let s := queued (fun q => { q with wr := 1 }) .enabled
     pickQueue s false (waitsForSlot s) = some 4095 ∧ freeSlot s = some 0) ∧
    (let s := ctx1 (fun c => { c with qslotq := 0 }) (queued (fun q => { q with slot := some 63 }) .enabled)
     let s := { s with slots := [(63, 4095)], cur := about 63 }
     s.slots.find? (fun p => decide (p.1 = s.cur.a)) = some (63, 4095) ∧ (s.queue 4095).taken = false ∧ quantumTakes s 4095 = true ∧
       wantsSlot s (s.queue 4095) = false) := by
  decide +kernel

def launch0 : LaunchReq := ⟨0, 9, false, 63, 4095, 0x4000, [], 0, 0⟩

/-- A launch into a ring of 16 entries that holds n packets. -/
def launching (n : Nat) : State :=
  let s := queued (fun q => { q with devlaunch := true, wr := BitVec.ofNat 64 n }) .enabled
  let s := grp0 (fun g => { g with sbusy := [⟨63, 9, false⟩] }) { s with launches := [launch0], cur := about 0 9 }
  inL2 2 sliceLine (inL2 32 sliceLine (inL2 47 sliceLine (inL2 128 sliceLine s)))

theorem witness_QueueSteps_launch :
    (∀ n ∈ [0, 15, 16], let s := launching n
      let q := s.queue 4095
      s.launches.find? (fun r => decide (r.op = s.cur.b)) = some launch0 ∧
        q.bell = false ∧ (s.grp 0).anyPending launch0.after = false ∧
        q.state = .enabled ∧ q.devlaunch = true ∧ q.asid = s.asidOf 0 ∧ launch0.addr % 128 = 0 ∧ launch0.addr + 128 ≤ linearEnd ∧
        (q.wr.toNat - q.rd.toNat = 2 ^ q.log2n ↔ n = 16) ∧ ∃ b ∈ (s.grp 0).sbusy, b.op = 9) ∧
    (∀ n ∈ [0, 15], let s := launching n
      let r := cleanStep s (s.coreOf 0) (s.asidOf 0) (linesOf launch0.addr 128)
      let q := s.queue 4095
      r.2.1 = [] ∧ r.1.queues = s.queues ∧ thenA (peek r.1 1 launch0.addr 128) (fun bs s2 =>
        thenA (poke s2 1 (packetAddr q q.wr.toNat) bs) (fun _ s3 =>
          thenA (poke s3 1 q.wraddr (cleanBytes 8 (q.wr.toNat + 1))) (fun _ s4 => (s4.grp 0).sbusy.any (fun b => decide (b.op = 9))))) = true) := by
  decide +kernel

/-- Kernel 2 of queue 4095 at its mapped slot, of 4 teams of one group in clusters of 2, over the overlay that cores 0 and 1 hold. -/
def kernel2 (f : Kernel → Kernel) (h : PState) : State :=
  let s := queued (fun q => { q with slot := some 63, head := h, kernel := 2 }) .enabled
  let s := { s with slots := [(63, 4095)], cur := about 2, cores := AMap.put s.cores 1 (s.core 0), teams := [], groups := [] }
  s.setKernel 2 (f { absentKernel with queue := 4095, asid := 1, groups := 1, regs := 32, csize := 2, teams := 4, packet := 0x1000,
                                       met0 := true, met1 := true, prio := 3 })

theorem witness_KernelSteps_begin :
    (let s := withLine 4 1 (kernel2 (fun n => { n with state := .waiting, met0 := false, dep0 := 0x200, dep0v := 1 }) .waiting)
     let n := s.kernel 2
     n.state = .waiting ∧ hasSlot s 2 = true ∧ ctxActive s n.asid = true ∧ n.met0 = false ∧ n.met1 = true ∧ (depMet s n.asid n.dep0 n.dep0v).1 = true) ∧
    (let s := inL2 2 sliceLine (kernel2 (fun n => { n with state := .waiting, marker := true }) .waiting)
     dispatchable s 2 = true ∧ coopAhead s 2 = false ∧ (s.kernel 2).marker = true ∧ (advanceRd s 4095).2 = true ∧
       (advanceRd s 4095).1.kernels = s.kernels) ∧
    (let s := kernel2 (fun n => { n with state := .waiting, csize := 1, ways := 19 }) .waiting
     dispatchable s 2 = true ∧ coopAhead s 2 = false ∧ (s.kernel 2).marker = false ∧ (s.kernel 2).coop = false ∧ s.power = 0 ∧
       (placeAll s (s.kernel 2) (membersNow s 2)).isNone = true) := by
  decide +kernel

/-- Kernel 2 places its first cluster on cores 0 and 1. -/
theorem witness_KernelSteps_place :
    let s := kernel2 (fun n => { n with state := .dispatching }) .dispatching
    let n := s.kernel 2
    mayPlace s 2 = true ∧ s.power = 0 ∧ (match placeAll s n (membersNow s 2) with
      | none => false
      | some p =>
        let cs := coresOf p (membersNow s 2)
        (askSplits s n cs).isNone && (match loadEntries s 2 cs with
          | .ready s' => decide (s'.kernel 2 = n) && (match placeAll s' n (membersNow s 2) with
            | none => false
            | some p' => decide (coresOf p' (membersNow s 2) = cs) && (nextCluster (placedMore n (clustersNow n) cs)).isSome)
          | _ => false)) = true := by
  decide +kernel

/-- Team 0 of kernel 1, of lower priority, is in the way. -/
theorem witness_KernelSteps_preempt :
    let s0 := kernel2 (fun n => { n with state := .dispatching, csize := 1, ways := 19 }) .dispatching
    let s := { s0 with teams := (still (about)).teams, groups := (still (about)).groups }
    slotPreempt s (s.kernel 2) = true ∧ mayPlace s 2 = true ∧ (placeAll s (s.kernel 2) (membersNow s 2)).isNone = true ∧
      victimTeam s (s.kernel 2).prio = some 0 ∧ (s.team 0).state = .running := by
  decide +kernel

/-- Kernel 2 completes in a context that runs. -/
def ending (d : Nat) (l : Option (List (Nat × Nat))) (told sys : Bool) : State :=
  inL2 2 sliceLine (inL2 32 sliceLine (kernel2 (fun n => { n with state := .completing, done := d, toClean := l, told := told, sys := sys }) .none))

def endingB (d : Nat) (l : Option (List (Nat × Nat))) (told sys : Bool) : Bool :=
  let s := ending d l told sys
  let n := s.kernel 2
  decide ((s.ctx n.asid).state ≠ .faulted) && decide (n.state = .completing) && decide (n.toClean = l) && decide (n.told = told) &&
    decide (n.sys = sys)

/-- STATUS is to be written. -/
def statusB (sys : Bool) : Bool := endingB 0 (some []) false sys && (schedWrite (ending 0 (some []) false sys) (schedWord 1 (0x1000 + 0x58) 4 1)).2

/-- STATUS is written, and DONE, if there is one, is to rise. -/
def doneB (d : Nat) (sys : Bool) : Bool :=
  let s := ending d (some []) true sys
  endingB d (some []) true sys && (farLines s 1 (fun _ => true)).all (fun x => decide (x.2.dirty = 0)) && !farAway s 1 (fun _ => true) &&
    (decide (d = 0) || (schedWrite s ⟨1, lineOf d, [], some (d % 128, sys), notMapped⟩).2)

theorem witness_KernelSteps_end :
    endingB 0 none false false = true ∧ statusB false = true ∧ statusB true = true ∧ doneB 0 false = true ∧ doneB 0 true = true ∧
    doneB 0x100 false = true ∧ doneB 0x100 true = true ∧
    (let s := ctx1 (fun c => { c with state := .faulted }) (inL2 32 sliceLine (kernel2 (fun n => { n with state := .running }) .none))
     let n := s.kernel 2
     (s.ctx n.asid).state = .faulted ∧ n.state = .running ∧ (schedWrite s (schedWord n.asid (n.packet + 0x58) 4 2)).2 = true) := by
  decide +kernel

/-! The fabric and its maps -/

def fabricB (s : State) (id : Nat) (P : Msg → Bool) : Bool :=
  match findMsg s.fabric id with
  | some m => P m
  | none => false

/-- The packet 0 of core 0 for slice 1, at router r. -/
def packet (r : Nat) (weep suspect late : Bool) : State :=
  flying { msg r (.req (.fetch 0 false)) with weep := weep, suspect := suspect, late := late } (still (about))

theorem witness_FabricSteps_packets :
    (∀ r ∈ [0, 2, 13, 95], let s := packet r false false false
      fabricB s s.cur.b (fun m => !m.weep && !m.suspect && !m.late && (meshHop m s.cur.flag).isSome) = true) ∧
    (∀ r ∈ [0, 95], let s := packet r true false false
      fabricB s s.cur.b (fun m => m.weep && (match weepHop m.router (destRouter m) with | some r => weepRoom s m r | none => false)) = true) ∧
    (let s := { packet 0 false true false with cur := about 0 0 1 }
     fabricB s s.cur.b (fun m => decide ((nextSuspect s m.router).map (·.id) = some m.id)) = true) ∧
    (let s := packet 1 false false true
     fabricB s s.cur.b (fun m => m.late && weepRoom s m m.router) = true) := by
  decide +kernel

/-- A keystone of epoch e that leaves router 95, whose next has last seen epoch 0. -/
def keyed (e : BitVec 16) : State := { still (about) with keystones := [⟨95, e, false⟩], kseen := [(nextRing 95, 0)] }

def keyedB (e : BitVec 16) (older : Bool) : Bool :=
  let s := keyed e
  (match s.keystones[s.cur.b]? with
   | some k => decide (k = ⟨95, e, false⟩)
   | none => false) && decide (olderEpoch e (seenAt s (nextRing 95)) = older)

/-- One of the last epoch seen or newer, one older, one that is held. -/
theorem witness_FabricSteps_keystones : keyedB 0 false = true ∧ keyedB 1 false = true ∧ keyedB 0x7FFF false = true ∧ keyedB 0xFFFF true = true ∧
    keyedB 0x8001 true = true ∧ State.reset.keystones = [⟨0, 0, true⟩] := by
  refine ⟨?_, ?_, ?_, ?_, ?_, rfl⟩ <;> decide +kernel

def moving (m : BucketMove) (s : State) : State := { s with moves := [m] }

/-- No bucket at slice 95. -/
def emptied (s : State) : State := { s with smap := (List.range 10).map (fun i => (95 + 96 * i, 0)) }

theorem witness_FabricSteps_maps :
    (∀ a ∈ [0, 1017, 2000, 3095], let s := moving ⟨1023, 63, 95, [1], false⟩ (still (about a 1023))
      moveNow s s.cur.b = some ⟨1023, 63, 95, [1], false⟩ ∧ s.cur.a ∈ mapHolders ∧ s.cur.a ∉ [1] ∧ (5 ∈ mapHolders ∧ 5 ≠ s.cur.a ∧ 5 ∉ [1])) ∧
    (let s := moving ⟨1, 1, 95, [], false⟩ (still (about 1)); moveNow s s.cur.a = some ⟨1, 1, 95, [], false⟩ ∧ 0 ∈ mapHolders) ∧
    (let s := waiting { msg 0 (.req (.fetch 0 false)) with slice := 5 } (still (about))
     fabricB { s with fabric := s.arrived } s.cur.b (fun m => !atPeer s m && decide (m.slice = 5)) = true ∧ moveNow s (bucketOf 1 0) = none ∧
       owner s (bucketOf 1 0) = 1) ∧
    (let s := moving ⟨1, 1, 95, [], true⟩ (waiting { msg 0 (.req (.fetch 0 false)) with slice := 1 } (still (about)))
     (findMsg s.arrived s.cur.b).isSome = true ∧ moveNow s (bucketOf 1 0) = some ⟨1, 1, 95, [], true⟩) ∧
    (let s := still (about)
     (s.link = .up ∧ s.power = 0 ∧ s.regs.ready = true) ∧ postedAhead s = false ∧ s.regs.smapBusy = false ∧ deadSlice s (smapSlice 95) = false ∧
       deadSlice s (smapSlice 96) = true ∧ smapBucket 0x3FF0000 + (0x3FF0000 : DWord).toNat / 2 ^ 32 % 1024 = 1023 ∧ s.retired.length < 95 ∧
       owner s 95 = 95) ∧
    (∀ b, b < 1024 → owner (emptied (still (about))) b ≠ 95) := by
  decide +kernel

/-! Ports -/

def hinged (st : HingeState) (x : Subject) : State := { still x with hinges := [(17, { downHinge with state := st, en := true })] }

def open1 (x : Subject) : State :=
  inL2 0 sliceLine { hinged .up x with hapwin := [(15, ⟨true, true, 0, 1⟩)], hwin := [(15, ⟨true, true, 0, 1⟩)] }

theorem witness_PortSteps_links :
    (∀ st ∈ [HingeState.down, .training, .up, .failed], ((hinged st (about 17)).hinge 17).state = st ∧ ((hinged st (about 17)).hinge 17).fails < 2) ∧
    (2 ≤ (({ still (about) with hinges := [(17, { downHinge with state := .training, fails := 2 })] } : State).hinge 17).fails) ∧
    (∀ r ∈ [(⟨1, 0, 17, 1, 0, 0, .write [(0, ⟨0, false⟩)], true, false, none⟩ : PeerReq), ⟨1, 0, 17, 1, 0, 0, .read, true, false, none⟩],
      let s := { hinged .up { about with data := List.replicate 128 0 } with peerReqs := [r] }
      s.peerReqs[s.cur.b]? = some r ∧ (s.hinge r.link).state = .up ∧ 128 ≤ s.cur.data.length ∧ l2Line s r.asid r.line = none ∧
        l2Full s r.asid r.line = false ∧ s.heldWrites = []) ∧
    (let s := hinged .down (about 17)
     s.link = .up ∧ s.power = 0 ∧ s.regs.ready = true ∧ postedAhead s = false) := by
  decide +kernel

/-- An access of a port that finds its window asks its home slices. -/
def goesAway {α : Type} (r : Access α) : Bool :=
  match r with
  | .away _ => true
  | _ => false

theorem witness_PortSteps_host :
    (∀ st ∈ [CState.active, .suspended],
     let s := ctx1 (fun c => { c with state := st }) (open1 { about 15 0 8 with data := [1, 2, 3] })
     let w := AMap.get noWin s.hapwin s.cur.a
     (s.link = .up ∧ s.power = 0 ∧ s.regs.ready = true ∧ postedAhead s = false) ∧ s.cur.flag = false ∧ s.ports = [] ∧ w.valid = true ∧
       w.write = true ∧ (s.ctx w.asid).state = st ∧ s.cur.a < 16 ∧ s.cur.b + s.cur.c ≤ hapBytes s ∧ s.cur.b + s.cur.data.length ≤ hapBytes s ∧
       w.vabase * 2 ^ 21 + s.cur.b + s.cur.c ≤ linearEnd ∧ w.vabase * 2 ^ 21 + s.cur.b + s.cur.data.length ≤ linearEnd ∧
       goesAway (unitPeek s.bump ⟨2000, s.nextId, 0, 0⟩ w.asid (w.vabase * 2 ^ 21 + s.cur.b) s.cur.c false) = true ∧
       goesAway (unitPoke s.bump ⟨2000, s.nextId, 0, 0⟩ w.asid (w.vabase * 2 ^ 21 + s.cur.b) (s.cur.data.map (fun b => ⟨b, false⟩))) = true) ∧
    (AMap.get noWin (open1 (about 14)).hapwin 14).valid = false ∧
    (let s := open1 (about 0 (hbmLimit - 8) 8); s.cur.b + s.cur.c ≤ hbmLimit ∧ s.frames = []) := by
  decide +kernel

theorem witness_PortSteps_peers :
    (∀ h ∈ [HingeRequest.read 3 7 15 0 8, .write 7 15 0 [1, 2]],
      let s := open1 { about 17 with hinge := h }
      let x := AMap.get noWin s.hwin 15
      (s.hinge s.cur.a).state = .up ∧ s.regs.ready = true ∧ s.power = 0 ∧ s.cur.flag = false ∧ s.ports = [] ∧ s.cur.hinge = h ∧ x.valid = true ∧
        x.write = true ∧ (s.ctx x.asid).state = .active ∧
        goesAway (unitPeek s.bump ⟨1017, s.nextId, 0, 0⟩ x.asid (x.vabase * 2 ^ 21) 8 false) = true ∧
        goesAway (unitPoke s.bump ⟨1017, s.nextId, 0, 0⟩ x.asid (x.vabase * 2 ^ 21) [⟨1, false⟩, ⟨2, false⟩]) = true) ∧
    (let s := { still { about with data := List.replicate 128 0 } with hostWait := [.ctxDesc false], ctxCmd := some (1, 4095) }
     s.link = .up ∧ s.cur.flag = false ∧ s.hostWait[s.cur.b]? = some (.ctxDesc false) ∧ 128 ≤ s.cur.data.length ∧
       (ctxOfDesc (s.cur.data.map (fun b => ⟨b, false⟩))).isSome = true) ∧
    (let s := { still { about with data := List.replicate 32 0 } with hostWait := [.ringDesc] }
     s.hostWait[s.cur.b]? = some .ringDesc ∧ 32 ≤ s.cur.data.length) := by
  decide +kernel

/-- An access at a port: a read, a write, an atomic, a write of a control register. -/
def atPort (link : Option Nat) : Nat → PortReq
  | 0 => { blankPort with id := 7, link := link, valid := true, canWrite := true, asid := 1, len := 8 }
  | 1 => { blankPort with id := 7, link := link, valid := true, canWrite := true, asid := 1, write := true, data := [1, 2] }
  | 2 => { blankPort with id := 7, link := link, valid := true, canWrite := true, asid := 1, atomic := some (10, 8, 1, 0) }
  | _ => { blankPort with id := 7, link := link, ctl := some (.faqpop, noSubject), write := true }

def portAt (link : Option Nat) (i : Nat) : State :=
  ready (if link = none then .hostWindowRead else .hingeInboundRequest) 2 { open1 (about 17 0 0 true) with ports := [atPort link i] }

/-- The lines of the access have answered. -/
def portB (link : Option Nat) (i : Nat) : Bool :=
  let s := portAt link i
  let r := atPort link i
  decide (s.link = .up) && s.cur.flag && decide (s.cur.a = 17) && decide (s.ports = [r]) && decide (r.link = link) && decide (r.win = none) &&
    match i with
    | 0 => !r.phys && portOpen s r && thenA (unitPeek s (portAsker r) 1 0 8 false) (fun _ s' => decide (s'.link = s.link))
    | 1 => !r.phys && portOpen s r && wentOk (unitPoke s (portAsker r) 1 0 (r.data.map (fun b => ⟨b, false⟩)))
    | 2 => !r.phys && portOpen s r && thenA (unitWord s (portAsker r) 1 0 (.atomic 10 8 0 1 0 0)) (fun _ s' => decide (s'.link = s.link))
    | _ => r.ctl.isSome

theorem witness_PortSteps_retries : ∀ i < 4, portB none i = true ∧ portB (some 17) i = true := by
  decide +kernel

/-! Pages and the device -/

/-- Page 1 of context 1 has faulted for the group's request of line 512. -/
def faultedPage (x : Subject) : State :=
  { grp0 (fun g => { g with fetches := [⟨0, 512, .fetch 0 false, some 9, false, some notMapped, []⟩] }) (mapped (still x)) with
    faults := [⟨0, 1, 0x10000, notMapped⟩], faq := [⟨true, 1, 2, 3⟩] }

theorem witness_PageSteps :
    (let s := faultedPage { about with val := 0x10001 }
     (s.link = .up ∧ s.power = 0 ∧ s.regs.ready = true ∧ postedAhead s = false) ∧ s.cur.flag = false ∧ s.regs.tlbBusy = false ∧ s.regs.bplBusy = false ∧
       tlbAsid s.cur.val = 1 ∧ tlbPage s.cur.val = 0x10000 ∧ (∃ f ∈ s.faults, f.asid = 1 ∧ f.page = 0x10000) ∧
       s.cur.val.getLsbD 12 = false ∧ s.faq = ⟨true, 1, 2, 3⟩ :: [] ∧ s.nv.badPages.length < 4096) ∧
    ((0x1001 : DWord).getLsbD 12 = true) ∧ (still (about)).faq = [] ∧ (5859374 < framesAll ∧ framesAll ≤ 5859375) ∧
    (let s := { still { about with val := 2 ^ 48 } with nv := { State.reset.nv with badPages := [7, 5859374] } }
     s.nv.badPages[s.cur.val.toNat / 2 ^ 48 % 4096]? = some 5859374 ∧ 5859374 ∈ s.nv.badPages) := by
  decide +kernel

/-- An invalidation of context 1 in progress, with nothing of it in flight; with a later read of it in flight too. -/
theorem witness_PageSteps_invalidation :
    ∀ r ∈ [[], [(⟨8, 1, 0, 0, true, false, none, none⟩ : HbmReq)]],
      let s := { still (about 0 0 0 true) with tlbInv := some (withSize 2 1, 8), hbmReqs := r }
      s.cur.flag = true ∧ s.tlbInv = some (withSize 2 1, 8) ∧ translatedInFlight s (tlbNamed { s with tlb := [] } (withSize 2 1)) 8 = false := by
  decide +kernel

/-- A row group swept whole after its last visit. -/
theorem witness_PageSteps_refresh :
    let s := { still (about 255 0) with rows := [(rowKey 255 0, ⟨5, 64, 4⟩)] }
    let g := AMap.get idleRows s.rows (rowKey s.cur.a s.cur.b)
    s.regs.askip = true ∧ g.sweep = 64 ∧ g.visit < g.stamp ∧ s.regs.refSkips ≠ BitVec.allOnes 32 := by
  decide +kernel

theorem witness_DeviceSteps_errors :
    (∀ c ∈ [0, 1], let s := still { about 0 0 c with place := .laneReg 0 255 95 }
      s.cur.place = .laneReg 0 255 95 ∧ s.link ≠ .contained ∧ s.cur.c = c ∧ s.records = [] ∧ (s.team (s.grp 0).team).state ≠ .handler) ∧
    (∀ c ∈ [2, 3], let s := { still (about 0 0 c) with selftests := [(1, 191, 5, true)] }
      s.selftests[s.cur.b]? = some (1, 191, 5, true) ∧
        outcomeOk 1 s.cur.c ((s.nv.spares.filter (fun p => decide (p.1 = arrayOf 1 191))).length) = true) := by
  decide +kernel

theorem witness_DeviceSteps_links :
    State.reset.link = .training ∧ (still (about)).link = .up ∧ ({ still (about) with link := .contained } : State).link = .contained ∧
      ((still (about)).grp 0).phase = .running := by
  decide +kernel

/-- Bring-up waits on both outcomes of the boot: which of the two an image has is free (log 25), and one of them it has. -/
theorem witness_DeviceSteps_bringUp :
    (∀ flag ∈ [false, true], let s := { State.reset with cur := about 0 0 0 flag }
      s.regs.ready = false ∧ s.regs.booterr = 0 ∧ s.link = .training ∧ s.cur.c ≠ 1 ∧ s.cur.flag = flag) ∧
    ((∃ b, bootSlot State.reset.nv false = .ok b) ∨ ∃ e, bootSlot State.reset.nv false = .error e) := by
  refine ⟨by decide +kernel, ?_⟩
  cases bootSlot State.reset.nv false with
  | ok b => exact .inl ⟨b, rfl⟩
  | error e => exact .inr ⟨e, rfl⟩

theorem witness_DeviceSteps_power :
    (let s := { still (about) with teams := [], regs := { (still (about)).regs with tol := 0xFFFF } }
     s.power < deepest s ∧ s.powerExit = false ∧ s.regs.ready = true) ∧
    (∀ n ∈ [1, 2, 3], ({ still (about) with power := n } : State).power ≠ 0 ∧ ({ still (about) with power := n } : State).powerExit = false) ∧
    (∀ n ∈ [2, 3], ({ still (about) with power := n, powerExit := true } : State).powerExit = true ∧
      ({ still (about) with power := n, powerExit := true } : State).power = n) := by
  decide +kernel

def recorded (head : Word) : State :=
  { still (about) with records := [blankRec], regs := { (still (about)).regs with errLog2 := 4, errHead := head } }

theorem witness_DeviceSteps_records :
    (∀ h ∈ [0, 15, 16], let s := recorded (BitVec.ofNat 32 h)
      s.records = blankRec :: [] ∧ s.link = .up ∧ s.power = 0 ∧ blankRec.asid = 0 ∧ deviceLog s = some 4 ∧ s.regs.errTgt = false ∧
        ((s.regs.errHead - s.regs.errTail).toNat < 2 ^ 4 ↔ h < 16)) ∧
    (let s := { still (about) with nv := { State.reset.nv with adding := some 7 } }; s.cur.flag = false ∧ s.nv.adding = some 7) ∧
    (let s := { still (about 0 0 0 true) with nv := { State.reset.nv with staging := some [1] } }; s.cur.flag = true ∧ s.nv.staging = some [1]) ∧
    (let s := still (about)
     s.cur.flag = false ∧ AMap.wf 0 s.nv.unflushed = true ∧ AMap.get 0 s.nv.life 27 < 2 ^ 64 ∧ s.cur.val.toNat % 512 = 0 ∧ s.regs.idBusy = false ∧
       s.regs.idarg.toNat % 128 = 0 ∧ s.link = .up ∧ s.power = 0 ∧ s.regs.ready = true ∧ postedAhead s = false) ∧
    (let s := { still (about 0 0 0 true) with regs := { (still (about)).regs with lifeCopies := [512, 0] } }
     s.cur.flag = true ∧ s.regs.lifeCopies = 512 :: [0]) ∧
    (∀ r ∈ [CtlReg.lifestat, .hlstat 17, .ctxstat], let s := still { about 0 0 0 true with reg := r }
      s.cur.flag = true ∧ (clearsOnRead s.cur.reg = true ↔ r = .hlstat 17)) ∧
    ((1 : Word) ≠ 0 ∧ (1 : Word).toNat < 2 ^ 31 ∧ 2 ^ 31 ≤ (0xFFFFFFFF : Word).toNat) := by
  decide +kernel

/-- Every register that a write sets. -/
theorem witness_DeviceSteps_registers :
    ∀ r ∈ [CtlReg.ctxarg, .qarg, .idarg, .wdogcfg, .fabcfg, .hlid, .refcfg, .ctxstat, .schedcfg, .hapwin 0, .hapwin 15],
      (still { about with reg := r }).cur.reg = r := by
  decide +kernel

/-! Encodings and steps -/

def reads {ε : Type} (r : Except ε Instr) (i : Instr) : Bool :=
  match r with
  | .ok j => decide (j = i)
  | .error _ => false

theorem reads_iff {ε : Type} {r : Except ε Instr} {i : Instr} : r = .ok i ↔ reads r i = true := by
  cases r <;> simp [reads]

def fma0 : Instr := .vfma { plainFields 12 3 7 40 with pg := 1, rm := 1 }

theorem witness_EncodingRoundTrip : WellFormed (.add 5 6 7) ∧ encode (.add 5 6 7) ≠ [] ∧
    WellFormed fma0 ∧ encode fma0 ≠ [] := by
  unfold WellFormed
  decide +kernel

theorem witness_WordsHaveOneMeaning : decodeScalar 0x04518700 = .ok (.add 5 6 7) ∧
    decodeLane 0x1001803038A0800100000000 = .ok fma0 := by
  simp only [reads_iff]
  decide +kernel

def goesOn (o : Host.Outcome State Fault Refusal) (P : State → Bool) : Bool :=
  match o with
  | .next t => P t
  | _ => false

/-- An ADD, and a lane word, that the next step fetches. -/
def placed (lane : Bool) : State :=
  if lane then State.reset.withFetchWord 96 0x1001803038A0800100000000 else State.reset.withFetchWord 32 0x04518700

theorem witness_StepRunsTheWord :
    (let s := placed false
     s.powered = true ∧ s.agenda = [] ∧ s.steps % 2 = 0 ∧ notOffering (s.grp 0) false = false ∧ headCounterFull s 0 false = false ∧
       (unplacedBlock (s.grp 0)).isNone = true ∧ (s.grp 0).slot0.entered = true ∧ (sideWait s 0 false).isNone = true ∧
       decodeBytes (storeBytes s (s.coreOf 0) (s.grp 0).slot0.islot (4 * (s.grp 0).slot0.pc) 4) = .ok (.add 5 6 7) ∧
       (match turns s with
        | [] => false
        | p :: _ => (match partAttempts s p with
          | [] => false
          | a :: _ => goesOn (runAttempt s a) (fun t => !t.cur.held))) = true) ∧
    (let s := placed true
     (unplacedBlock (s.grp 0)).isNone = true ∧ (s.grp 0).laneStall = none ∧ (match headBlock s 0 with
      | none => false
      | some b => reads (decodeBytes (storeBytes s (s.coreOf 0) b.islot
          (((s.core (s.coreOf 0)).storeSlot b.islot).laneoff + 12 * (b.off + b.next)) 12)) fma0) = true) := by
  simp only [reads_iff]
  decide +kernel

theorem witness_PoweredStepsGoOn :
    (placed false).powered = true ∧ ({ State.reset with powered := false } : State).agenda = [] ∧
      ({ State.reset with powered := false, agenda := [(.perstDeassert, noSubject)] } : State).agenda = (.perstDeassert, noSubject) :: [] := by
  decide +kernel

theorem placed_canonical (lane : Bool) : Canonical (placed lane) := by
  unfold Canonical
  cases lane <;> decide +kernel

theorem placed_names (lane : Bool) : NamesAreOld (placed lane) := by
  unfold NamesAreOld
  cases lane <;> decide +kernel

/-- A step from a state that meets both invariants. -/
theorem witness_StepKeepsMemoryForm_StepKeepsNames (lane : Bool) :
    Canonical (placed lane) ∧ NamesAreOld (placed lane) ∧ goesOn (step (placed lane)) (fun _ => true) = true :=
  ⟨placed_canonical lane, placed_names lane, by cases lane <;> decide +kernel⟩

/-! ## Words written out from the spec's encodings (R207, R212, R218, R225–R230) -/

/-- The decoder reads each word of the list as the instruction beside it. -/
def decodesTo (n : Nat) (l : List (Nat × Instr)) : Bool := l.all (fun p => decide (decodeTableWord n p.1 = some p.2))

theorem test_decode_scalar_0 : decodesTo 32
    [(0x04314700, .add 3 5 7),
     (0x04314701, .sub 3 5 7),
     (0x04314702, .and 3 5 7),
     (0x04314703, .or 3 5 7),
     (0x04314704, .xor 3 5 7),
     (0x04314705, .andn 3 5 7),
     (0x04314706, .sll 3 5 7),
     (0x04314707, .srl 3 5 7),
     (0x04314708, .sra 3 5 7),
     (0x04314709, .mul 3 5 7),
     (0x0431470A, .mulh 3 5 7),
     (0x0431470B, .mulhu 3 5 7),
     (0x0431470C, .div 3 5 7),
     (0x0431470D, .divu 3 5 7),
     (0x0431470E, .rem 3 5 7)] = true := by decide

theorem test_decode_scalar_1 : decodesTo 32
    [(0x0431470F, .remu 3 5 7),
     (0x04314710, .min 3 5 7),
     (0x04314711, .max 3 5 7),
     (0x04314712, .minu 3 5 7),
     (0x04314713, .maxu 3 5 7),
     (0x04314014, .clz 3 5),
     (0x04314015, .popc 3 5),
     (0x04314716, .addw 3 5 7),
     (0x04314717, .subw 3 5 7),
     (0x08314700, .seq 3 5 7),
     (0x08314701, .sne 3 5 7),
     (0x08314702, .slt 3 5 7),
     (0x08314703, .sltu 3 5 7),
     (0x08314704, .sle 3 5 7),
     (0x08314705, .sleu 3 5 7)] = true := by decide

theorem test_decode_scalar_2 : decodesTo 32
    [(0x08314708, .cmovNz 3 5 7),
     (0x08314709, .cmovZ 3 5 7),
     (0x0C014001, .trap 5),
     (0x0C014002, .rett 5),
     (0x0C014703, .callo 5 7),
     (0x0C314705, .launch 3 5 7),
     (0x10314035, .addi 3 5 53),
     (0x14314035, .andi 3 5 53),
     (0x18314035, .ori 3 5 53),
     (0x1C314035, .xori 3 5 53),
     (0x20314035, .slli 3 5 53),
     (0x24314035, .srli 3 5 53),
     (0x28314035, .srai 3 5 53),
     (0x2C314035, .slti 3 5 53),
     (0x30314035, .sltiu 3 5 53)] = true := by decide

theorem test_decode_scalar_3 : decodesTo 32
    [(0x34314035, .muli 3 5 53),
     (0x38300035, .li 3 53),
     (0x3C300035, .lui 3 53),
     (0x4105002B, .brCond 4 5 43),
     (0x4402002B, .brd 2 43),
     (0x4800002B, .call 43),
     (0x4C00002B, .join 43),
     (0x5040002B, .lx 4 43),
     (0x54002345, .sigchk 9029),
     (0x58314000, .ovlLd 3 5),
     (0x58314001, .ovlEv 3 5),
     (0x58314002, .ovlPin 3 5),
     (0x58314003, .ovlUnpin 3 5),
     (0x5C300002, .srd 3 2),
     (0x60014012, .swr 5 18)] = true := by decide

theorem test_decode_scalar_4 : decodesTo 32
    [(0x803142B2, .ldb 3 5 43 1),
     (0x803142B6, .ldh 3 5 43 1),
     (0x803142BA, .ldw 3 5 43 1),
     (0x803142BE, .ldd 3 5 43 1),
     (0x803142B1, .ldbs 3 5 43),
     (0x803142B5, .ldhs 3 5 43),
     (0x803142B9, .ldws 3 5 43),
     (0x843142B2, .stb 3 5 43 1),
     (0x843142B6, .sth 3 5 43 1),
     (0x843142BA, .stw 3 5 43 1),
     (0x843142BE, .std 3 5 43 1),
     (0x88314700, .atomAddW 3 5 7),
     (0x88314701, .atomXchgW 3 5 7),
     (0x88314702, .atomCasW 3 5 7),
     (0x88314703, .atomAndW 3 5 7)] = true := by decide

theorem test_decode_scalar_5 : decodesTo 32
    [(0x88314704, .atomOrW 3 5 7),
     (0x88314705, .atomXorW 3 5 7),
     (0x88314706, .atomMinW 3 5 7),
     (0x88314707, .atomMaxW 3 5 7),
     (0x88314708, .atomMinuW 3 5 7),
     (0x88314709, .atomMaxuW 3 5 7),
     (0x8831470A, .atomFaddW 3 5 7),
     (0x88314710, .atomAddD 3 5 7),
     (0x88314711, .atomXchgD 3 5 7),
     (0x88314712, .atomCasD 3 5 7),
     (0x88314713, .atomAndD 3 5 7),
     (0x88314714, .atomOrD 3 5 7),
     (0x88314715, .atomXorD 3 5 7),
     (0x88314716, .atomMinD 3 5 7),
     (0x88314717, .atomMaxD 3 5 7)] = true := by decide

theorem test_decode_scalar_6 : decodesTo 32
    [(0x88314718, .atomMinuD 3 5 7),
     (0x88314719, .atomMaxuD 3 5 7),
     (0x8C314000, .acqTeam 3 5),
     (0x8C314001, .acqCluster 3 5),
     (0x8C314002, .acqDevice 3 5),
     (0x8C314003, .acqSystem 3 5),
     (0x8C014704, .relTeam 5 7),
     (0x8C014705, .relCluster 5 7),
     (0x8C014706, .relDevice 5 7),
     (0x8C014707, .relSystem 5 7),
     (0x8C314708, .bind 3 5 7),
     (0x8C014009, .unbind 5),
     (0x8C41400B, .waitr 4 5),
     (0x90014700, .cleanL1 5 7),
     (0x90014701, .cleanL2 5 7)] = true := by decide

theorem test_decode_scalar_7 : decodesTo 32
    [(0x90014702, .invL1 5 7),
     (0x90014703, .invL2 5 7),
     (0x90014704, .clinvL1 5 7),
     (0x90014705, .clinvL2 5 7),
     (0x94123456, .wait 1 2 3 4 5 6),
     (0x98014200, .barInitTeam 5 2),
     (0x98014201, .barInitCluster 5 2),
     (0x98014202, .barInitGrid 5 2),
     (0x98300204, .barArr 3 2),
     (0x98014205, .barWait 5 2),
     (0x98000206, .barSync 2),
     (0x9C3142B1, .rldb 3 5 43 1),
     (0x9C3142B5, .rldh 3 5 43 1),
     (0x9C3142B9, .rldw 3 5 43 1),
     (0x9C3142BC, .rldd 3 5 43)] = true := by decide

theorem test_decode_scalar_8 : decodesTo 32
    [(0xA03142B0, .rstb 3 5 43),
     (0xA03142B4, .rsth 3 5 43),
     (0xA03142B8, .rstw 3 5 43),
     (0xA03142BC, .rstd 3 5 43),
     (0x0C000000, .exit),
     (0x0C000004, .ret),
     (0x0C000006, .idemBegin),
     (0x0C000007, .idemEnd),
     (0x8C00000A, .fence)] = true := by decide

theorem test_decode_lane_0 : decodesTo 96
    [(0x00481050F802C01400000000, .vadd ⟨64, 261, 31, 0, 5, true, 1, false, true, 0, 0⟩),
     (0x00881050F802C01400000000, .vsub ⟨64, 261, 31, 0, 5, true, 1, false, true, 0, 0⟩),
     (0x00C81050F802C01400000000, .vmul ⟨64, 261, 31, 0, 5, true, 1, false, true, 0, 0⟩),
     (0x01081050F802C01000000000, .vmulh ⟨64, 261, 31, 0, 5, true, 1, false, false, 0, 0⟩),
     (0x01481050F826C01400000000, .vmad ⟨64, 261, 31, 9, 5, true, 1, false, true, 0, 0⟩),
     (0x01881050F826C00400000000, .vdot2 ⟨64, 261, 31, 9, 5, true, 0, false, true, 0, 0⟩),
     (0x01C81050F802C01000000000, .vmin ⟨64, 261, 31, 0, 5, true, 1, false, false, 0, 0⟩),
     (0x02081050F802C01000000000, .vmax ⟨64, 261, 31, 0, 5, true, 1, false, false, 0, 0⟩),
     (0x024810500002C00400000000, .vabs ⟨64, 261, 0, 0, 5, true, 0, false, true, 0, 0⟩),
     (0x02881050F802C01000000000, .vshrr ⟨64, 261, 31, 0, 5, true, 1, false, false, 0, 0⟩),
     (0x02C81050F802C00000000000, .vshl ⟨64, 261, 31, 0, 5, true, 0, false, false, 0, 0⟩),
     (0x03081050F802C00000000000, .vshr ⟨64, 261, 31, 0, 5, true, 0, false, false, 0, 0⟩)] = true := by decide

theorem test_decode_lane_1 : decodesTo 96
    [(0x03481050F802C00000000000, .vsar ⟨64, 261, 31, 0, 5, true, 0, false, false, 0, 0⟩),
     (0x04081050F802C00000000000, .vand ⟨64, 261, 31, 0, 5, true, 0, false, false, 0, 0⟩),
     (0x04481050F802C00000000000, .vor ⟨64, 261, 31, 0, 5, true, 0, false, false, 0, 0⟩),
     (0x04881050F802C00000000000, .vxor ⟨64, 261, 31, 0, 5, true, 0, false, false, 0, 0⟩),
     (0x04C81050F802C00000000000, .vandn ⟨64, 261, 31, 0, 5, true, 0, false, false, 0, 0⟩),
     (0x050810500002C00000000000, .vnot ⟨64, 261, 0, 0, 5, true, 0, false, false, 0, 0⟩),
     (0x054810500002C00000000000, .vpopc ⟨64, 261, 0, 0, 5, true, 0, false, false, 0, 0⟩),
     (0x058810500002C00000000000, .vclz ⟨64, 261, 0, 0, 5, true, 0, false, false, 0, 0⟩),
     (0x05C81050F802C01000000000, .vbfx ⟨64, 261, 31, 0, 5, true, 1, false, false, 0, 0⟩),
     (0x0800D050F802C00000000000, .vcmpEq ⟨6, 261, 31, 0, 5, true, 0, false, false, 0, 0⟩),
     (0x0840D050F802C00000000000, .vcmpNe ⟨6, 261, 31, 0, 5, true, 0, false, false, 0, 0⟩),
     (0x0880D050F802C00000000000, .vcmpLt ⟨6, 261, 31, 0, 5, true, 0, false, false, 0, 0⟩)] = true := by decide

theorem test_decode_lane_2 : decodesTo 96
    [(0x08C0D050F802C00000000000, .vcmpLe ⟨6, 261, 31, 0, 5, true, 0, false, false, 0, 0⟩),
     (0x0900D050F802C00000000000, .vcmpLtu ⟨6, 261, 31, 0, 5, true, 0, false, false, 0, 0⟩),
     (0x0940D050F802C00000000000, .vcmpLeu ⟨6, 261, 31, 0, 5, true, 0, false, false, 0, 0⟩),
     (0x09881050F816C00000000000, .vsel ⟨64, 261, 31, 5, 5, true, 0, false, false, 0, 0⟩),
     (0x09C0C0302802C00000000000, .pand ⟨6, 3, 5, 0, 5, true, 0, false, false, 0, 0⟩),
     (0x0A00C0302802C00000000000, .por ⟨6, 3, 5, 0, 5, true, 0, false, false, 0, 0⟩),
     (0x0A40C0302802C00000000000, .pxor ⟨6, 3, 5, 0, 5, true, 0, false, false, 0, 0⟩),
     (0x0A80C0300002C00000000000, .pnot ⟨6, 3, 0, 0, 5, true, 0, false, false, 0, 0⟩),
     (0x0AC0D050F802C00000000000, .vfcmpEq ⟨6, 261, 31, 0, 5, true, 0, false, false, 0, 0⟩),
     (0x0B00D050F802C00000000000, .vfcmpLt ⟨6, 261, 31, 0, 5, true, 0, false, false, 0, 0⟩),
     (0x0B40D050F802C00000000000, .vfcmpLe ⟨6, 261, 31, 0, 5, true, 0, false, false, 0, 0⟩),
     (0x0B80D050F802C00000000000, .vfcmpUn ⟨6, 261, 31, 0, 5, true, 0, false, false, 0, 0⟩)] = true := by decide

theorem test_decode_lane_3 : decodesTo 96
    [(0x0C0810500002C00000000000, .vmov ⟨64, 261, 0, 0, 5, true, 0, false, false, 0, 0⟩),
     (0x0C4810500002C0000000002A, .vperm ⟨64, 261, 0, 0, 5, true, 0, false, false, 0, 42⟩),
     (0x0C881050F802C030FFFFFFFB, .vslide ⟨64, 261, 31, 0, 5, true, 3, false, false, 0, 4294967291⟩),
     (0x0E0800000002C00000000000, .vid ⟨64, 0, 0, 0, 5, true, 0, false, false, 0, 0⟩),
     (0x0E4801500002C00000000000, .vbcast ⟨64, 21, 0, 0, 5, true, 0, false, false, 0, 0⟩),
     (0x0E4800000002C00889ABCDEF, .vbcastImm ⟨64, 0, 0, 0, 5, true, 0, true, false, 0, 2309737967⟩),
     (0x0E881050F802C00000000000, .vrdi ⟨64, 261, 31, 0, 5, true, 0, false, false, 0, 0⟩),
     (0x0EE0A400F802C00000000000, .vwri ⟨261, 64, 31, 0, 5, true, 0, false, false, 0, 0⟩),
     (0x0F02B0500002C09000000000, .vredi ⟨21, 261, 0, 0, 5, true, 9, false, false, 0, 0⟩),
     (0x10081050F826C02100000000, .vfma ⟨64, 261, 31, 9, 5, true, 2, false, false, 1, 0⟩),
     (0x10481050F826C02100000000, .vfms ⟨64, 261, 31, 9, 5, true, 2, false, false, 1, 0⟩),
     (0x10881050F802C01300000000, .vfadd ⟨64, 261, 31, 0, 5, true, 1, false, false, 3, 0⟩)] = true := by decide

theorem test_decode_lane_4 : decodesTo 96
    [(0x10C81050F802C01300000000, .vfsub ⟨64, 261, 31, 0, 5, true, 1, false, false, 3, 0⟩),
     (0x11081050F802C01300000000, .vfmul ⟨64, 261, 31, 0, 5, true, 1, false, false, 3, 0⟩),
     (0x11481050F802C02000000000, .vfmin ⟨64, 261, 31, 0, 5, true, 2, false, false, 0, 0⟩),
     (0x11881050F802C02000000000, .vfmax ⟨64, 261, 31, 0, 5, true, 2, false, false, 0, 0⟩),
     (0x11C810500002C02000000000, .vfabs ⟨64, 261, 0, 0, 5, true, 2, false, false, 0, 0⟩),
     (0x120810500002C02000000000, .vfneg ⟨64, 261, 0, 0, 5, true, 2, false, false, 0, 0⟩),
     (0x14081050F802C01300000000, .vfdiv ⟨64, 261, 31, 0, 5, true, 1, false, false, 3, 0⟩),
     (0x144810500002C01200000000, .vfsqrt ⟨64, 261, 0, 0, 5, true, 1, false, false, 2, 0⟩),
     (0x148810500002C01200000000, .vfrcp ⟨64, 261, 0, 0, 5, true, 1, false, false, 2, 0⟩),
     (0x14C810500002C01200000000, .vfrsq ⟨64, 261, 0, 0, 5, true, 1, false, false, 2, 0⟩),
     (0x150810500002C01200000000, .vfexp2 ⟨64, 261, 0, 0, 5, true, 1, false, false, 2, 0⟩),
     (0x154810500002C01200000000, .vflog2 ⟨64, 261, 0, 0, 5, true, 1, false, false, 2, 0⟩)] = true := by decide

theorem test_decode_lane_5 : decodesTo 96
    [(0x158810500002C01200000000, .vfsin ⟨64, 261, 0, 0, 5, true, 1, false, false, 2, 0⟩),
     (0x15C810500002C01200000000, .vfcos ⟨64, 261, 0, 0, 5, true, 1, false, false, 2, 0⟩),
     (0x180810500002C0020000A132, .vcvt ⟨64, 261, 0, 0, 5, true, 0, false, false, 2, 41266⟩),
     (0x1A0810500002C00100000000, .actEval ⟨64, 261, 0, 0, 5, true, 0, false, false, 1, 0⟩),
     (0x1C02B0500002C02000000000, .vredf ⟨21, 261, 0, 0, 5, true, 2, false, false, 0, 0⟩),
     (0x40080150F802E820FFFFFFF8, .vld ⟨64, 21, 31, 0, 5, true, 642, false, false, 0, 4294967288⟩),
     (0x40480150F802E82000000080, .vst ⟨64, 21, 31, 0, 5, true, 642, false, false, 0, 128⟩),
     (0x408801500002C020FFFFFFF8, .vlds ⟨64, 21, 0, 0, 5, true, 2, false, false, 0, 4294967288⟩),
     (0x40C801500002C02000000080, .vsts ⟨64, 21, 0, 0, 5, true, 2, false, false, 0, 128⟩),
     (0x41080150F826E82000000007, .vatom ⟨64, 21, 31, 9, 5, true, 642, false, false, 0, 7⟩),
     (0x41481050A85AE81000002EDB, .vcp ⟨64, 261, 21, 22, 5, true, 641, false, false, 0, 11995⟩),
     (0x4182B050B05EE81000002E1B, .vcpc ⟨21, 261, 22, 23, 5, true, 641, false, false, 0, 11803⟩)] = true := by decide

theorem test_decode_lane_6 : decodesTo 96
    [(0x43000150B05EC00000002EDB, .cpy ⟨0, 21, 22, 23, 5, true, 0, false, false, 0, 11995⟩),
     (0x41C81050A802C00000000000, .xshfl ⟨64, 261, 21, 0, 5, true, 0, false, false, 0, 0⟩),
     (0x4200D050A85AC03000000000, .qpush ⟨6, 261, 21, 22, 5, true, 3, false, false, 0, 0⟩),
     (0x42480000A81AC01000000000, .qpop ⟨64, 0, 21, 6, 5, true, 1, false, false, 0, 0⟩),
     (0x42880150F802E820FFFFFFF8, .vrld ⟨64, 21, 31, 0, 5, true, 642, false, false, 0, 4294967288⟩),
     (0x42C80150F802E82000000080, .vrst ⟨64, 21, 31, 0, 5, true, 642, false, false, 0, 128⟩),
     (0x50017050A802C010000000D6, .tmmaE4m3 ⟨11, 261, 21, 0, 5, true, 1, false, false, 0, 214⟩),
     (0x50417050A802C010000000D6, .tmmaE5m2 ⟨11, 261, 21, 0, 5, true, 1, false, false, 0, 214⟩),
     (0x50817050A802C014000000D6, .tmmaI8 ⟨11, 261, 21, 0, 5, true, 1, false, true, 0, 214⟩),
     (0x50C17050A802C010000000D6, .tmmaBf16 ⟨11, 261, 21, 0, 5, true, 1, false, false, 0, 214⟩),
     (0x51017050A802C010000000D6, .tmmaF16 ⟨11, 261, 21, 0, 5, true, 1, false, false, 0, 214⟩),
     (0x51417050A826C050000000D6, .tmmaE2m1 ⟨11, 261, 21, 9, 5, true, 5, false, false, 0, 214⟩)] = true := by decide

theorem test_decode_lane_7 : decodesTo 96
    [(0x51817050A85AC020000000D6, .tmmaT16 ⟨11, 261, 21, 22, 5, true, 2, false, false, 0, 214⟩),
     (0x51C17050A85AC020000000D6, .tmmaT32 ⟨11, 261, 21, 22, 5, true, 2, false, false, 0, 214⟩),
     (0x52017050A85AC020000000D6, .tmmaT64 ⟨11, 261, 21, 22, 5, true, 2, false, false, 0, 214⟩),
     (0x524160000002C0000000000F, .tzero ⟨11, 0, 0, 0, 5, true, 0, false, false, 0, 15⟩),
     (0x528800B00002C00000000002, .tld ⟨64, 11, 0, 0, 5, true, 0, false, false, 0, 2⟩),
     (0x52C170500002C00000000002, .tst ⟨11, 261, 0, 0, 5, true, 0, false, false, 0, 2⟩),
     (0x530161500002C00000000000, .tres ⟨11, 21, 0, 0, 5, true, 0, false, false, 0, 0⟩),
     (0x534001500002C00000002E40, .encTc ⟨0, 21, 0, 0, 5, true, 0, false, false, 0, 11840⟩),
     (0x538001500002C00000002E40, .embG ⟨0, 21, 0, 0, 5, true, 0, false, false, 0, 11840⟩),
     (0x53C001500002C00000002E40, .embR ⟨0, 21, 0, 0, 5, true, 0, false, false, 0, 11840⟩),
     (0x580810500002C0000000C816, .gdeg ⟨64, 261, 0, 0, 5, true, 0, false, false, 0, 51222⟩),
     (0x58481050F802C0100000C816, .gnbr ⟨64, 261, 31, 0, 5, true, 1, false, false, 0, 51222⟩)] = true := by decide

theorem test_decode_lane_8 : decodesTo 96
    [(0x58881050F802C0000000C816, .gattr ⟨64, 261, 31, 0, 5, true, 0, false, false, 0, 51222⟩),
     (0x58C81050F826C0000000C816, .gadd ⟨64, 261, 31, 9, 5, true, 0, false, false, 0, 51222⟩),
     (0x59081050F802C0000000C816, .gdel ⟨64, 261, 31, 0, 5, true, 0, false, false, 0, 51222⟩),
     (0x594810500002C0000000C816, .gdegIn ⟨64, 261, 0, 0, 5, true, 0, false, false, 0, 51222⟩),
     (0x59881050F802C0100000C816, .gnbrIn ⟨64, 261, 31, 0, 5, true, 1, false, false, 0, 51222⟩),
     (0x59C81050F802C0000000C816, .gattrIn ⟨64, 261, 31, 0, 5, true, 0, false, false, 0, 51222⟩),
     (0x5A081050F802C0000000C816, .gdelIn ⟨64, 261, 31, 0, 5, true, 0, false, false, 0, 51222⟩),
     (0x5A401050000EC0200000C816, .copen ⟨0, 261, 0, 3, 5, true, 2, false, false, 0, 51222⟩),
     (0x5A801050000EC0200000C816, .copenLive ⟨0, 261, 0, 3, 5, true, 2, false, false, 0, 51222⟩),
     (0x5AC80000000EC0000000C800, .cnext ⟨64, 0, 0, 3, 5, true, 0, false, false, 0, 51200⟩),
     (0x5B000000000EC0000000C800, .cclose ⟨0, 0, 0, 3, 5, true, 0, false, false, 0, 51200⟩),
     (0x5B400150000EC0000000C800, .csave ⟨0, 21, 0, 3, 5, true, 0, false, false, 0, 51200⟩)] = true := by decide

theorem test_decode_lane_9 : decodesTo 96
    [(0x5B800150000EC0000000C800, .crest ⟨0, 21, 0, 3, 5, true, 0, false, false, 0, 51200⟩),
     (0x5BC001500002C00000002E40, .gbulk ⟨0, 21, 0, 0, 5, true, 0, false, false, 0, 11840⟩),
     (0x60005050A85AC00000000000, .wld ⟨2, 261, 21, 22, 5, true, 0, false, false, 0, 0⟩),
     (0x60480020F802C01000000000, .wval ⟨64, 2, 31, 0, 5, true, 1, false, false, 0, 0⟩),
     (0x60804000A85AC00000000000, .wadv ⟨2, 0, 21, 22, 5, true, 0, false, false, 0, 0⟩),
     (0x60C001500002C0000000002A, .vptld ⟨0, 21, 0, 0, 5, true, 0, false, false, 0, 42⟩),
     (0x610001500002C00000000000, .actLd ⟨0, 21, 0, 0, 5, true, 0, false, false, 0, 0⟩),
     (0x6142A0000002C00000000000, .actSwap ⟨21, 0, 0, 0, 5, true, 0, false, false, 0, 0⟩)] = true := by decide

/-- R228: the operations of the upper half, by OPC7 and by the OPC of their single form; every other code is unassigned. -/
theorem test_classA_table : (List.range 128).all (fun n => decide (classAOp n =
    (([(1, 0x40), (2, 0x42), (3, 0x43), (4, 0x41), (5, 0x44), (6, 0x45), (7, 0x46), (8, 0x47), (9, 0x48), (0xA, 0x50), (0xB, 0x51),
      (0xC, 0x52), (0xD, 0x53), (0xE, 0x54), (0xF, 0x55), (0x10, 0x56), (0x11, 0x57), (0x12, 0x68)] : List (Nat × Nat)).find?
        (fun p => decide (p.1 = n))).bind (fun p => laneOpOf (BitVec.ofNat 9 p.2) false))) = true := by
  decide +kernel

/-- R228: those of the lower half bear the number of their single form. -/
theorem test_classB_table : (List.range 128).all (fun n => decide (classBOp n =
    if 0x01 ≤ n ∧ n ≤ 0x0D ∨ 0x10 ≤ n ∧ n ≤ 0x17 ∨ 0x20 ≤ n ∧ n ≤ 0x2E ∨ n = 0x30 ∨ n = 0x38 then laneOpOf (BitVec.ofNat 9 n) false else none)) =
      true := by
  decide +kernel

def spec0 (vd va vb vc : BitVec 9) (xmod : BitVec 10) (imm : BitVec 32) : LaneFields := ⟨vd, va, vb, vc, 0, false, xmod, false, false, 0, imm⟩

/-- Scalar words the chapters write out (R233–R251, R287, R296, R302–R307). -/
theorem test_spec_words_scalar : decodesTo 32
    [(0x38400001, .li 4 1), (0x3C423456, .lui 4 0x23456), (0x04518700, .add 5 6 7), (0x1070FFEC, .addi 7 3 0x3FEC), (0x80510048, .ldw 5 4 4 0),
     (0x44020006, .brd 2 6), (0x4C000004, .join 4), (0x0C000000, .exit), (0x0C000004, .ret), (0x50B00010, .lx 11 16),
     (0x5400A3F1, .sigchk 0xA3F1), (0x98000206, .barSync 2), (0x8C00000A, .fence), (0x4800001E, .call 30), (0x0C028B03, .callo 10 11)] = true := by
  decide +kernel

/-- A word that R226 does not assign. -/
theorem test_unassigned_scalar : decodeTableWord 32 0x0C000040 = none := by decide

/-- The two paired words of R218's examples, and single lane words of the chapters' examples. -/
theorem test_spec_words_lane : decodesTo 96
    [(0x850801020000201A0C120000, .pairedLaneWord ⟨.vfmul, 8, 1, 2, 0, 0, 0⟩ ⟨.vand, 13, 6, 9, 0, 0, 0⟩),
     (0x81040102030002120A0C0000, .pairedLaneWord ⟨.vfma, 4, 1, 2, 3, 0, 0⟩ ⟨.vadd, 9, 5, 6, 0, 0, 0⟩),
     (0x400100401800102000000040, .vld (spec0 8 4 3 0 0x102 64)), (0x50004100500000000000000B, .tmmaE4m3 (spec0 2 16 10 0 0 11)),
     (0x584140402800001000008309, .gnbr (spec0 10 4 5 0 1 0x8309)), (0x0C80C0201800003000000001, .vslide (spec0 6 2 3 0 3 1))] = true := by
  decide +kernel

/-! ## Ill-formed instructions, one for each check (R221) -/

def refusals (l : List (Instr × Illop)) : Bool := l.all (fun p => decide (fieldCheck p.1 = some p.2))

/-- A reserved or unused field that is not zero: PN without a guard, each register field too wide, XMOD, IMM, BIMM, SAT, RM. -/
theorem test_refused_fields : refusals
    [(.vadd { spec0 0 0 0 0 0 0 with pn := true }, .rsvbit), (.vcmpEq (spec0 8 0 0 0 0 0), .rsvbit), (.vbcast (spec0 0 64 0 0 0 0), .rsvbit),
     (.xshfl (spec0 0 0 64 0 0 0), .rsvbit), (.vadd (spec0 0 0 0 1 0 0), .rsvbit), (.copen (spec0 0 0 0 8 0 0), .rsvbit),
     (.wld (spec0 4 0 0 0 0 0), .rsvbit), (.tzero (spec0 16 0 0 0 0 0), .rsvbit), (.vid (spec0 0 1 0 0 0 0), .rsvbit),
     (.vadd (spec0 0 0 0 0 2 0), .rsvbit), (.vperm (spec0 0 0 0 0 0 64), .rsvbit), (.vadd { spec0 0 0 0 0 0 0 with bimm := true }, .rsvbit),
     (.vbcastImm (spec0 0 0 0 0 0 7), .rsvbit), (.vand { spec0 0 0 0 0 0 0 with sat := true }, .rsvbit),
     (.vfmin { spec0 0 0 0 0 0 0 with rm := 1 }, .rsvbit)] = true := by
  decide +kernel

/-- Fields reserved by another field: SAT between floats, the comparison sign of logic, SREG and SCOPE without ACQ or REL, BAR without BE,
VS without SE. -/
theorem test_refused_by_another_field : refusals
    [(.vcvt { spec0 0 0 0 0 0 0x01 with sat := true }, .rsvbit), (.vredi (spec0 0 0 0 0 11 0), .rsvbit), (.vcp (spec0 0 0 0 0 0 0x200), .rsvbit),
     (.cpy (spec0 0 0 0 0 0 1), .rsvbit), (.vcpc (spec0 0 0 0 0 0 1), .rsvbit), (.embG (spec0 0 0 0 0 0 0x80), .rsvbit),
     (.gdeg (spec0 0 0 0 0 0 0x40), .rsvbit)] = true := by
  decide +kernel

/-- Values an operation does not define, and s58 as a lane word's destination. -/
theorem test_refused_values : refusals
    [(.vfadd (spec0 0 0 0 0 3 0), .undefval), (.vcvt (spec0 0 0 0 0 0 0x07), .undefval), (.vcvt (spec0 0 0 0 0 0 0x100), .undefval),
     (.vredi (spec0 0 0 0 0 6 0), .undefval), (.vredf (spec0 0 0 0 0 3 0), .undefval), (.vslide (spec0 0 0 0 0 6 0), .undefval),
     (.vslide (spec0 0 0 0 0 0 96), .undefval), (.vslide (spec0 0 0 0 0 1 192), .undefval), (.vld (spec0 0 0 0 0 6 0), .undefval),
     (.vrld (spec0 0 0 0 0 8 0), .undefval), (.vst (spec0 0 0 0 0 4 0), .undefval), (.vrst (spec0 0 0 0 0 8 0), .undefval),
     (.vatom (spec0 0 0 0 0 1 0), .undefval), (.vatom (spec0 0 0 0 0 2 11), .undefval), (.vatom (spec0 0 0 0 0 3 10), .undefval),
     (.vcp (spec0 0 0 0 0 3 0), .undefval), (.qpush (spec0 0 0 0 0 2 0), .undefval), (.qpop (spec0 0 0 0 0 2 0), .undefval),
     (.actSwap (spec0 58 0 0 0 0 0), .rowrite)] = true := by
  decide +kernel

/-- Scalar words: shift amounts, conditions, barrier bits, counter classes, special registers, s58. -/
theorem test_refused_scalar : refusals
    [(.slli 0 0 64, .undefval), (.srai 0 0 64, .undefval), (.brCond 15 0 0, .undefval), (.brCond 14 1 0, .rsvbit), (.bind 0 0 0, .undefval),
     (.bind 0 0 63, .undefval), (.waitr 6 0, .undefval), (.srd 0 0, .unassigned), (.srd 0 8, .unassigned), (.swr 0 0x18, .unassigned),
     (.swr 0 7, .rospecial), (.swr 0 0x17, .rospecial), (.add 58 0 0, .rowrite), (.ldd 58 0 0 0, .rowrite), (.rldd 58 0 0, .rowrite)] = true := by
  decide +kernel

/-- Paired words: an operation of the wrong half, a field of a half, three reads of one bank, two writes of one bank. -/
theorem test_refused_pairs : refusals
    [(.pairedLaneWord ⟨.vadd, 0, 0, 0, 0, 0, 0⟩ ⟨.vadd, 0, 0, 0, 0, 0, 0⟩, .unassigned),
     (.pairedLaneWord ⟨.vfmin, 0, 1, 2, 0, 0, 1⟩ ⟨.vand, 1, 6, 9, 0, 0, 0⟩, .rsvbit),
     (.pairedLaneWord ⟨.vfmul, 8, 1, 5, 0, 0, 0⟩ ⟨.vand, 13, 9, 2, 0, 0, 0⟩, .pairport),
     (.pairedLaneWord ⟨.vfmul, 8, 1, 2, 0, 0, 0⟩ ⟨.vand, 12, 6, 9, 0, 0, 0⟩, .pairwrite)] = true := by
  decide +kernel

/-- R215 under a grant of 32 registers. -/
theorem test_refused_grant : grantCheck 32 .vadd (spec0 32 0 0 0 0 0) = some .regrange ∧ grantCheck 32 .vld (spec0 31 0 0 0 3 0) = some .regrange ∧
    grantCheck 32 .vld (spec0 29 0 0 0 3 0) = some .oddpair ∧ grantCheck 32 .tld (spec0 1 0 0 0 0 0) = some .regrange ∧
    grantCheck 32 .vadd (spec0 31 31 31 0 0 0) = none := by
  decide +kernel

/-! ## Results of the spec's worked examples -/

/-- A scalar word run at slot 0 with registers as listed, and what it leaves in a register. -/
def leaves (i : Instr) (l : List (Nat × DWord)) (d : SIndex) (v : DWord) : Bool :=
  goesOn (exec i (sets' (at32 0) l)) (fun t => decide ((readS t 0 false d.toNat).val = v))

/-- R233–R236: LI and LUI make an address; ADD, ADDW; −7 by 2. -/
theorem test_scalar_results : leaves (.li 4 1) [] 4 1 = true ∧ leaves (.lui 4 0x23456) [(4, 1)] 4 0x123456 = true ∧
    leaves (.lui 4 0x789AB) [(4, 0x123456)] 4 0x123456789AB = true ∧ leaves (.add 5 6 7) [(6, 0x7FFFFFFF), (7, 1)] 5 0x80000000 = true ∧
    leaves (.addw 5 6 7) [(6, 0x7FFFFFFF), (7, 1)] 5 0xFFFFFFFF80000000 = true ∧ leaves (.div 5 6 7) [(6, -7), (7, 2)] 5 (-3) = true ∧
    leaves (.rem 5 6 7) [(6, -7), (7, 2)] 5 (-1) = true := by
  decide +kernel

/-- R56: saturating and wrapping sums. -/
theorem test_saturation : (intOut true false 2500000000).val = 2147483647 ∧ (intOut true false 2500000000).sat = true ∧
    (intOut true false (2147483647 - 600000000)).val = 1547483647 ∧ (intOut false false 2500000000).val.toInt = -1794967296 := by
  decide +kernel

/-- R65: lanes of 1.0, 2^24, 1.0 in order; R63, R64: a weight and its scaled value; R61: windows of group 20 and of group 31. -/
theorem test_float_results : (reduceFp 0 [0x3F800000, 0x4B800000, 0x3F800000]).1 = 0x4B800000 ∧ rawWeight 0x00A5 1 0x1234 = -7 ∧
    scaledWeight (-7) 0x3E80 = 0xBFE00000 ∧ makeWin ⟨64, 2, 0x1234⟩ 41 0x00A5 = 0xA0000029123400A5 ∧
    winBytes ⟨64, 2, 0x1234⟩ 41 = ([7, 8, 9], 4) ∧ winBytes ⟨64, 2, 0x1234⟩ 63 = ([11, 0, 1], 5) := by
  decide +kernel

/-- R188: the unit of vertex 1000 of graph 3. -/
theorem test_graph_owner : graphOwner 3 1000 = 44 := by decide +kernel

/-- R82–R84: n = 4, G = 64, T = 2, S = 3; R98: six such teams a core; 16 groups of 96 registers take four partitions. -/
theorem test_launch_sizes :
    let n := { absentKernel with groups := 4, tiles := 2, regs := 64, ways := 3 }
    imgSize n = 0x4E000 ∧ groupArea n + 3 * groupBytes n = 0x44000 ∧ groupArea n + 2 * groupBytes n + 0x4000 + 4 * (96 * 10 + 37) = 0x3EF94 ∧
      teamsPerCore n 18 = 6 := by
  decide +kernel

/-- R455–R457: with TOL 425 the deepest state is S2, with 440 it is S3. -/
theorem test_power_states : deepest { State.reset with regs := { resetRegs with tol := 425 } } = 2 ∧
    deepest { State.reset with regs := { resetRegs with tol := 440 } } = 3 := by
  decide +kernel

end Sys2Proof.Machine.Tests
end

section
/-!
PROOF. Module reset (R37), the hold of a scalar word (R31, R232), and the word that a step executes (R19, R34, R109–R112).
-/
namespace Sys2Proof.Machine
open Sys2Proof.Claims

/-! ## Reset -/

/-- Settles O57: every field named stands in the reset state, and an unlisted object is the one that stands for nothing. -/
theorem resetState : Obligations.ResetState := by
  unfold Obligations.ResetState
  exact ⟨fun _ => rfl, fun _ => rfl, fun _ => ⟨rfl, rfl⟩, fun _ _ => rfl, fun _ => ⟨rfl, rfl, rfl⟩, fun _ _ => rfl, rfl, fun _ => rfl, rfl, rfl,
    rfl, rfl, rfl, rfl, rfl, rfl, rfl, rfl⟩

/-- No object of the module bears a name at reset. -/
theorem names_reset : names State.reset = [] := rfl

/-- Settles O58: the memories are empty, and so are the lists of names. -/
theorem invariantsAtReset : Obligations.InvariantsAtReset := by
  refine ⟨⟨State.reset_memWf, rfl⟩, by decide, fun n hn => ?_⟩
  rw [names_reset] at hn
  cases hn

/-! ## A waiting word -/

theorem grp_waitFor (s : State) (r : Reason) :
    (waitFor s r).grp s.cur.grp = (s.grp s.cur.grp).modSlot s.cur.second (fun sl => { sl with reason := r }) :=
  State.grp_setGrp s s.cur.grp _

theorem issuing_waitFor (s : State) (r : Reason) : issuing s (waitFor s r) = { issuing s s with reason := r } := by
  rw [issuing, grp_waitFor]
  exact Group.slot_setSlot _ _ _

/-- An update of one slot of a group leaves everything beside its slots. -/
theorem Group.modSlot_rest (g : Group) (z : Bool) (f : PcSlot → PcSlot) :
    { g.modSlot z f with slot0 := g.slot0, slot1 := g.slot1 } = g := by
  cases z <;> rfl

/-- What `waitFor` leaves: of the whole machine only the reason of the issuing slot differs. -/
theorem waits_waitFor (s : State) (r : Reason) : Waits s (waitFor s r) r := by
  refine ⟨rfl, rfl, fun j hj => State.grp_setGrp_ne s _ j _ hj, ?_, ?_, ?_, ?_⟩
  · rw [issuing_waitFor]
  · rw [OtherSlot, grp_waitFor]
    exact Group.slot_setSlot_not _ _ _
  · rw [issuing_waitFor]
  · rw [grp_waitFor]
    exact Group.modSlot_rest _ _ _

/-- A word behind a result is told to wait for a page only where an operation of its group is parked (R361). -/
theorem hazardReason_cases (g : Group) (n : Needs) :
    hazardReason g n = .hazard ∨ hazardReason g n = .pagefault ∧ g.ops.any (·.parked) = true := by
  unfold hazardReason
  dsimp only
  split
  · rename_i h
    obtain ⟨o, ho, hp⟩ := List.any_eq_true.mp h
    exact .inr ⟨rfl, List.any_eq_true.mpr ⟨o, ho, (Bool.and_eq_true _ _ ▸ hp).1⟩⟩
  · exact .inl rfl

/-- Settles O3: the word behind a result is held at its issue, with the reason that the parked operations give it. -/
theorem hazardWaits : Obligations.HazardWaits := by
  intro i n s body hi hr hh
  refine ⟨_, issueScalar_held i n s body hi hr hh, ?_⟩
  obtain h | ⟨h, hp⟩ := hazardReason_cases (s.grp s.cur.grp) n <;> rw [h]
  · exact .inl (waits_waitFor s _)
  · exact .inr ⟨waits_waitFor s _, hp⟩

/-! ## The step -/

@[simp] theorem settleIssue_cur (s : State) (p : Nat) (ks : List Nat) : (settleIssue s p ks).cur = s.cur := by
  unfold settleIssue
  induction ks generalizing s with
  | nil => rfl
  | cons k ks ih => exact ih _

/-- The first attempt that is not kept waiting is the one taken. -/
theorem tryAll_taken {s t : State} {a : Attempt} {as : List Attempt} (h : runAttempt s a = .next t) (ht : t.cur.held = false) :
    tryAll s (a :: as) = .next t := by
  simp [tryAll, h, ht]

/-- The partition of the word taken settles the skip counts of its other groups. -/
theorem tryPart_taken {s t : State} {p : Nat} {a : Attempt} {as : List Attempt} (hp : partAttempts s p = a :: as)
    (h : runAttempt s a = .next t) (ht : t.cur.held = false) :
    tryPart s p = .next (settleIssue t p
      (((issuers s).filter (fun j => decide (j ≠ t.cur.grp) && decide (partOf s j = p))).filter (offersWord s))) := by
  unfold tryPart
  rw [hp, tryAll_taken h ht]
  simp only [ht, Bool.false_eq_true, if_false]

theorem tryParts_taken {s t : State} {p : Nat} {ps : List Nat} (h : tryPart s p = .next t) (ht : t.cur.held = false) :
    tryParts s (p :: ps) = .next t := by
  simp [tryParts, h, ht]

theorem orElse_taken {s t : State} {f g : State → Out} (h : f s = .next t) (ht : t.cur.held = false) : orElse s f g = .next t := by
  simp [orElse, h, ht]

/-- On an even step with nothing on the agenda, a word that is not kept waiting is what the module chooses. -/
theorem choose_word {s t : State} (ha : s.agenda = []) (he : s.steps % 2 = 0) (h : tryParts s (turns s) = .next t)
    (ht : t.cur.held = false) : choose s = .next t := by
  unfold choose
  rw [ha]
  refine orElse_taken ?_ ht
  rw [if_pos he]
  exact orElse_taken h ht

theorem choose_agenda {s : State} {i : Instr} {x : Subject} {rest : List (Instr × Subject)} (ha : s.agenda = (i, x) :: rest) :
    choose s = exec i { s with agenda := rest, cur := x } := by
  simp [choose, ha]

/-- The wait of a resumed side asks nothing of the subject. -/
theorem sideWait_cur (s : State) (x : Subject) (k : Nat) (z : Bool) (h : sideWait s k z = none) :
    sideWait { s with cur := x } k z = none := by
  have hg : ({ s with cur := x } : State).grp k = s.grp k := rfl
  unfold sideWait at h ⊢
  dsimp only [hg] at h ⊢
  split at h
  · split at h
    · rename_i b t hw hc
      simp only [hg, hw]
      exact if_pos hc
    · cases h
  · rename_i hw
    simp only [hg, hw]

@[simp] theorem storeBytes_length (s : State) (c slot off n : Nat) : (storeBytes s c slot off n).length = n := by
  simp [storeBytes]

/-- The scalar word of a slot is what the four bytes at its place decode to. -/
theorem decodeScalar_slotWord (s : State) (k : Nat) (z : Bool) :
    decodeScalar (slotWord s k z)
      = decodeBytes (storeBytes s (s.coreOf k) ((s.grp k).slot z).islot (4 * ((s.grp k).slot z).pc) 4) := by
  simp [decodeBytes, slotWord, scalarAt]

/-- The next lane word of a block is what the twelve bytes at its place decode to. -/
theorem decodeLane_blockWord (s : State) (k : Nat) (b : LaneBlock) :
    decodeLane (blockWord s k b)
      = decodeBytes (storeBytes s (s.coreOf k) b.islot (((s.core (s.coreOf k)).storeSlot b.islot).laneoff + 12 * (b.off + b.next)) 12) := by
  simp [decodeBytes, blockWord, laneAt]

/-- A slot in its overlay, kept by nothing, executes the word at its program counter. -/
theorem runSlot_word {s : State} {k : Nat} {z : Bool} {i : Instr} (hn : notOffering (s.grp k) z = false)
    (hb : unplacedBlock (s.grp k) = none) (he : ((s.grp k).slot z).entered = true) (hc : headCounterFull s k z = false)
    (hw : sideWait s k z = none) (hi : decodeScalar (slotWord s k z) = .ok i) :
    runSlot s k z = exec i { s with cur := slotSubject s k z } := by
  have hg : ({ s with cur := slotSubject s k z } : State).grp k = s.grp k := rfl
  have hc' : headCounterFull { s with cur := slotSubject s k z } k z = false := hc
  have hi' : decodeScalar (slotWord { s with cur := slotSubject s k z } k z) = .ok i := hi
  unfold runSlot
  simp only [hg, hn, hb, hc', he, sideWait_cur s _ k z hw, hi', Option.isSome_none, Bool.or_false, Bool.false_eq_true, if_false, Bool.not_true]

/-- A lane queue whose blocks have their places, and whose group does not stall, executes the next word of its first block. -/
theorem runLane_word {s : State} {k : Nat} {b : LaneBlock} {i : Instr} (hu : unplacedBlock (s.grp k) = none)
    (hb : headBlock s k = some b) (hs : (s.grp k).laneStall = none) (hi : decodeLane (blockWord s k b) = .ok i) :
    runLane s k = exec i { s with cur := laneSubject s k b } := by
  have hg : ({ s with cur := laneSubject s k b } : State).grp k = s.grp k := rfl
  have hi' : decodeLane (laneSubject s k b).word = .ok i := hi
  unfold runLane
  simp only [hu, hb, hg, hs, hi', Option.isSome_none, Bool.false_eq_true, if_false]

/-- Settles O55: the agenda's head is executed; else the first word in turn, which its place in the instruction store gives. -/
theorem stepRunsTheWord : Obligations.StepRunsTheWord := by
  refine ⟨?agenda, ?slot, ?lane, ?turn, fun t => rfl⟩
  case agenda =>
    intro s i x rest hp ha
    simp only [step, hp, if_true, choose_agenda ha]
  case slot =>
    intro s k z i hn hb he hc hw hi
    exact runSlot_word hn hb he hc hw ((decodeScalar_slotWord s k z).trans hi)
  case lane =>
    intro s k b i hu hb hs hi
    exact runLane_word hu hb hs ((decodeLane_blockWord s k b).trans hi)
  case turn =>
    intro s p ps a as t hp ha he htu hpa hr ht
    have hpart := tryPart_taken hpa hr ht
    have hparts : tryParts s (turns s) = .next _ := htu ▸ tryParts_taken (ps := ps) hpart (by simpa using ht)
    simp only [step, hp, if_true, choose_word ha he hparts (by simpa using ht)]

end Sys2Proof.Machine
end

section
/-!
SUPPORT. Bytes of a line of 128 (R286): what a write of bytes leaves of its data, its masks and its poison.
-/
namespace Sys2Proof.Machine

/-! ## One byte -/

theorem getLsbD_ones8 (n : Nat) : ((0xFF : BitVec 1024).getLsbD n) = decide (n < 8) := by
  have h : (0xFF : BitVec 1024) = BitVec.ofNat 1024 (2 ^ 8 - 1) := rfl
  rw [h, BitVec.getLsbD_ofNat, Nat.testBit_two_pow_sub_one]
  by_cases hn : n < 8
  · have : n < 1024 := by omega
    simp [hn, this]
  · simp [hn]

/-- A bit of a line after one byte has been replaced. -/
theorem getLsbD_setByte (d : BitVec 1024) (i n : Nat) (b : Byte) (hn : n < 1024) :
    (setByte d i b).getLsbD n = if n / 8 = i then b.getLsbD (n % 8) else d.getLsbD n := by
  unfold setByte
  rw [BitVec.getLsbD_or, BitVec.getLsbD_and, BitVec.getLsbD_not, BitVec.getLsbD_shiftLeft, BitVec.getLsbD_shiftLeft, getLsbD_ones8,
    BitVec.getLsbD_setWidth]
  by_cases h : n / 8 = i
  · have h1 : ¬ n < 8 * i := by omega
    have h2 : n - 8 * i < 8 := by omega
    have h3 : n - 8 * i = n % 8 := by omega
    have h4 : n % 8 < 8 := by omega
    have h5 : n % 8 < 1024 := by omega
    simp [h, hn, h1, h3, h4, h5]
  · rw [if_neg h]
    by_cases h1 : n < 8 * i
    · simp [hn, h1]
    · have h2 : ¬ n - 8 * i < 8 := by omega
      have h3 : b.getLsbD (n - 8 * i) = false := BitVec.getLsbD_of_ge _ _ (by omega)
      simp [hn, h1, h2, h3]

theorem getByte_setByte (d : BitVec 1024) (i j : Nat) (b : Byte) (hj : j < 128) :
    getByte (setByte d i b) j = if j = i then b else getByte d j := by
  apply BitVec.eq_of_getLsbD_eq
  intro k hk
  have h1 : (8 * j + k) / 8 = j := by omega
  have h2 : (8 * j + k) % 8 = k := by omega
  unfold getByte
  rw [BitVec.getLsbD_extractLsb', getLsbD_setByte _ _ _ _ (by omega), h1, h2]
  split
  · simp [hk]
  · rw [BitVec.getLsbD_extractLsb']

/-! ## Runs of bytes -/

/-- A byte that a write does not name is as it was. -/
theorem getByte_mergeData_of_notMem (bs : List (Nat × PByte)) (d : BitVec 1024) (i : Nat) (hi : i < 128) (h : i ∉ bs.map (·.1)) :
    getByte (mergeData d bs) i = getByte d i := by
  unfold mergeData
  induction bs generalizing d with
  | nil => rfl
  | cons b bs ih =>
    rw [List.map_cons, List.mem_cons, not_or] at h
    rw [List.foldl_cons, ih _ h.2, getByte_setByte _ _ _ _ hi, if_neg h.1]

/-- A byte that a write names once is as written. -/
theorem getByte_mergeData_of_mem (bs : List (Nat × PByte)) (d : BitVec 1024) (b : Nat × PByte) (hn : (bs.map (·.1)).Nodup) (hb : b ∈ bs)
    (hi : b.1 < 128) : getByte (mergeData d bs) b.1 = b.2.val := by
  induction bs generalizing d with
  | nil => cases hb
  | cons c bs ih =>
    rw [List.map_cons, List.nodup_cons] at hn
    rcases List.mem_cons.mp hb with rfl | hb
    · have h := getByte_mergeData_of_notMem bs (setByte d b.1 b.2.val) b.1 hi hn.1
      rw [getByte_setByte _ _ _ _ hi, if_pos rfl] at h
      exact h
    · exact ih _ hn.2 hb

/-- The one bit set of a mask with one place. -/
theorem getLsbD_oneHot {w : Nat} (k i : Nat) (hi : i < w) : ((1 : BitVec w) <<< k).getLsbD i = decide (i = k) := by
  have one : (1 : BitVec w).getLsbD (i - k) = (decide (0 < w) && decide (i - k = 0)) := BitVec.getLsbD_one
  rw [BitVec.getLsbD_shiftLeft, one]
  by_cases h : i = k
  · subst h; simp [hi, Nat.zero_lt_of_lt hi]
  · by_cases h1 : i < k
    · simp [h, h1]
    · have h2 : ¬ i - k = 0 := by omega
      simp [h, h1, h2]

theorem getLsbD_byteMask (bs : List (Nat × PByte)) (i : Nat) (hi : i < 128) :
    (byteMask bs).getLsbD i = true ↔ i ∈ bs.map (·.1) := by
  have run : ∀ m : BitVec 128, (bs.foldl (fun m b => m ||| ((1 : BitVec 128) <<< b.1)) m).getLsbD i = true
      ↔ m.getLsbD i = true ∨ i ∈ bs.map (·.1) := by
    induction bs with
    | nil => simp
    | cons b bs ih =>
      intro m
      rw [List.foldl_cons, ih, BitVec.getLsbD_or, getLsbD_oneHot _ _ hi, Bool.or_eq_true, decide_eq_true_eq, List.map_cons, List.mem_cons,
        or_assoc]
  simpa [byteMask] using run 0

/-! ## Poison -/

/-- What one sector's bytes make of the poison bits (R286). -/
def sectorMerge (bs : List (Nat × PByte)) (p : BitVec 4) (k : Nat) : BitVec 4 :=
  let w := bs.filter (fun b => decide (b.1 / 32 = k))
  if w.isEmpty then p
  else if w.any (·.2.poison) then p ||| ((1 : BitVec 4) <<< k)
  else if w.length = 32 then p &&& ~~~((1 : BitVec 4) <<< k) else p

theorem mergePoison_eq (p : BitVec 4) (bs : List (Nat × PByte)) : mergePoison p bs = [0, 1, 2, 3].foldl (sectorMerge bs) p := rfl

/-- The bytes of a sector leave the poison of the others alone. -/
theorem sectorMerge_getLsbD_ne (bs : List (Nat × PByte)) (p : BitVec 4) (k i : Nat) (hi : i < 4) (h : i ≠ k) :
    (sectorMerge bs p k).getLsbD i = p.getLsbD i := by
  unfold sectorMerge
  dsimp only
  split
  · rfl
  · split
    · rw [BitVec.getLsbD_or, getLsbD_oneHot _ _ hi]; simp [h]
    · split
      · rw [BitVec.getLsbD_and, BitVec.getLsbD_not, getLsbD_oneHot _ _ hi]; simp [h, hi]
      · rfl

/-- A poisoned byte poisons its sector (R286). -/
theorem sectorMerge_poisoned (bs : List (Nat × PByte)) (p : BitVec 4) (b : Nat × PByte) (hb : b ∈ bs) (hp : b.2.poison = true)
    (hi : b.1 / 32 < 4) : (sectorMerge bs p (b.1 / 32)).getLsbD (b.1 / 32) = true := by
  have hw : b ∈ bs.filter (fun x => decide (x.1 / 32 = b.1 / 32)) := by simp [hb]
  have hne : (bs.filter (fun x => decide (x.1 / 32 = b.1 / 32))).isEmpty = false := by
    cases h : bs.filter (fun x => decide (x.1 / 32 = b.1 / 32)) with
    | nil => rw [h] at hw; cases hw
    | cons c cs => rfl
  have hany : (bs.filter (fun x => decide (x.1 / 32 = b.1 / 32))).any (·.2.poison) = true := List.any_eq_true.mpr ⟨b, hw, hp⟩
  unfold sectorMerge
  simp only [hne, hany, Bool.false_eq_true, if_false, if_true]
  rw [BitVec.getLsbD_or, getLsbD_oneHot _ _ hi]
  simp

/-- A poisoned byte leaves its place poisoned, whatever else is written with it. -/
theorem sectorPoison_mergePoison (bs : List (Nat × PByte)) (p : BitVec 4) (b : Nat × PByte) (hb : b ∈ bs) (hp : b.2.poison = true)
    (hi : b.1 < 128) : sectorPoison (mergePoison p bs) b.1 = true := by
  have hk : b.1 / 32 < 4 := by omega
  have hit := fun q => sectorMerge_poisoned bs q b hb hp hk
  rw [sectorPoison, mergePoison_eq]
  simp only [List.foldl_cons, List.foldl_nil]
  have hc : b.1 / 32 = 0 ∨ b.1 / 32 = 1 ∨ b.1 / 32 = 2 ∨ b.1 / 32 = 3 := by omega
  rcases hc with h | h | h | h <;> rw [h] at hit ⊢
  · rw [sectorMerge_getLsbD_ne _ _ 3 0, sectorMerge_getLsbD_ne _ _ 2 0, sectorMerge_getLsbD_ne _ _ 1 0, hit] <;> decide
  · rw [sectorMerge_getLsbD_ne _ _ 3 1, sectorMerge_getLsbD_ne _ _ 2 1, hit] <;> decide
  · rw [sectorMerge_getLsbD_ne _ _ 3 2, hit] <;> decide
  · exact hit _

/-! ## The bytes of a mask -/

/-- The bytes that a line's mask picks, with the poison of their sectors. -/
theorem mem_lineBytes (d : BitVec 1024) (p : BitVec 4) (m : BitVec 128) (i : Nat) (v : PByte) (hi : i < 128) :
    (i, v) ∈ lineBytes d p m ↔ m.getLsbD i = true ∧ v = ⟨d.extractLsb' (8 * i) 8, p.getLsbD (i / 32)⟩ := by
  simp only [lineBytes, List.mem_map, List.mem_filter, List.mem_range, Prod.mk.injEq]
  constructor
  · rintro ⟨j, ⟨-, hm⟩, rfl, rfl⟩
    exact ⟨hm, rfl⟩
  · rintro ⟨hm, rfl⟩
    exact ⟨i, ⟨hi, hm⟩, rfl, rfl⟩

end Sys2Proof.Machine
end

section
/-!
SUPPORT. The L1 of a core (R150, R151): what a lookup finds after a line is put or dropped, and what a write-back, the room made for
a line and a drained store leave of the rest of the machine.
-/
namespace Sys2Proof.AMap

variable {α : Type}

@[simp] theorem find?_put (m : AMap α) (i : Nat) (x : α) : (put m i x).find? (fun p => decide (p.1 = i)) = some (i, x) := by
  induction m with
  | nil => simp [put]
  | cons p m ih =>
    obtain ⟨k, v⟩ := p
    simp only [put]
    split
    · simp
    · split
      · simp
      · rename_i h
        rw [List.find?_cons_of_neg (by simpa using fun e : k = i => h e.symm), ih]

theorem find?_put_ne (m : AMap α) (i j : Nat) (x : α) (h : j ≠ i) :
    (put m i x).find? (fun p => decide (p.1 = j)) = m.find? (fun p => decide (p.1 = j)) := by
  induction m with
  | nil => simp [put, h.symm]
  | cons p m ih =>
    obtain ⟨k, v⟩ := p
    simp only [put]
    split
    · rw [List.find?_cons_of_neg (by simpa using h.symm)]
    · split
      · rename_i e
        subst e
        rw [List.find?_cons_of_neg (by simpa using h.symm), List.find?_cons_of_neg (by simpa using h.symm)]
      · rw [List.find?_cons, List.find?_cons, ih]

@[simp] theorem find?_del (m : AMap α) (i : Nat) : (del m i).find? (fun p => decide (p.1 = i)) = none := by
  induction m with
  | nil => rfl
  | cons p m ih =>
    obtain ⟨k, v⟩ := p
    simp only [del]
    split
    · exact ih
    · rename_i h
      rw [List.find?_cons_of_neg (by simpa using fun e : k = i => h e.symm), ih]

theorem find?_del_ne (m : AMap α) (i j : Nat) (h : j ≠ i) :
    (del m i).find? (fun p => decide (p.1 = j)) = m.find? (fun p => decide (p.1 = j)) := by
  induction m with
  | nil => rfl
  | cons p m ih =>
    obtain ⟨k, v⟩ := p
    simp only [del]
    split
    · rename_i e
      subst e
      rw [List.find?_cons_of_neg (by simpa using h.symm), ih]
    · rw [List.find?_cons, List.find?_cons, ih]

end Sys2Proof.AMap

namespace Sys2Proof.Machine
open Sys2Proof.Claims

/-! ## Lines -/

@[simp] theorem l1Line_setL1 (s : State) (c asid line : Nat) (x : L1Line) : l1Line (setL1 s c asid line x) c asid line = some x := by
  simp [l1Line, setL1]

@[simp] theorem l1Line_dropL1 (s : State) (c asid line : Nat) : l1Line (dropL1 s c asid line) c asid line = none := by
  simp [l1Line, dropL1]

theorem l1Line_dropL1_ne (s : State) (c asid line other : Nat) (h : lineKey asid other ≠ lineKey asid line) :
    l1Line (dropL1 s c asid line) c asid other = l1Line s c asid other := by
  simp [l1Line, dropL1, AMap.find?_del_ne _ _ _ h]

/-- L1 is a part of its core. -/
theorem l1Line_cores {s t : State} (h : t.cores = s.cores) (c asid line : Nat) : l1Line t c asid line = l1Line s c asid line := by
  unfold l1Line State.core
  rw [h]

theorem lineOf_offset (line o : Nat) (ho : o < 128) : lineOf (line * 128 + o) = line := by
  unfold lineOf; omega

theorem l1Byte_of_line {s : State} {c asid a : Nat} {x : L1Line} (h : l1Line s c asid (lineOf a) = some x)
    (hv : x.valid.getLsbD (a % 128) = true) :
    l1Byte s c asid a = some ⟨getByte x.data (a % 128), sectorPoison x.poison (a % 128)⟩ := by
  simp [l1Byte, h, hv]

theorem l1Dirty_of_line {s : State} {c asid a : Nat} {x : L1Line} (h : l1Line s c asid (lineOf a) = some x) :
    l1Dirty s c asid a = x.dirty.getLsbD (a % 128) := by
  simp [l1Dirty, h]

/-! ## An update of groups alone -/

theorem OnlyGroups.trans {s t u : State} (h : OnlyGroups s t) (g : OnlyGroups t u) : OnlyGroups s u := by
  unfold OnlyGroups at *
  calc { u with groups := s.groups } = { { u with groups := t.groups } with groups := s.groups } := rfl
    _ = s := by rw [g, h]

section
variable {s t : State} (h : OnlyGroups s t)
include h

theorem OnlyGroups.hbm : t.hbm = s.hbm := by
  have e := congrArg State.hbm h
  exact e

theorem OnlyGroups.l2 : t.l2 = s.l2 := by
  have e := congrArg State.l2 h
  exact e

theorem OnlyGroups.teams : t.teams = s.teams := by
  have e := congrArg State.teams h
  exact e

theorem OnlyGroups.cores : t.cores = s.cores := by
  have e := congrArg State.cores h
  exact e

theorem OnlyGroups.fabric : t.fabric = s.fabric := by
  have e := congrArg State.fabric h
  exact e

theorem OnlyGroups.sendNum : t.sendNum = s.sendNum := by
  have e := congrArg State.sendNum h
  exact e

theorem OnlyGroups.nextId : t.nextId = s.nextId := by
  have e := congrArg State.nextId h
  exact e

end

/-! ## What L1 leaves of the rest -/

/-- HBM, L2 and the teams are as they were, and the groups but for bytes newer than the replies they await (R153). -/
structure KeepsBehindL1 (s t : State) : Prop where
  hbm : t.hbm = s.hbm
  l2 : t.l2 = s.l2
  teams : t.teams = s.teams
  groups : ∀ j, KeepsFetches s t j

theorem keepsFetches_same {s t : State} (h : t.groups = s.groups) (j : Nat) : KeepsFetches s t j := by
  unfold KeepsFetches State.grp
  rw [h]
  exact ⟨rfl, rfl⟩

theorem keepsFetches_trans {s t u : State} {j : Nat} (h : KeepsFetches s t j) (g : KeepsFetches t u j) : KeepsFetches s u j := by
  refine ⟨?_, g.2.trans h.2⟩
  calc { u.grp j with fetches := (s.grp j).fetches }
      = { { u.grp j with fetches := (t.grp j).fetches } with fetches := (s.grp j).fetches } := rfl
    _ = s.grp j := by rw [g.1, h.1]

section
variable {s t : State} {j : Nat} (h : KeepsFetches s t j)
include h

theorem keepsFetches_team : (t.grp j).team = (s.grp j).team := by
  have e := congrArg Group.team h.1
  exact e

theorem keepsFetches_fifo : (t.grp j).fifo = (s.grp j).fifo := by
  have e := congrArg Group.fifo h.1
  exact e

theorem keepsFetches_s : (t.grp j).s = (s.grp j).s := by
  have e := congrArg Group.s h.1
  exact e

theorem keepsFetches_v : (t.grp j).v = (s.grp j).v := by
  have e := congrArg Group.v h.1
  exact e

end

theorem KeepsBehindL1.refl (s : State) : KeepsBehindL1 s s := ⟨rfl, rfl, rfl, keepsFetches_same rfl⟩

theorem KeepsBehindL1.trans {s t u : State} (h : KeepsBehindL1 s t) (g : KeepsBehindL1 t u) : KeepsBehindL1 s u :=
  ⟨g.hbm.trans h.hbm, g.l2.trans h.l2, g.teams.trans h.teams, fun j => keepsFetches_trans (h.groups j) (g.groups j)⟩

theorem KeepsBehindL1.asidOf {s t : State} (h : KeepsBehindL1 s t) (j : Nat) : t.asidOf j = s.asidOf j := by
  simp only [State.asidOf, State.teamOf, State.team, h.teams, keepsFetches_team (h.groups j)]

/-- A run of updates, each of which keeps what is behind L1. -/
theorem KeepsBehindL1.foldl {β : Type} (f : State → β → State) (hf : ∀ s b, KeepsBehindL1 s (f s b)) (l : List β) (s : State) :
    KeepsBehindL1 s (l.foldl f s) := by
  induction l generalizing s with
  | nil => exact .refl s
  | cons b l ih => exact (hf s b).trans (ih _)

theorem setL1_keeps (s : State) (c asid line : Nat) (x : L1Line) : KeepsBehindL1 s (setL1 s c asid line x) :=
  ⟨rfl, rfl, rfl, keepsFetches_same rfl⟩

theorem dropL1_keeps (s : State) (c asid line : Nat) : KeepsBehindL1 s (dropL1 s c asid line) :=
  ⟨rfl, rfl, rfl, keepsFetches_same rfl⟩

theorem sendReq_keeps (s : State) (r g o a l : Nat) (b : ReqBody) : KeepsBehindL1 s (sendReq s r g o a l b) :=
  ⟨rfl, rfl, rfl, keepsFetches_same rfl⟩

/-! ## Write-backs -/

/-- A request of a line with bytes of the line newer than its reply. -/
def addNewer (line : Nat) (bs : List (Nat × PByte)) (f : Fetch) : Fetch :=
  if f.line = line && f.sent.isSome then { f with newer := f.newer ++ bs } else f

/-- The requests of one group of a context, marked so. -/
def markNewer (asid line : Nat) (bs : List (Nat × PByte)) (s : State) (k : Nat) : State :=
  if s.asidOf k ≠ asid then s else s.modGrp k (fun g => { g with fetches := g.fetches.map (addNewer line bs) })

theorem newerThan_eq (s : State) (c asid line : Nat) (bs : List (Nat × PByte)) :
    newerThan s c asid line bs = (groupsOn s c).foldl (markNewer asid line (bs.map (fun b => (line * 128 + b.1, b.2)))) s := rfl

theorem addNewer_rest (line : Nat) (bs : List (Nat × PByte)) (f : Fetch) : { addNewer line bs f with newer := [] } = { f with newer := [] } := by
  unfold addNewer
  split <;> rfl

/-- A request keeps the newer bytes it has. -/
theorem mem_newer_addNewer {line : Nat} {bs : List (Nat × PByte)} {f : Fetch} {b : Nat × PByte} (h : b ∈ f.newer) :
    b ∈ (addNewer line bs f).newer := by
  unfold addNewer
  split
  · exact List.mem_append_left _ h
  · exact h

theorem addNewer_line (line : Nat) (bs : List (Nat × PByte)) (f : Fetch) : (addNewer line bs f).line = f.line := by
  unfold addNewer
  split <;> rfl

theorem addNewer_sent (line : Nat) (bs : List (Nat × PByte)) (f : Fetch) : (addNewer line bs f).sent = f.sent := by
  unfold addNewer
  split <;> rfl

theorem grp_markNewer_ne (asid line : Nat) (bs : List (Nat × PByte)) (s : State) (k j : Nat) (h : j ≠ k) :
    (markNewer asid line bs s k).grp j = s.grp j := by
  unfold markNewer
  split
  · rfl
  · exact State.grp_setGrp_ne s k j _ h

theorem grp_markNewer_same (asid line : Nat) (bs : List (Nat × PByte)) (s : State) (k : Nat) (h : s.asidOf k = asid) :
    (markNewer asid line bs s k).grp k = { s.grp k with fetches := (s.grp k).fetches.map (addNewer line bs) } := by
  unfold markNewer
  rw [if_neg (by simpa using h)]
  exact State.grp_setGrp s k _

theorem markNewer_other (asid line : Nat) (bs : List (Nat × PByte)) (s : State) (k : Nat) (h : s.asidOf k ≠ asid) :
    markNewer asid line bs s k = s := if_pos h

theorem markNewer_onlyGroups (asid line : Nat) (bs : List (Nat × PByte)) (s : State) (k : Nat) : OnlyGroups s (markNewer asid line bs s k) := by
  unfold markNewer
  split <;> rfl

theorem markNewer_keepsFetches (asid line : Nat) (bs : List (Nat × PByte)) (s : State) (k j : Nat) :
    KeepsFetches s (markNewer asid line bs s k) j := by
  by_cases ha : s.asidOf k = asid
  · by_cases hj : j = k
    · subst hj
      unfold KeepsFetches
      rw [grp_markNewer_same _ _ _ _ _ ha]
      refine ⟨rfl, ?_⟩
      rw [List.map_map]
      exact List.map_congr_left (fun f _ => addNewer_rest line bs f)
    · unfold KeepsFetches
      rw [grp_markNewer_ne _ _ _ _ _ _ hj]
      exact ⟨rfl, rfl⟩
  · rw [markNewer_other _ _ _ _ _ ha]
    exact keepsFetches_same rfl j

theorem newerThan_onlyGroups (s : State) (c asid line : Nat) (bs : List (Nat × PByte)) : OnlyGroups s (newerThan s c asid line bs) := by
  rw [newerThan_eq]
  generalize groupsOn s c = ks
  induction ks generalizing s with
  | nil => rfl
  | cons k ks ih => exact (markNewer_onlyGroups _ _ _ s k).trans (ih _)

theorem markNewer_keeps (asid line : Nat) (bs : List (Nat × PByte)) (s : State) (k : Nat) : KeepsBehindL1 s (markNewer asid line bs s k) := by
  have h := markNewer_onlyGroups asid line bs s k
  exact ⟨h.hbm, h.l2, h.teams, markNewer_keepsFetches asid line bs s k⟩

theorem newerThan_keeps (s : State) (c asid line : Nat) (bs : List (Nat × PByte)) : KeepsBehindL1 s (newerThan s c asid line bs) :=
  .foldl _ (markNewer_keeps asid line _) _ s

/-- Group j's requests of a line that have been sent know the bytes as newer than their replies. -/
def Newer (s : State) (j line : Nat) (bs : List (Nat × PByte)) : Prop :=
  ∀ f ∈ (s.grp j).fetches, f.line = line → f.sent.isSome → ∀ b ∈ bs, b ∈ f.newer

theorem markNewer_newer (asid line : Nat) (bs : List (Nat × PByte)) (s : State) (j : Nat) (h : s.asidOf j = asid) :
    Newer (markNewer asid line bs s j) j line bs := by
  intro f hf hl hs b hb
  rw [grp_markNewer_same _ _ _ _ _ h] at hf
  obtain ⟨f, -, rfl⟩ := List.mem_map.mp hf
  rw [addNewer_line] at hl
  rw [addNewer_sent] at hs
  unfold addNewer
  rw [if_pos (by simp [hl, hs])]
  exact List.mem_append_right _ hb

/-- What a group knows to be newer it still knows after another is marked, or itself again. -/
theorem Newer.markNewer {s : State} {j line : Nat} {bs : List (Nat × PByte)} (h : Newer s j line bs) (asid k : Nat) :
    Newer (markNewer asid line bs s k) j line bs := by
  by_cases ha : s.asidOf k = asid
  · by_cases hj : j = k
    · subst hj
      exact markNewer_newer asid line bs s j ha
    · intro f hf
      rw [grp_markNewer_ne _ _ _ _ _ _ hj] at hf
      exact h f hf
  · rw [markNewer_other _ _ _ _ _ ha]
    exact h

/-- Every group of the core's that works in the context is marked (R153). -/
theorem newerThan_newer (s : State) (c asid line : Nat) (bs : List (Nat × PByte)) (j : Nat) (hj : j ∈ groupsOn s c) (ha : s.asidOf j = asid) :
    Newer (newerThan s c asid line bs) j line (bs.map (fun b => (line * 128 + b.1, b.2))) := by
  rw [newerThan_eq]
  generalize bs.map (fun b => (line * 128 + b.1, b.2)) = as
  generalize groupsOn s c = ks at hj
  have later : ∀ (ks : List Nat) (t : State), Newer t j line as → Newer (ks.foldl (markNewer asid line as) t) j line as := by
    intro ks
    induction ks with
    | nil => exact fun t h => h
    | cons k ks ih => exact fun t h => ih _ (h.markNewer asid k)
  induction ks generalizing s with
  | nil => cases hj
  | cons k ks ih =>
    rw [List.foldl_cons]
    rcases List.mem_cons.mp hj with rfl | hj
    · exact later ks _ (markNewer_newer asid line as s j ha)
    · exact ih _ (((markNewer_keeps asid line as s k).asidOf j).trans ha) hj

/-- What a write-back is, where there is something to write back and none is on its way (R151). -/
theorem sendWriteBack_eq {s : State} {c asid line : Nat} {x : L1Line} (h : l1Line s c asid line = some x) (hd : x.dirty ≠ 0)
    (hw : x.wb = false) :
    sendWriteBack s c asid line =
      setL1 (sendReq (newerThan s c asid line (lineBytes x.data x.poison x.dirty)) c 0 0 asid line (.write (lineBytes x.data x.poison x.dirty)))
        c asid line { x with dirty := 0, wb := true } := by
  unfold sendWriteBack
  simp only [h]
  exact if_neg (by simp [hw]; exact hd)

theorem sendWriteBack_keeps (s : State) (c asid line : Nat) : KeepsBehindL1 s (sendWriteBack s c asid line) := by
  unfold sendWriteBack
  split
  · exact .refl s
  · split
    · exact .refl s
    · exact ((newerThan_keeps ..).trans (sendReq_keeps ..)).trans (setL1_keeps ..)

/-! ## Room, and stores -/

theorem makeL1Room_keeps (s : State) (c line : Nat) (spall : Bool) : KeepsBehindL1 s (makeL1Room s c line spall) := by
  unfold makeL1Room
  split
  · exact .refl s
  · exact (sendWriteBack_keeps ..).trans (dropL1_keeps ..)

theorem allocL1_keeps (s : State) (c asid line : Nat) (spall hit : Bool) : KeepsBehindL1 s (allocL1 s c asid line spall hit).1 := by
  unfold allocL1
  split
  · exact .refl s
  · exact makeL1Room_keeps ..

theorem l1Store_keeps (s : State) (c asid line : Nat) (bs : List (Nat × PByte)) (spall : Bool) :
    KeepsBehindL1 s (l1Store s c asid line bs spall) :=
  (allocL1_keeps s c asid line spall true).trans (setL1_keeps ..)

/-- A line after a store of bytes at offsets in it: they are valid and dirty (R151). -/
def storedLine (x : L1Line) (bs : List (Nat × PByte)) : L1Line :=
  { x with data := mergeData x.data bs, poison := mergePoison x.poison bs, valid := x.valid ||| byteMask bs, dirty := x.dirty ||| byteMask bs }

theorem l1Line_l1Store (s : State) (c asid line : Nat) (bs : List (Nat × PByte)) (spall : Bool) :
    l1Line (l1Store s c asid line bs spall) c asid line = some (storedLine (allocL1 s c asid line spall true).2 bs) :=
  l1Line_setL1 ..

/-- A stored byte is dirty in L1 and reads as stored; a poisoned one is poisoned there. -/
theorem l1Store_byte (s : State) (c asid line : Nat) (bs : List (Nat × PByte)) (spall : Bool) (hn : (bs.map (·.1)).Nodup)
    (b : Nat × PByte) (hb : b ∈ bs) (hi : b.1 < 128) :
    let t := l1Store s c asid line bs spall
    l1Dirty t c asid (line * 128 + b.1) = true ∧
      ∃ p, l1Byte t c asid (line * 128 + b.1) = some ⟨b.2.val, p⟩ ∧ (b.2.poison = true → p = true) := by
  intro t
  have hm : (line * 128 + b.1) % 128 = b.1 := by omega
  have hl := l1Line_l1Store s c asid line bs spall
  have hset : (byteMask bs).getLsbD b.1 = true := (getLsbD_byteMask bs b.1 hi).mpr (List.mem_map_of_mem hb)
  have ho := lineOf_offset line b.1 hi
  have hvalid : ∀ m : BitVec 128, (m ||| byteMask bs).getLsbD b.1 = true := fun m => by rw [BitVec.getLsbD_or, hset, Bool.or_true]
  generalize (allocL1 s c asid line spall true).2 = x at hl
  have hl' : l1Line t c asid (lineOf (line * 128 + b.1)) = some (storedLine x bs) := by rw [ho]; exact hl
  refine ⟨?_, sectorPoison (mergePoison x.poison bs) b.1, ?_, fun hp => sectorPoison_mergePoison bs _ b hb hp hi⟩
  · rw [l1Dirty_of_line hl', hm]
    exact hvalid x.dirty
  · rw [l1Byte_of_line hl' (by rw [hm]; exact hvalid x.valid), hm]
    simp only [storedLine, getByte_mergeData_of_mem bs _ b hn hb hi]

end Sys2Proof.Machine
end

section
/-!
PROOF. O35: results, drains, fetches, write-backs and drops (R31, R151, R153, R232, R257), a clause at a time.
-/
namespace Sys2Proof.Machine
open Sys2Proof.Claims

/-! ## Results -/

/-- SCALAR_RESULT_WRITE takes from the busy list what has no operation and names the register (R232). -/
theorem scalarResultWrite_leaves (s : State)
    (h : ∃ x ∈ (s.grp s.cur.a).sbusy, x.op = 0 ∧ x.reg.toNat = s.cur.b) :
    Answers (exec .scalarResultWrite s) (fun t => OnlyGroup s t s.cur.a ∧
      { t.grp s.cur.a with sbusy := (s.grp s.cur.a).sbusy } = s.grp s.cur.a ∧
      ∀ x, x ∈ (t.grp s.cur.a).sbusy ↔ x ∈ (s.grp s.cur.a).sbusy ∧ ¬ (x.op = 0 ∧ x.reg.toNat = s.cur.b)) := by
  have hany : (s.grp s.cur.a).sbusy.any (fun x => decide (x.op = 0) && decide (x.reg.toNat = s.cur.b)) = true := by
    simpa using h
  refine ⟨_, if_pos hany, onlyGroup_setGrp s _ _, ?_, fun x => ?_⟩
  · rw [State.modGrp_eq, State.grp_setGrp]
  · rw [State.modGrp_eq, State.grp_setGrp, List.mem_filter]
    dsimp only
    rw [← Bool.decide_and, Bool.not_eq_true', decide_eq_false_iff_not]

/-- LANE_RESULT_WRITE takes the results of the word it names (R257). -/
theorem laneResultWrite_leaves (s : State) (h : ∃ x ∈ (s.grp s.cur.a).lbusy, x.id = s.cur.b) :
    Answers (exec .laneResultWrite s) (fun t => OnlyGroup s t s.cur.a ∧
      { t.grp s.cur.a with lbusy := (s.grp s.cur.a).lbusy } = s.grp s.cur.a ∧
      ∀ x, x ∈ (t.grp s.cur.a).lbusy ↔ x ∈ (s.grp s.cur.a).lbusy ∧ x.id ≠ s.cur.b) := by
  have hany : (s.grp s.cur.a).lbusy.any (fun x => decide (x.id = s.cur.b)) = true := by simpa using h
  refine ⟨_, if_pos hany, onlyGroup_setGrp s _ _, ?_, fun x => ?_⟩
  · rw [State.modGrp_eq, State.grp_setGrp]
  · rw [State.modGrp_eq, State.grp_setGrp]
    simp

/-! ## The end of an operation -/

theorem endIfEmpty_onlyGroups (s : State) (k op : Nat) : OnlyGroups s (endIfEmpty s k op) := by
  unfold endIfEmpty
  split <;> rfl

/-- The end of an operation touches its group's operations and the registers they hold. -/
theorem grp_endIfEmpty (s : State) (k op : Nat) :
    ∃ ops busy, (endIfEmpty s k op).grp k = { s.grp k with ops := ops, sbusy := busy } := by
  unfold endIfEmpty
  split
  · exact ⟨_, _, State.grp_setGrp s k _⟩
  · exact ⟨_, _, rfl⟩

/-! ## Drain -/

theorem l1Byte_cores {s t : State} (h : t.cores = s.cores) (c asid a : Nat) : l1Byte t c asid a = l1Byte s c asid a := by
  unfold l1Byte
  rw [l1Line_cores h]

theorem l1Dirty_cores {s t : State} (h : t.cores = s.cores) (c asid a : Nat) : l1Dirty t c asid a = l1Dirty s c asid a := by
  unfold l1Dirty
  rw [l1Line_cores h]

/-- The bytes of one line touch that line alone. -/
theorem linesTouched_oneLine (bs : List (Nat × PByte)) (line : Nat) (hne : bs ≠ []) (h : ∀ b ∈ bs, b.1 / 128 = line) :
    linesTouched bs = [line] := by
  cases bs with
  | nil => exact absurd rfl hne
  | cons b bs =>
    have hrest : (bs.map (fun b => lineOf b.1)).filter (fun l => !l == line) = [] := by
      rw [List.filter_eq_nil_iff]
      intro l hl
      obtain ⟨c, hc, rfl⟩ := List.mem_map.mp hl
      simp [lineOf, h c (List.mem_cons_of_mem _ hc)]
    have hb : lineOf b.1 = line := h b List.mem_cons_self
    rw [linesTouched, List.map_cons, hb, List.eraseDups_cons, hrest]
    rfl

/-- The bytes of one line, as offsets in it. -/
theorem bytesIn_oneLine (bs : List (Nat × PByte)) (line : Nat) (h : ∀ b ∈ bs, b.1 / 128 = line) :
    bytesIn line bs = bs.map (fun b => (b.1 % 128, b.2)) := by
  have hall : ∀ b ∈ bs, decide (lineOf b.1 = line) = true := fun b hb => decide_eq_true (h b hb)
  rw [bytesIn, List.filter_eq_self.mpr hall]

/-- Different addresses of one line are at different offsets in it. -/
theorem bytesIn_nodup (bs : List (Nat × PByte)) (line : Nat) (h : ∀ b ∈ bs, b.1 / 128 = line) (hn : (bs.map (·.1)).Nodup) :
    ((bytesIn line bs).map (·.1)).Nodup := by
  rw [bytesIn_oneLine bs line h, List.map_map]
  refine List.pairwise_map.mpr ((List.pairwise_map.mp hn).imp_of_mem fun {b c} hb hc hne heq => hne ?_)
  have h1 := h b hb
  have h2 := h c hc
  have h3 : b.1 % 128 = c.1 % 128 := heq
  omega

/-- The group's FIFO without its oldest entry. -/
def fifoTaken (s : State) (k : Nat) (rest : List StoreEnt) : State := s.modGrp k (fun g => { g with fifo := rest })

theorem coreOf_fifoTaken (s : State) (k : Nat) (rest : List StoreEnt) : (fifoTaken s k rest).coreOf k = s.coreOf k := by
  simp [fifoTaken, State.coreOf, State.teamOf]

/-- DRAIN of an entry whose one line has room. -/
theorem execDrain_eq (s : State) (e : StoreEnt) (rest : List StoreEnt) (line : Nat) (hf : (s.grp s.cur.a).fifo = e :: rest)
    (hl : linesTouched e.bytes = [line]) (hr : l1Room s (s.coreOf s.cur.a) e.asid line e.spall = true) :
    exec .drain s = .next (endIfEmpty (l1Store (fifoTaken s s.cur.a rest) (s.coreOf s.cur.a) e.asid line (bytesIn line e.bytes) e.spall)
      s.cur.a e.op) := by
  change execDrain s = _
  rw [← coreOf_fifoTaken s s.cur.a rest]
  unfold execDrain
  simp only [hf, hl, List.all_cons, List.all_nil, hr, Bool.and_self, Bool.not_true, Bool.false_eq_true, if_false, List.foldl_cons,
    List.foldl_nil]
  rfl

/-- DRAIN: the oldest entry leaves the FIFO, and its bytes are dirty in L1 (R151). -/
theorem drain_stores (s : State) (e : StoreEnt) (rest : List StoreEnt) (line : Nat) (hf : (s.grp s.cur.a).fifo = e :: rest)
    (hne : e.bytes ≠ []) (hb : ∀ b ∈ e.bytes, b.1 / 128 = line) (hn : (e.bytes.map (·.1)).Nodup)
    (hr : l1Room s (s.coreOf s.cur.a) e.asid line e.spall = true) :
    Answers (exec .drain s) (fun t => (t.grp s.cur.a).fifo = rest ∧ (t.grp s.cur.a).v = (s.grp s.cur.a).v ∧
      (t.grp s.cur.a).s = (s.grp s.cur.a).s ∧ t.hbm = s.hbm ∧ t.l2 = s.l2 ∧
      ∀ b ∈ e.bytes, l1Dirty t (s.coreOf s.cur.a) e.asid b.1 = true ∧
        ∃ p, l1Byte t (s.coreOf s.cur.a) e.asid b.1 = some ⟨b.2.val, p⟩ ∧ (b.2.poison = true → p = true)) := by
  refine ⟨_, execDrain_eq s e rest line hf (linesTouched_oneLine _ _ hne hb) hr, ?_⟩
  generalize s.cur.a = k at *
  have hbyte := l1Store_byte (fifoTaken s k rest) (s.coreOf k) e.asid line (bytesIn line e.bytes) e.spall (bytesIn_nodup _ _ hb hn)
  have hkeep := l1Store_keeps (fifoTaken s k rest) (s.coreOf k) e.asid line (bytesIn line e.bytes) e.spall
  generalize l1Store (fifoTaken s k rest) (s.coreOf k) e.asid line (bytesIn line e.bytes) e.spall = u at *
  have hend := endIfEmpty_onlyGroups u k e.op
  have htaken : (fifoTaken s k rest).grp k = { s.grp k with fifo := rest } := State.grp_setGrp s k _
  obtain ⟨ops, busy, hdone⟩ := grp_endIfEmpty u k e.op
  have hfifo : (u.grp k).fifo = rest := by rw [keepsFetches_fifo (hkeep.groups k), htaken]
  have hv : (u.grp k).v = (s.grp k).v := by rw [keepsFetches_v (hkeep.groups k), htaken]
  have hs : (u.grp k).s = (s.grp k).s := by rw [keepsFetches_s (hkeep.groups k), htaken]
  rw [hdone]
  refine ⟨hfifo, hv, hs, hend.hbm.trans hkeep.hbm, hend.l2.trans hkeep.l2, fun b hmem => ?_⟩
  have hin : (b.1 % 128, b.2) ∈ bytesIn line e.bytes := by
    rw [bytesIn_oneLine _ _ hb]
    exact List.mem_map_of_mem (f := fun b : Nat × PByte => (b.1 % 128, b.2)) hmem
  have haddr : line * 128 + b.1 % 128 = b.1 := by
    have := hb b hmem
    omega
  rw [l1Dirty_cores hend.cores, l1Byte_cores hend.cores]
  have h := hbyte _ hin (Nat.mod_lt _ (by decide))
  dsimp only at h
  rwa [haddr] at h

/-! ## Fetch -/

/-- The request as sent under a message's identifier. -/
def sentAs (id : Nat) (f : Fetch) (x : Fetch) : Fetch :=
  if x.op = f.op && decide (x.line = f.line) && x.sent.isNone && x.faulted.isNone && decide (x.body = f.body) then { x with sent := some id } else x

theorem sentAs_self (id : Nat) (f : Fetch) (hs : f.sent = none) (hf : f.faulted = none) : sentAs id f f = { f with sent := some id } := by
  simp [sentAs, hs, hf]

theorem readyToSend_sector (s : State) (k : Nat) (f : Fetch) (sec : Nat) (sp : Bool) (hb : f.body = .fetch sec sp) :
    readyToSend s k f = some s := by
  simp [readyToSend, hb]

/-- A sector's fetch is sent at once (R151). -/
theorem sendFetch_sector (s : State) (k : Nat) (f : Fetch) (sec : Nat) (sp : Bool) (hb : f.body = .fetch sec sp) :
    sendFetch s k f = (sendReq s (s.coreOf k) k f.op (s.asidOf k) f.line f.body).modGrp k
      (fun g => { g with fetches := g.fetches.map (sentAs s.nextId f) }) := by
  unfold sendFetch
  rw [readyToSend_sector s k f sec sp hb]
  rfl

theorem execFetch_eq (s : State) (f : Fetch) (rest : List Fetch) (sec : Nat) (sp : Bool) (hg : (s.grp s.cur.a).fetches = f :: rest)
    (hs : f.sent = none) (hf : f.faulted = none) (hb : f.body = .fetch sec sp) : exec .fetch s = .next (sendFetch s s.cur.a f) := by
  change execFetch s = _
  unfold execFetch
  simp [hg, hs, hf, readyToSend_sector s s.cur.a f sec sp hb]

/-- FETCH: the group's first request goes out under its line's next number (R151, R152). -/
theorem fetch_sends (s : State) (f : Fetch) (rest : List Fetch) (sec : Nat) (sp : Bool) (hg : (s.grp s.cur.a).fetches = f :: rest)
    (hs : f.sent = none) (hf : f.faulted = none) (hb : f.body = .fetch sec sp) :
    Answers (exec .fetch s) (fun t => SameMemory s { t with fabric := s.fabric } ∧
      AMap.get 0 t.sendNum (numKey (s.coreOf s.cur.a) (s.asidOf s.cur.a) f.line)
        = AMap.get 0 s.sendNum (numKey (s.coreOf s.cur.a) (s.asidOf s.cur.a) f.line) + 1 ∧
      ∃ m, t.fabric = s.fabric ++ [m] ∧ m.requester = s.coreOf s.cur.a ∧ m.asid = s.asidOf s.cur.a ∧ m.line = f.line ∧ m.grp = s.cur.a ∧
        m.op = f.op ∧ m.num = AMap.get 0 s.sendNum (numKey (s.coreOf s.cur.a) (s.asidOf s.cur.a) f.line) ∧ m.body = .req (.fetch sec sp) ∧
        m.slice = sliceFor s (s.coreOf s.cur.a) (s.asidOf s.cur.a) f.line ∧
        ∃ y ∈ (t.grp s.cur.a).fetches, y.op = f.op ∧ y.line = f.line ∧ y.sent = some m.id) := by
  refine ⟨_, execFetch_eq s f rest sec sp hg hs hf hb, ?_⟩
  rw [sendFetch_sector s _ f sec sp hb]
  refine ⟨⟨rfl, rfl, rfl, rfl, rfl, fun _ => ⟨rfl, rfl, rfl, rfl⟩⟩, AMap.get_put _ _ _ _, _, rfl, rfl, rfl, rfl, rfl, rfl, rfl,
    congrArg MsgBody.req hb, rfl, { f with sent := some s.nextId }, ?_, rfl, rfl, rfl⟩
  rw [State.modGrp_eq, State.grp_setGrp, ← sentAs_self s.nextId f hs hf]
  refine List.mem_map_of_mem ?_
  change f ∈ (s.grp s.cur.a).fetches
  rw [hg]
  exact List.mem_cons_self

/-! ## Write-back and drop -/

theorem execWriteback_eq (s : State) (x : L1Line) (h : l1Line s s.cur.a s.cur.b s.cur.c = some x) (hd : x.dirty ≠ 0) (hw : x.wb = false) :
    exec .writeback s = .next (sendWriteBack s s.cur.a s.cur.b s.cur.c) := by
  change execWriteback s = _
  unfold execWriteback
  simp only [h]
  exact if_neg (by simp [hw]; exact hd)

/-- WRITEBACK: the line's dirty bytes go out and stay valid-clean, newer than the replies that its requests await (R151, R153). -/
theorem writeback_sends (s : State) (x : L1Line) (h : l1Line s s.cur.a s.cur.b s.cur.c = some x) (hd : x.dirty ≠ 0) (hw : x.wb = false) :
    Answers (exec .writeback s) (fun t =>
      l1Line t s.cur.a s.cur.b s.cur.c = some { x with dirty := 0, wb := true } ∧ t.l2 = s.l2 ∧ t.hbm = s.hbm ∧ (∀ j, KeepsFetches s t j) ∧
      ∃ m bs, t.fabric = s.fabric ++ [m] ∧ m.requester = s.cur.a ∧ m.asid = s.cur.b ∧ m.line = s.cur.c ∧ m.body = .req (.write bs) ∧
        (∀ j ∈ groupsOn s s.cur.a, s.asidOf j = s.cur.b → ∀ f ∈ (t.grp j).fetches, f.line = s.cur.c → f.sent.isSome →
          ∀ b ∈ bs, (s.cur.c * 128 + b.1, b.2) ∈ f.newer) ∧
        ∀ i, i < 128 → ∀ v, (i, v) ∈ bs ↔
          x.dirty.getLsbD i = true ∧ v = ⟨x.data.extractLsb' (8 * i) 8, x.poison.getLsbD (i / 32)⟩) := by
  refine ⟨_, execWriteback_eq s x h hd hw, ?_⟩
  have hkeep := sendWriteBack_keeps s s.cur.a s.cur.b s.cur.c
  rw [sendWriteBack_eq h hd hw] at hkeep ⊢
  refine ⟨l1Line_setL1 .., hkeep.l2, hkeep.hbm, hkeep.groups, ?msg⟩
  have hsent : (newerThan s s.cur.a s.cur.b s.cur.c (lineBytes x.data x.poison x.dirty)).fabric = s.fabric :=
    (newerThan_onlyGroups ..).fabric
  refine ⟨_, lineBytes x.data x.poison x.dirty, congrArg (· ++ _) hsent, rfl, rfl, rfl, rfl, ?newer,
    fun i hi v => mem_lineBytes _ _ _ _ _ hi⟩
  intro j hj ha f hf hl hs b hb
  exact newerThan_newer s _ _ _ _ j hj ha f hf hl hs _ (List.mem_map_of_mem (f := fun b : Nat × PByte => (s.cur.c * 128 + b.1, b.2)) hb)

/-- DROP: a line without a dirty byte leaves, and no other line of its context differs (R151). -/
theorem drop_leaves (s : State) (x : L1Line) (h : l1Line s s.cur.a s.cur.b s.cur.c = some x) (hd : x.dirty = 0) :
    Answers (exec .drop s) (fun t => l1Line t s.cur.a s.cur.b s.cur.c = none ∧ t.groups = s.groups ∧ t.l2 = s.l2 ∧ t.hbm = s.hbm ∧
      t.fabric = s.fabric ∧ ∀ line, lineKey s.cur.b line ≠ lineKey s.cur.b s.cur.c →
        l1Line t s.cur.a s.cur.b line = l1Line s s.cur.a s.cur.b line) := by
  have he : exec .drop s = .next (dropL1 s s.cur.a s.cur.b s.cur.c) := by
    change execDrop s = _
    unfold execDrop
    simp only [h]
    exact if_neg fun hne => hne hd
  exact ⟨_, he, l1Line_dropL1 .., rfl, rfl, rfl, rfl, fun line hne => l1Line_dropL1_ne s _ _ _ _ hne⟩

/-- Settles O35, a clause at a time. -/
theorem resultAndCacheSteps : Obligations.ResultAndCacheSteps := by
  intro s
  exact ⟨scalarResultWrite_leaves s, laneResultWrite_leaves s, drain_stores s, fetch_sends s,
    fun x h => ⟨writeback_sends s x h, drop_leaves s x h⟩⟩

end Sys2Proof.Machine
end

section
/-!
PROOF. The steps of the lines of memory (R150–R153, R358): O36 fails where two messages that wait at a router bear one identifier.
-/
namespace Sys2Proof.Machine
open Sys2Proof.Claims

/-! ## A read and a later write wait for one line, and the question of its slice bears the name of the read -/

/-- Message n of a requester about line 0 of context 1, waiting to be performed. -/
def waitingMsg (n requester : Nat) (b : MsgBody) : Msg :=
  { id := n, requester := requester, grp := 0, op := 0, asid := 1, line := 0, num := 0, slice := 0, body := b, inj := none, router := 0,
    plane := false, weep := false, suspect := false, late := false }

/-- What the slice asks of the home controller of the line. -/
def lineAsked : Msg := waitingMsg 5 0 (.line false)

/-- The read that the line is asked for, under the name of the slice's own message. -/
def readNamesake : Msg := waitingMsg 5 0 (.req (.fetch 0 false))

/-- A write-back of another core, due after the read. -/
def writeBehind : Msg := waitingMsg 6 1 (.req (.write [(0, ⟨0, false⟩)]))

/-- A page of HBM that may not be written. -/
def readOnlyPage : Leaf := ⟨0, 2 ^ 16, 0, false⟩

/-- The controller holds the translation of the line, and the step names the slice's message. -/
def namesakes : State :=
  { State.reset with
    arrived := [lineAsked, readNamesake, writeBehind]
    tlb := [(homeCtrl 1 0, 1, 0, false, leafWord readOnlyPage)]
    cur := { noSubject with b := 5 } }

theorem cached_namesakes : cached namesakes 1 0 = some readOnlyPage := by decide +kernel

/-- Before the message is dealt with, the read is next at the line; afterwards the write is, since the read has left with its namesake. -/
theorem nextFor_namesakes :
    nextFor namesakes 1 0 = some readNamesake ∧ nextFor (dealtWith namesakes lineAsked) 1 0 = some writeBehind := by
  decide +kernel

/-- The HBM reads under way after a step. -/
def readsAfter : Out → Option (List HbmReq)
  | .next t => some t.hbmReqs
  | _ => none

/-- The controller takes the line for one to be written, and reads no half of it. -/
theorem translate_namesakes : readsAfter (exec .translate namesakes) = some [] := by decide +kernel

/-- Refutes O36: the hypothesis of the controllers' clause speaks of the request that is next at the line before the message is dealt
with, but the step looks for it afterwards; with a read under the identifier of the message it finds the write behind the read, which
the page does not allow, and asks for no half. -/
theorem not_fabricAndSliceSteps : ¬ Obligations.FabricAndSliceSteps := by
  rintro ⟨-, -, -, -, hc⟩
  have hwrite : ∀ r, nextFor namesakes 1 0 = some r → wantsWrite r = true → readOnlyPage.writable = true := by
    intro r hr hw
    rw [nextFor_namesakes.1] at hr
    cases hr
    cases hw
  obtain ⟨t, ht, -, -, r, -, -, hreqs, -⟩ :=
    (hc namesakes lineAsked rfl).1 false readOnlyPage rfl (by decide +kernel) cached_namesakes rfl rfl hwrite
  have hnone := translate_namesakes
  rw [ht] at hnone
  simp only [readsAfter, Option.some.injEq, hreqs] at hnone
  exact absurd hnone (by simp)

/-! ## What the clause needs besides -/

/-- A search finds the same in the part of a list that holds all it looks for. -/
theorem find?_filter_of_imp {α : Type} (l : List α) (p q : α → Bool) (h : ∀ x ∈ l, q x = true → p x = true) :
    (l.filter p).find? q = l.find? q := by
  induction l with
  | nil => rfl
  | cons x l ih =>
    have ih' := ih fun y hy => h y (List.mem_cons_of_mem _ hy)
    cases hq : q x with
    | true => rw [List.filter_cons_of_pos (h x List.mem_cons_self hq), List.find?_cons_of_pos hq, List.find?_cons_of_pos hq]
    | false =>
      have hq' : ¬ q x = true := by rw [hq]; exact Bool.false_ne_true
      rw [List.find?_cons_of_neg hq', List.filter_cons]
      split
      · rw [List.find?_cons_of_neg hq', ih']
      · exact ih'

/-- A message that is no request leaves the request that is next at a line, where no other message bears its identifier. -/
theorem nextFor_dealtWith (s : State) (m : Msg) (spall : Bool) (asid line : Nat) (hm : m.body = .line spall)
    (hone : ∀ x ∈ s.arrived, x.id = m.id → x = m) : nextFor (dealtWith s m) asid line = nextFor s asid line := by
  refine find?_filter_of_imp s.arrived _ _ fun x hx hnext => ?_
  have hnum : numbered s x = true := (Bool.and_eq_true_iff.mp hnext).2
  refine decide_eq_true fun hid => ?_
  rw [hone x hx hid, numbered, hm] at hnum
  cases hnum

/-- The controller's choice under O36's hypotheses, with one message to an identifier: it asks for the line, as the clause says. -/
theorem homeLine_asks (s : State) (m : Msg) (spall : Bool) (l : Leaf) (hm : m.body = .line spall)
    (hone : ∀ x ∈ s.arrived, x.id = m.id → x = m) (hl2 : l2Line s m.asid m.line = none) (ht : l.tgt = 0)
    (hw : ∀ r, nextFor s m.asid m.line = some r → wantsWrite r = true → l.writable = true) :
    homeLine (dealtWith s m) m l spall = .inl (askLine (dealtWith s m) m.asid m.line l spall) := by
  have hl2' : l2Line (dealtWith s m) m.asid m.line = none := hl2
  unfold homeLine
  rw [nextFor_dealtWith s m spall _ _ hm hone, hl2']
  cases hr : nextFor s m.asid m.line with
  | none => rfl
  | some r =>
    have hgo : (wantsWrite r && !l.writable) = false := by
      cases hwr : wantsWrite r with
      | false => rfl
      | true => rw [hw r hr hwr]; rfl
    simp [hgo, ht]

end Sys2Proof.Machine
end

section
/-!
PROOF. O46: what every command of QCMD comes to (R85–R92), the doorbell (R87, R90), the packet at the head (R95), slots (R97, R99) and
LAUNCH (R101).
-/
namespace Sys2Proof.Machine
open Sys2Proof.Claims

/-! ## Commands -/

/-- A write of the host's that reaches the device is performed at once (R170, R391, R457, R459). -/
theorem hostWrite_here {s : State} (h : HostHere s) (i : Instr) (body : State → Out) : hostWrite i s body = body s := by
  obtain ⟨hlink, hpower, hready, hahead⟩ := h
  simp [hostWrite, hostPosted, hostAccess, inTurn, hlink, hpower, hready, hahead]

theorem QueueMay.state {s : State} {st : QState} (h : QueueMay s st) : (s.queue (cmdQid s.cur.val)).state = st := h.2.2

theorem queueCommand_taken {s : State} {st : QState} (h : QueueMay s st) (i : Instr) (body : Nat → State → Out) :
    queueCommand i s body = body (cmdQid s.cur.val) s := by
  obtain ⟨hhost, hbusy, -⟩ := h
  rw [queueCommand, hostWrite_here hhost, if_neg (by simp [hbusy])]

/-- A command that ends without an error reports the state its queue has (R89). -/
theorem queueDone_endQueueCmd {t : State} {qid : Nat} {st : QState} (h : (t.queue qid).state = st) :
    QueueDone (endQueueCmd t qid 0) qid st :=
  ⟨h, rfl, rfl, rfl, congrArg qStateCode h⟩

theorem Answers.imp {o : Out} {P Q : State → Prop} (h : Answers o P) (hpq : ∀ t, P t → Q t) : Answers o Q := by
  obtain ⟨t, ht, hp⟩ := h
  exact ⟨t, ht, hpq t hp⟩

/-- A command taken in a state it is allowed in makes its change, and ends. -/
theorem queueChange_leaves {s : State} {st : QState} {x : Queue} (h : QueueMay s st) (i : Instr) (from0 : QState → Bool)
    (change : Nat → State → State) (hfrom : from0 st = true) (hx : (change (cmdQid s.cur.val) s).queue (cmdQid s.cur.val) = x) :
    Answers (queueChange i s from0 change) (fun t => QueueDone t (cmdQid s.cur.val) x.state ∧ t.queue (cmdQid s.cur.val) = x) := by
  have hallowed : from0 (s.queue (cmdQid s.cur.val)).state = true := by
    rw [QueueMay.state h]
    exact hfrom
  refine ⟨_, ?_, queueDone_endQueueCmd (congrArg Queue.state hx), hx⟩
  rw [queueChange, queueCommand_taken h, if_pos hallowed]

/-- The queue that a descriptor of R85 and the RD found at its place make (log 39: WR is taken to be RD). -/
def registered (asid : Nat) (bs rd : List PByte) : Queue :=
  { freeQueue with
    state := .disabled, asid := asid, ring := field bs 0 8, log2n := field bs 8 1, prio := field bs 9 1,
    devlaunch := decide (field bs 0xA 2 = 1), wraddr := field bs 0x10 8, rdaddr := field bs 0x18 8,
    wr := BitVec.ofNat 64 (pvalue rd), rd := BitVec.ofNat 64 (pvalue rd) }

/-- REGISTER of a free queue with a good descriptor, both reads at their slices. -/
theorem registerQueue_eq {s s1 s2 : State} {v : DWord} {bs rd : List PByte} (hfree : (s.queue (cmdQid v)).state = .free)
    (hctx : (s.ctx (cmdAsid v)).state = .created ∨ (s.ctx (cmdAsid v)).state = .active ∨ (s.ctx (cmdAsid v)).state = .suspended)
    (halign : s.regs.qarg.toNat % 64 = 0) (hend : s.regs.qarg.toNat + 64 ≤ linearEnd)
    (hdesc : peek s (cmdAsid v) s.regs.qarg.toNat 64 = .ok bs s1) (hok : queueDescOk (s1.ctx (cmdAsid v)) bs = true)
    (hrd : peek s1 (cmdAsid v) (field bs 0x18 8) 8 = .ok rd s2) :
    registerQueue s v = .next (endQueueCmd (s2.setQueue (cmdQid v) (registered (cmdAsid v) bs rd)) (cmdQid v) 0) := by
  have hin : ¬ linearEnd < s.regs.qarg.toNat + 64 := Nat.not_lt.mpr hend
  unfold registerQueue
  rcases hctx with hc | hc | hc <;> simp [hfree, hc, halign, hin, hdesc, hok, hrd, registered]

theorem qRegister_registers (s : State) (bs : List PByte) (s1 : State) (rd : List PByte) (s2 : State) (h : QueueMay s .free)
    (hflag : s.cur.flag = false)
    (hctx : (s.ctx (cmdAsid s.cur.val)).state = .created ∨ (s.ctx (cmdAsid s.cur.val)).state = .active ∨
      (s.ctx (cmdAsid s.cur.val)).state = .suspended)
    (halign : s.regs.qarg.toNat % 64 = 0) (hend : s.regs.qarg.toNat + 64 ≤ linearEnd)
    (hdesc : peek s (cmdAsid s.cur.val) s.regs.qarg.toNat 64 = .ok bs s1) (hok : queueDescOk (s1.ctx (cmdAsid s.cur.val)) bs = true)
    (hrd : peek s1 (cmdAsid s.cur.val) (field bs 0x18 8) 8 = .ok rd s2) :
    Answers (exec .qRegister s) (fun t =>
      let q := t.queue (cmdQid s.cur.val)
      QueueDone t (cmdQid s.cur.val) .disabled ∧ q.asid = cmdAsid s.cur.val ∧ q.ring = field bs 0 8 ∧ q.log2n = field bs 8 1 ∧
        q.prio = field bs 9 1 ∧ q.wraddr = field bs 0x10 8 ∧ q.rdaddr = field bs 0x18 8 ∧ q.rd = BitVec.ofNat 64 (pvalue rd) ∧
        q.wr = q.rd) := by
  have hexec : exec .qRegister s = registerQueue s s.cur.val := by
    change execQRegister s = _
    rw [execQRegister, if_neg (by simp [hflag]), queueCommand_taken h]
  have hq : (endQueueCmd (s2.setQueue (cmdQid s.cur.val) (registered (cmdAsid s.cur.val) bs rd)) (cmdQid s.cur.val) 0).queue (cmdQid s.cur.val)
      = registered (cmdAsid s.cur.val) bs rd := State.queue_setQueue ..
  refine ⟨_, hexec.trans (registerQueue_eq (QueueMay.state h) hctx halign hend hdesc hok hrd), ?_⟩
  dsimp only
  refine ⟨queueDone_endQueueCmd (congrArg Queue.state hq), ?_⟩
  rw [hq]
  exact ⟨rfl, rfl, rfl, rfl, rfl, rfl, rfl, rfl⟩

theorem qEnable_enables (s : State) (h : QueueMay s .disabled) :
    Answers (exec .qEnable s) (fun t => QueueDone t (cmdQid s.cur.val) .enabled ∧ (t.queue (cmdQid s.cur.val)).bell = true) := by
  change Answers (execQEnable s) _
  unfold execQEnable
  exact (queueChange_leaves h _ _ _ rfl (State.queue_setQueue s _ _)).imp fun t ⟨hdone, hq⟩ => ⟨hdone, congrArg Queue.bell hq⟩

/-! ### What gives up a slot -/

/-- A queue that gives up its slot changes in nothing but that and the start of its wait. -/
theorem queue_releaseSlot (s : State) (qid : Nat) : ∃ taken since,
    (releaseSlot s qid).queue qid = { s.queue qid with slot := none, taken := taken, since := since } := by
  unfold releaseSlot
  dsimp only
  split
  · rename_i hslot
    exact ⟨(s.queue qid).taken, (s.queue qid).since, by rw [← hslot]⟩
  · exact ⟨false, s.steps, State.queue_setQueue _ qid _⟩

theorem releaseSlot_groups (s : State) (qid : Nat) : (releaseSlot s qid).groups = s.groups := by
  unfold releaseSlot
  dsimp only
  split <;> rfl

theorem releaseSlot_slot (s : State) (qid : Nat) : ((releaseSlot s qid).queue qid).slot = none := by
  obtain ⟨taken, since, hq⟩ := queue_releaseSlot s qid
  rw [hq]

/-- A head that is dropped from Waiting does not come to dispatch. -/
theorem dropWaiting_head (s : State) (qid : Nat) (h : (s.queue qid).head ≠ .dispatching) :
    ((dropWaiting s qid).queue qid).head ≠ .dispatching := by
  unfold dropWaiting
  dsimp only
  split
  · rw [State.queue_setQueue]
    nofun
  · exact h

/-- The queue DISABLE leaves, before it gives up its slot. -/
def disabledQueue (s : State) (qid : Nat) : State :=
  (dropWaiting s qid).modQueue qid (fun q => { q with state := .disabled, lastst := 0, bell := false })

theorem queue_disabledQueue (s : State) (qid : Nat) : (disabledQueue s qid).queue qid
    = { (dropWaiting s qid).queue qid with state := .disabled, lastst := 0, bell := false } := State.queue_setQueue _ qid _

/-- DISABLE gives up the slot at once, unless a packet is in Dispatching (R92). -/
theorem execQDisable_eq (s : State) :
    execQDisable s = queueChange .qDisable s (fun q => decide (q = .enabled) || decide (q = .halted)) (fun qid s =>
      if ((disabledQueue s qid).queue qid).head = .dispatching then disabledQueue s qid else releaseSlot (disabledQueue s qid) qid) := rfl

theorem qDisable_disables (s : State) (h : QueueMay s .enabled ∨ QueueMay s .halted) (hhead : (s.queue (cmdQid s.cur.val)).head ≠ .dispatching) :
    Answers (exec .qDisable s) (fun t => QueueDone t (cmdQid s.cur.val) .disabled ∧ (t.queue (cmdQid s.cur.val)).slot = none ∧
      (t.queue (cmdQid s.cur.val)).bell = false) := by
  have hnot : ((disabledQueue s (cmdQid s.cur.val)).queue (cmdQid s.cur.val)).head ≠ .dispatching := by
    rw [queue_disabledQueue]
    exact dropWaiting_head s _ hhead
  obtain ⟨taken, since, hq⟩ := queue_releaseSlot (disabledQueue s (cmdQid s.cur.val)) (cmdQid s.cur.val)
  rw [queue_disabledQueue] at hq
  have allowed {st : QState} (h : QueueMay s st) (hst : (decide (st = .enabled) || decide (st = .halted)) = true) :=
    queueChange_leaves h .qDisable (fun q => decide (q = .enabled) || decide (q = .halted)) (fun qid s =>
      if ((disabledQueue s qid).queue qid).head = .dispatching then disabledQueue s qid else releaseSlot (disabledQueue s qid) qid) hst
      ((congrArg (State.queue · _) (if_neg hnot)).trans hq)
  change Answers (execQDisable s) _
  rw [execQDisable_eq]
  exact (h.elim (allowed · rfl) (allowed · rfl)).imp fun t ⟨hdone, hq⟩ => ⟨hdone, congrArg Queue.slot hq, congrArg Queue.bell hq⟩

theorem qResume_resumes (s : State) (h : QueueMay s .halted) :
    Answers (exec .qResume s) (fun t => QueueDone t (cmdQid s.cur.val) .enabled ∧ (t.queue (cmdQid s.cur.val)).lastst = 0 ∧
      (t.queue (cmdQid s.cur.val)).rd = (s.queue (cmdQid s.cur.val)).rd) := by
  change Answers (execQResume s) _
  unfold execQResume
  refine (queueChange_leaves h _ _ _ rfl (State.queue_setQueue s _ _)).imp ?_
  rintro t ⟨hdone, hq⟩
  exact ⟨hdone, by rw [hq], by rw [hq]⟩

/-- SKIP: whatever the write of RD meets, the queue goes on past the packet (R92). -/
theorem qSkip_skips (s : State) (h : QueueMay s .halted) :
    Answers (exec .qSkip s) (fun t => QueueDone t (cmdQid s.cur.val) .enabled ∧
      (t.queue (cmdQid s.cur.val)).rd = (s.queue (cmdQid s.cur.val)).rd + 1 ∧ (t.queue (cmdQid s.cur.val)).prevDone = true) := by
  change Answers (execQSkip s) _
  unfold execQSkip
  exact (queueChange_leaves h _ _ _ rfl (State.queue_setQueue _ _ _)).imp fun t ⟨hdone, hq⟩ =>
    ⟨hdone, congrArg Queue.rd hq, congrArg Queue.prevDone hq⟩

theorem qUnregister_frees (s : State) (h : QueueMay s .disabled) (hflag : s.cur.flag = false)
    (hhead : (s.queue (cmdQid s.cur.val)).head ≠ .dispatching) :
    Answers (exec .qUnregister s) (fun t => QueueDone t (cmdQid s.cur.val) .free) := by
  have hexec : exec .qUnregister s = .next (freeNumber s (cmdQid s.cur.val)) := by
    change execQUnregister s = _
    rw [execQUnregister, if_neg (by simp [hflag]), queueCommand_taken h, if_neg (by simp [QueueMay.state h, isDisabled]), if_neg hhead]
  exact ⟨_, hexec, queueDone_endQueueCmd (congrArg Queue.state (State.queue_setQueue _ _ freeQueue))⟩

theorem qQuery_reports (s : State) (st : QState) (h : QueueMay s st) :
    Answers (exec .qQuery s) (fun t => QueueDone t (cmdQid s.cur.val) st ∧ t.queues = s.queues ∧ t.groups = s.groups) := by
  have hexec : exec .qQuery s = .next (endQueueCmd s (cmdQid s.cur.val) 0) := by
    change execQQuery s = _
    rw [execQQuery, queueCommand_taken h]
  exact ⟨_, hexec, queueDone_endQueueCmd (QueueMay.state h), rfl, rfl⟩

/-! ## The doorbell -/

/-- The host's doorbell asks for the queue's WR (R87, R90). -/
theorem qbell_asks (s : State) (h : HostHere s) (hflag : s.cur.flag = false) (hst : (s.queue (s.cur.val.toNat % 4096)).state = .enabled)
    (hdev : (s.queue (s.cur.val.toNat % 4096)).devlaunch = false) :
    Answers (exec .qbell s) (fun t => t.queue (s.cur.val.toNat % 4096) = { s.queue (s.cur.val.toNat % 4096) with bell := true } ∧
      t.groups = s.groups) := by
  refine ⟨_, ?_, State.queue_setQueue s _ _, rfl⟩
  change execQbell s = _
  rw [execQbell, if_neg (by simp [hflag]), hostWrite_here h]
  simp [hst, hdev]

/-- The read that a doorbell asked for raises WR, and never lowers it. -/
theorem qbell_rereads (s : State) (bs : List PByte) (s' : State) (hflag : s.cur.flag = true) (hbell : (s.queue s.cur.a).bell = true)
    (hst : (s.queue s.cur.a).state = .enabled) (hpage : pagePending s (s.queue s.cur.a).asid (s.queue s.cur.a).wraddr = false)
    (hpeek : peek s (s.queue s.cur.a).asid (s.queue s.cur.a).wraddr 8 = .ok bs s') (hclean : ppoison bs = false) :
    Answers (exec .qbell s) (fun t => (t.queue s.cur.a).bell = false ∧
      ((s.queue s.cur.a).wr.toNat < pvalue bs → (t.queue s.cur.a).wr = BitVec.ofNat 64 (pvalue bs)) ∧
      (pvalue bs ≤ (s.queue s.cur.a).wr.toNat → (t.queue s.cur.a).wr = (s.queue s.cur.a).wr)) := by
  have hexec : exec .qbell s = .next (s'.setQueue s.cur.a { s.queue s.cur.a with
      bell := false, wr := if (s.queue s.cur.a).wr.toNat < pvalue bs then BitVec.ofNat 64 (pvalue bs) else (s.queue s.cur.a).wr }) := by
    change execQbell s = _
    rw [execQbell, if_pos hflag]
    simp [hbell, hst, rereadWr, hpage, hpeek, hclean]
  refine ⟨_, hexec, ?_⟩
  dsimp only
  rw [State.queue_setQueue]
  exact ⟨rfl, fun h => if_pos h, fun h => if_neg (Nat.not_lt.mpr h)⟩

/-! ## The packet at the head -/

/-- A rejected packet halts its queue, which gives up its slot (R92, R95). -/
theorem rejectPacket_halts (s : State) (qid code : Nat) :
    let q := (rejectPacket s qid code).queue qid
    q.state = .halted ∧ q.lastst = code ∧ q.slot = none ∧ q.head = .none := by
  obtain ⟨taken, since, hq⟩ := queue_releaseSlot (State.setQueue _ qid
    { s.queue qid with state := .halted, lastst := code, head := .none, kernel := 0, bell := false }) qid
  rw [State.queue_setQueue] at hq
  exact ⟨congrArg Queue.state hq, congrArg Queue.lastst hq, congrArg Queue.slot hq, congrArg Queue.head hq⟩

/-- What the checks of the packet at the head of queue n make of it (R95). -/
def headChecked (n : Nat) (q : Queue) : Checked → Out
  | .ok kn s => .next ((s.setKernel s.nextId kn).setQueue n { q with head := .waiting, kernel := s.nextId }).bump
  | .bad code s => .next (rejectPacket s n code)
  | .away s => .next (notOffered s)

/-- PACKET_HEAD_CHECK of a mapped queue that has something for it, the packet's bytes at their slices. -/
theorem execPacketHeadCheck_eq {s s' : State} {bs : List PByte} (hslot : (s.queue s.cur.a).slot ≠ none) (htaken : (s.queue s.cur.a).taken = false)
    (hbell : (s.queue s.cur.a).bell = false) (hhead : (s.queue s.cur.a).head = .none) (hst : (s.queue s.cur.a).state = .enabled)
    (hwants : wantsSlot s (s.queue s.cur.a) = true)
    (hpeek : peek s (s.queue s.cur.a).asid (packetAddr (s.queue s.cur.a) (s.queue s.cur.a).rd.toNat) 128 = .ok bs s') :
    exec .packetHeadCheck s = headChecked s.cur.a (s.queue s.cur.a) (checkPacket s' (s.queue s.cur.a) s.cur.a bs) := by
  have hmapped : (s.queue s.cur.a).slot.isNone = false := Option.isNone_eq_false_iff.mpr (Option.isSome_iff_ne_none.mpr hslot)
  change execPacketHeadCheck s = _
  unfold execPacketHeadCheck
  dsimp only
  rw [if_neg (by simp [hmapped, htaken, hbell, hhead, hst, hwants]), hpeek]
  dsimp only
  cases checkPacket s' (s.queue s.cur.a) s.cur.a bs <;> rfl

theorem packetHeadCheck_checks (s : State) (bs : List PByte) (s' : State) (hslot : (s.queue s.cur.a).slot ≠ none)
    (htaken : (s.queue s.cur.a).taken = false) (hbell : (s.queue s.cur.a).bell = false) (hhead : (s.queue s.cur.a).head = .none)
    (hst : (s.queue s.cur.a).state = .enabled) (hwants : wantsSlot s (s.queue s.cur.a) = true)
    (hpeek : peek s (s.queue s.cur.a).asid (packetAddr (s.queue s.cur.a) (s.queue s.cur.a).rd.toNat) 128 = .ok bs s') :
    (∀ kn t', checkPacket s' (s.queue s.cur.a) s.cur.a bs = .ok kn t' → Answers (exec .packetHeadCheck s) (fun t =>
      (t.queue s.cur.a).head = .waiting ∧ (t.queue s.cur.a).kernel = t'.nextId ∧ t.kernel t'.nextId = kn)) ∧
    (∀ code t', checkPacket s' (s.queue s.cur.a) s.cur.a bs = .bad code t' → Answers (exec .packetHeadCheck s) (fun t =>
      (t.queue s.cur.a).state = .halted ∧ (t.queue s.cur.a).lastst = code ∧ (t.queue s.cur.a).slot = none ∧
      (t.queue s.cur.a).head = .none)) := by
  have hexec := execPacketHeadCheck_eq hslot htaken hbell hhead hst hwants hpeek
  constructor
  · intro kn t' hok
    rw [hok] at hexec
    have hq := State.queue_setQueue (t'.setKernel t'.nextId kn) s.cur.a { s.queue s.cur.a with head := .waiting, kernel := t'.nextId }
    exact ⟨_, hexec, congrArg Queue.head hq, congrArg Queue.kernel hq, State.kernel_setKernel t' _ kn⟩
  · intro code t' hbad
    rw [hbad] at hexec
    exact ⟨_, hexec, rejectPacket_halts t' s.cur.a code⟩

/-! ## Slots -/

/-- With a slot free, the queue picked is mapped there, and its WR is to be read (R97). -/
theorem slotMap_maps (s : State) (q n : Nat) (hpick : pickQueue s false (waitsForSlot s) = some q) (hfree : freeSlot s = some n) :
    Answers (exec .slotMap s) (fun t => t.slots = AMap.put s.slots n q ∧ (t.queue q).slot = some n ∧ (t.queue q).bell = true ∧
      t.groups = s.groups) := by
  have hexec : exec .slotMap s = .next ({ beginQuantum s n with slots := AMap.put s.slots n q }.setQueue q
      { s.queue q with slot := some n, taken := false, since := s.steps, bell := true }) := by
    change execSlotMap s = _
    unfold execSlotMap
    simp only [hpick, hfree]
  have hq := State.queue_setQueue { beginQuantum s n with slots := AMap.put s.slots n q } q
    { s.queue q with slot := some n, taken := false, since := s.steps, bell := true }
  exact ⟨_, hexec, rfl, congrArg Queue.slot hq, congrArg Queue.bell hq, rfl⟩

/-- At the end of a quantum a slot is to be taken from its queue (R74, R97). -/
theorem quantumExpiry_takes (s : State) (n q : Nat) (hfind : s.slots.find? (fun p => decide (p.1 = s.cur.a)) = some (n, q))
    (htaken : (s.queue q).taken = false) (htakes : quantumTakes s q = true) :
    Answers (exec .quantumExpiry s) (fun t => t.queue q = { s.queue q with taken := true } ∧ t.groups = s.groups) := by
  have hexec : exec .quantumExpiry s = .next ((beginQuantum s s.cur.a).modQueue q (fun q => { q with taken := true })) := by
    change execQuantumExpiry s = _
    unfold execQuantumExpiry
    simp only [hfind, htaken, htakes, Bool.not_false, Bool.and_self, if_true]
  exact ⟨_, hexec, State.queue_setQueue .., rfl⟩

theorem slotDrainComplete_releases (s : State) (n q : Nat) (hfind : s.slots.find? (fun p => decide (p.1 = s.cur.a)) = some (n, q))
    (h : (s.queue q).taken = true ∨ wantsSlot s (s.queue q) = false) :
    Answers (exec .slotDrainComplete s) (fun t => (t.queue q).slot = none ∧ t.groups = s.groups) := by
  have hgives : ((s.queue q).taken || !wantsSlot s (s.queue q)) = true := by simpa using h
  have hexec : exec .slotDrainComplete s = .next (releaseSlot s q) := by
    change execSlotDrainComplete s = _
    unfold execSlotDrainComplete
    simp only [hfind, hgives, if_true]
  exact ⟨_, hexec, releaseSlot_slot s q, releaseSlot_groups s q⟩

/-! ## LAUNCH -/

/-- A LAUNCH whose group still waits is answered in its register, and nothing but its end and the group differs (R101). -/
theorem launchAnswer_answers (s : State) (r : LaunchReq) (v : DWord) (hwaits : ∃ b ∈ (s.grp r.grp).sbusy, b.op = r.op) :
    let t := launchAnswer s r v
    RegIs t r.grp r.second r.sd ⟨v, false⟩ ∧ (∀ x ∈ t.launches, x.op ≠ r.op) ∧ t.queues = s.queues ∧ t.hbm = s.hbm ∧ t.l2 = s.l2 := by
  have hany : ((s.grp r.grp).sbusy.any fun b => decide (b.op = r.op)) = true := by simpa using hwaits
  have heq : launchAnswer s r v = writeS (endLaunch s r) r.grp r.second r.sd.toNat ⟨v, false⟩ := if_pos hany
  dsimp only
  rw [heq]
  refine ⟨fun hzero hok => ?_, fun x hx => ?_, rfl, rfl, rfl⟩
  · have hne : r.sd.toNat ≠ 58 := fun h => hok (BitVec.eq_of_toNat_eq h)
    have hne0 : r.sd.toNat ≠ 0 := fun h => hzero (BitVec.eq_of_toNat_eq h)
    rw [readS_writeS _ _ _ _ _ hne, if_neg hne0]
  · exact of_decide_eq_true (List.mem_filter.mp hx).2

/-- The LAUNCH named has come to its turn, and passes R101's checks. -/
structure LaunchGoes (s : State) (r : LaunchReq) : Prop where
  found : s.launches.find? (fun r => decide (r.op = s.cur.b)) = some r
  bell : (s.queue r.queue).bell = false
  stores : (s.grp r.grp).anyPending r.after = false
  enabled : (s.queue r.queue).state = .enabled
  devlaunch : (s.queue r.queue).devlaunch = true
  asid : (s.queue r.queue).asid = s.asidOf r.grp
  aligned : r.addr % 128 = 0

/-- The ring of a queue has no room. -/
def RingFull (q : Queue) : Prop := q.wr.toNat - q.rd.toNat = 2 ^ q.log2n

theorem execLaunchAppend_full {s : State} {r : LaunchReq} (h : LaunchGoes s r) (hfull : RingFull (s.queue r.queue)) :
    exec .launchAppend s = .next (launchAnswer s r 0) := by
  change execLaunchAppend s = _
  unfold execLaunchAppend
  simp only [h.found, h.bell, h.stores, h.enabled, h.devlaunch, h.asid, h.aligned, ne_eq, not_true_eq_false, decide_false, Bool.or_false,
    Bool.not_true, Bool.false_eq_true, if_false]
  exact if_pos hfull

/-- With room in the ring and the packet's lines clean, it is copied. -/
theorem execLaunchAppend_room {s s1 : State} {r : LaunchReq} {sent : Bool} (h : LaunchGoes s r) (hroom : ¬ RingFull (s.queue r.queue))
    (hclean : cleanStep s (s.coreOf r.grp) (s.asidOf r.grp) (linesOf r.addr 128) = (s1, [], sent)) :
    exec .launchAppend s = appendPacket s1 r := by
  change execLaunchAppend s = _
  unfold execLaunchAppend
  simp only [h.found, h.bell, h.stores, h.enabled, h.devlaunch, h.asid, h.aligned, ne_eq, not_true_eq_false, decide_false, Bool.or_false,
    Bool.not_true, Bool.false_eq_true, if_false, hclean]
  exact if_neg hroom

/-- The packet is copied into the ring, and WR raised past it. -/
theorem appendPacket_eq {s s2 s3 s4 : State} {r : LaunchReq} {q : Queue} {bs : List PByte} (hq : s.queue r.queue = q)
    (hend : r.addr + 128 ≤ linearEnd) (hpeek : peek s q.asid r.addr 128 = .ok bs s2)
    (hcopy : poke s2 q.asid (packetAddr q q.wr.toNat) bs = .ok () s3) (hwr : poke s3 q.asid q.wraddr (cleanBytes 8 (q.wr.toNat + 1)) = .ok () s4) :
    appendPacket s r = .next (launchAnswer (s4.setQueue r.queue { q with wr := q.wr + 1 }) r (q.wr + 1)) := by
  unfold appendPacket
  simp only [Nat.not_lt.mpr hend, if_false, hq, hpeek, hcopy, hwr]

theorem launchAppend_full (s : State) (r : LaunchReq) (h : LaunchGoes s r) (hfull : RingFull (s.queue r.queue))
    (hwaits : ∃ b ∈ (s.grp r.grp).sbusy, b.op = r.op) :
    Answers (exec .launchAppend s) (fun t => RegIs t r.grp r.second r.sd ⟨0, false⟩ ∧
      (∀ x ∈ t.launches, x.op ≠ r.op) ∧ t.queues = s.queues ∧ t.hbm = s.hbm ∧ t.l2 = s.l2) :=
  ⟨_, execLaunchAppend_full h hfull, launchAnswer_answers s r 0 hwaits⟩

theorem launchAppend_appends (s : State) (r : LaunchReq) (s1 : State) (sent : Bool) (h : LaunchGoes s r) (bs : List PByte) (s2 s3 s4 : State)
    (hroom : ¬ RingFull (s.queue r.queue))
    (hclean : cleanStep s (s.coreOf r.grp) (s.asidOf r.grp) (linesOf r.addr 128) = (s1, [], sent)) (hqueues : s1.queues = s.queues)
    (hend : r.addr + 128 ≤ linearEnd)
    (hpeek : peek s1 (s.queue r.queue).asid r.addr 128 = .ok bs s2)
    (hcopy : poke s2 (s.queue r.queue).asid (packetAddr (s.queue r.queue) (s.queue r.queue).wr.toNat) bs = .ok () s3)
    (hwr : poke s3 (s.queue r.queue).asid (s.queue r.queue).wraddr (cleanBytes 8 ((s.queue r.queue).wr.toNat + 1)) = .ok () s4)
    (hwaits : ∃ b ∈ (s4.grp r.grp).sbusy, b.op = r.op) :
    Answers (exec .launchAppend s) (fun t => RegIs t r.grp r.second r.sd ⟨(s.queue r.queue).wr + 1, false⟩ ∧
      (t.queue r.queue).wr = (s.queue r.queue).wr + 1 ∧ (∀ x ∈ t.launches, x.op ≠ r.op) ∧ t.l2 = s4.l2 ∧ t.hbm = s4.hbm) := by
  have hq : s1.queue r.queue = s.queue r.queue := congrArg (AMap.get freeQueue · r.queue) hqueues
  have happend := appendPacket_eq hq hend hpeek hcopy hwr
  obtain ⟨hreg, hgone, hqueues', hhbm, hl2⟩ := launchAnswer_answers (s4.setQueue r.queue { s.queue r.queue with wr := (s.queue r.queue).wr + 1 })
    r ((s.queue r.queue).wr + 1) hwaits
  have hraised := (congrArg (AMap.get freeQueue · r.queue) hqueues').trans (State.queue_setQueue s4 r.queue _)
  exact ⟨_, (execLaunchAppend_room h hroom hclean).trans happend, hreg, congrArg Queue.wr hraised, hgone, hl2, hhbm⟩

/-- Settles O46, a clause at a time. -/
theorem queueSteps : Obligations.QueueSteps := by
  intro s
  exact ⟨qRegister_registers s, qEnable_enables s, qDisable_disables s, qResume_resumes s, qSkip_skips s, qUnregister_frees s,
    qQuery_reports s, qbell_asks s, ⟨qbell_rereads s, packetHeadCheck_checks s⟩, slotMap_maps s,
    fun n q hfind => ⟨quantumExpiry_takes s n q hfind, slotDrainComplete_releases s n q hfind⟩,
    fun r s1 sent hfound hbell hstores hst hdev hasid halign =>
      have h : LaunchGoes s r := ⟨hfound, hbell, hstores, hst, hdev, hasid, halign⟩
      ⟨launchAppend_full s r h, launchAppend_appends s r s1 sent h⟩⟩

end Sys2Proof.Machine
end

section
/-!
PROOF. O47: a kernel's way from Waiting to Complete (R93–R98, R102–R106): its dependences, its dispatch, the placing of its clusters, the
team that is to leave for it, its end.
-/
namespace Sys2Proof.AMap

/-- Under a key that is listed, the entry read is one of the list. -/
theorem mem_get {α : Type} (d : α) (m : AMap α) (i : Nat) (h : i ∈ m.map (·.1)) : (i, get d m i) ∈ m := by
  induction m with
  | nil => cases h
  | cons p m ih =>
    obtain ⟨k, v⟩ := p
    simp only [get]
    split
    · rename_i hik
      exact hik ▸ List.mem_cons_self
    · rename_i hik
      rw [List.map_cons, List.mem_cons] at h
      exact List.mem_cons_of_mem _ (ih (h.resolve_left hik))

end Sys2Proof.AMap

namespace Sys2Proof.Machine
open Sys2Proof.Claims

/-! ## Dependences -/

/-- DEP_POLL: of two dependences one was met before, and the other is met now (R94). -/
theorem depPoll_notes (s s' : State) (hst : (s.kernel s.cur.a).state = .waiting) (hslot : hasSlot s s.cur.a = true)
    (hactive : ctxActive s (s.kernel s.cur.a).asid = true) (h0 : (s.kernel s.cur.a).met0 = false) (h1 : (s.kernel s.cur.a).met1 = true)
    (hmet : depMet s (s.kernel s.cur.a).asid (s.kernel s.cur.a).dep0 (s.kernel s.cur.a).dep0v = (true, s')) :
    Answers (exec .depPoll s) (fun t => t.kernel s.cur.a = { s.kernel s.cur.a with met0 := true } ∧ t.l2 = s'.l2 ∧ t.hbm = s'.hbm) := by
  have hexec : exec .depPoll s = .next (wake (s'.setKernel s.cur.a { s.kernel s.cur.a with met0 := true, met1 := true })) := by
    change execDepPoll s = _
    unfold execDepPoll
    simp [hst, hslot, hactive, h0, h1, hmet]
  have hn : { s.kernel s.cur.a with met0 := true, met1 := true } = { s.kernel s.cur.a with met0 := true } := by rw [← h1]
  rw [hn] at hexec
  refine ⟨_, hexec, ?_⟩
  unfold wake
  split <;> exact ⟨State.kernel_setKernel .., rfl, rfl⟩

/-! ## Dispatch -/

/-- A MARKER that can move RD on is Completing, and out of its queue (R93). -/
theorem passMarker_eq {s s' : State} {kh : Nat} (hrd : advanceRd s (s.kernel kh).queue = (s', true)) :
    passMarker s kh = .next ((s'.modKernel kh (fun n => { n with state := .completing })).modQueue (s.kernel kh).queue
      (fun q => { q with head := .none, prevDone := false })) := by
  unfold passMarker
  dsimp only
  rw [hrd]
  rfl

theorem dispatchStart_passesMarker (s : State) (h : dispatchable s s.cur.a = true) (hahead : coopAhead s s.cur.a = false) (s' : State)
    (hmarker : (s.kernel s.cur.a).marker = true) (hrd : advanceRd s (s.kernel s.cur.a).queue = (s', true)) :
    Answers (exec .dispatchStart s) (fun t => (t.kernel s.cur.a).state = .completing ∧ (t.queue (s.kernel s.cur.a).queue).head = .none ∧
      (t.queue (s.kernel s.cur.a).queue).prevDone = false ∧ t.l2 = s'.l2) := by
  have hexec : exec .dispatchStart s = passMarker s s.cur.a := by
    change execDispatchStart s = _
    unfold execDispatchStart
    simp [h, hahead, hmarker]
  have hk := State.kernel_setKernel s' s.cur.a { s'.kernel s.cur.a with state := .completing }
  have hq := State.queue_setQueue (s'.modKernel s.cur.a (fun n => { n with state := .completing })) (s.kernel s.cur.a).queue
  exact ⟨_, hexec.trans (passMarker_eq hrd), congrArg Kernel.state hk, congrArg Queue.head (hq _), congrArg Queue.prevDone (hq _), rfl⟩

/-- A kernel that finds no place yet is dispatched all the same, unless it is a COOP one (R98, R106). -/
theorem dispatchStart_dispatches (s : State) (h : dispatchable s s.cur.a = true) (hahead : coopAhead s s.cur.a = false)
    (hmarker : (s.kernel s.cur.a).marker = false) (hcoop : (s.kernel s.cur.a).coop = false) (hpower : s.power = 0)
    (hplace : placeAll s (s.kernel s.cur.a) (membersNow s s.cur.a) = none) :
    Answers (exec .dispatchStart s) (fun t => (t.kernel s.cur.a).state = .dispatching ∧ (t.queue (s.kernel s.cur.a).queue).head = .dispatching ∧
      t.groups = s.groups ∧ t.cores = s.cores) := by
  have hexec : exec .dispatchStart s = .next ((s.setKernel s.cur.a { s.kernel s.cur.a with state := .dispatching }).modQueue
      (s.kernel s.cur.a).queue (fun q => { q with head := .dispatching })) := by
    change execDispatchStart s = _
    unfold execDispatchStart
    simp [h, hahead, hmarker, hcoop, whenAwake, hpower, hplace]
  have hk := State.kernel_setKernel s s.cur.a { s.kernel s.cur.a with state := .dispatching }
  exact ⟨_, hexec, congrArg Kernel.state hk, congrArg Queue.head (State.queue_setQueue _ _ _), rfl, rfl⟩

/-! ## Placing -/

theorem OnlyGroups.foldl {β : Type} (f : State → β → State) (hf : ∀ s b, OnlyGroups s (f s b)) (l : List β) (s : State) :
    OnlyGroups s (l.foldl f s) := by
  induction l generalizing s with
  | nil => rfl
  | cons b l ih => exact (hf s b).trans (ih _)

/-- Placed groups stand in their entry overlay: that is a matter of the groups alone (R96). -/
theorem enterEntry_onlyGroups (s : State) (kh t : Nat) : OnlyGroups s (enterEntry s kh t) := by
  unfold enterEntry
  dsimp only
  split
  · rfl
  · split
    · rfl
    · refine OnlyGroups.foldl _ ?_ _ _
      intro s k
      rfl

/-- A placement that leaves clusters to place, or adds one to a kernel that runs, is committed as it is. -/
theorem commitPlacement_eq {s p : State} {kh : Nat} {n' : Kernel} (mss : List (List Member))
    (hn : placedMore (s.kernel kh) (clustersNow (s.kernel kh)) (coresOf p mss) = n')
    (hmore : (nextCluster n').isSome = true ∨ (s.kernel kh).state = .running) :
    commitPlacement s p kh mss = .next (((mss.flatMap (fun ms => ms.map (·.team))).foldl (fun p t => enterEntry p kh t)
      { p with nextId := p.nextId + (s.kernel kh).teams }).setKernel kh n') := by
  subst hn
  unfold commitPlacement
  dsimp only
  rw [if_pos (by simpa using hmore)]

theorem execTeamPlace_eq {s s' p p' : State} (hmay : mayPlace s s.cur.a = true) (hpower : s.power = 0)
    (hplace : placeAll s (s.kernel s.cur.a) (membersNow s s.cur.a) = some p)
    (hsplits : askSplits s (s.kernel s.cur.a) (coresOf p (membersNow s s.cur.a)) = none)
    (hload : loadEntries s s.cur.a (coresOf p (membersNow s s.cur.a)) = .ready s')
    (hplace' : placeAll s' (s.kernel s.cur.a) (membersNow s s.cur.a) = some p') :
    exec .teamPlace s = commitPlacement s' p' s.cur.a (membersNow s s.cur.a) := by
  change execTeamPlace s = _
  unfold execTeamPlace
  simp [hmay, whenAwake, hpower, hplace, withSplits, hsplits, hload, hplace']

/-- TEAM_PLACE: the clusters placed are counted, and their teams are those of the placement (R96, R102). -/
theorem teamPlace_counts (s p s' p' : State) (hmay : mayPlace s s.cur.a = true) (hpower : s.power = 0)
    (hplace : placeAll s (s.kernel s.cur.a) (membersNow s s.cur.a) = some p)
    (hsplits : askSplits s (s.kernel s.cur.a) (coresOf p (membersNow s s.cur.a)) = none)
    (hload : loadEntries s s.cur.a (coresOf p (membersNow s s.cur.a)) = .ready s')
    (hplace' : placeAll s' (s.kernel s.cur.a) (membersNow s s.cur.a) = some p') (hkernel : s'.kernel s.cur.a = s.kernel s.cur.a)
    (hcores : coresOf p' (membersNow s s.cur.a) = coresOf p (membersNow s s.cur.a))
    (hmore : (nextCluster (placedMore (s.kernel s.cur.a) (clustersNow (s.kernel s.cur.a)) (coresOf p (membersNow s s.cur.a)))).isSome = true ∨
      (s.kernel s.cur.a).state = .running) :
    Answers (exec .teamPlace s) (fun t =>
      t.kernel s.cur.a = placedMore (s.kernel s.cur.a) (clustersNow (s.kernel s.cur.a)) (coresOf p (membersNow s s.cur.a)) ∧
        t.teams = p'.teams ∧ t.nextId = p'.nextId + (s.kernel s.cur.a).teams) := by
  have hcommit := commitPlacement_eq (s := s') (p := p') (kh := s.cur.a) (membersNow s s.cur.a) rfl (by rw [hkernel, hcores]; exact hmore)
  rw [hkernel, hcores] at hcommit
  have hgroups := OnlyGroups.foldl (fun p t => enterEntry p s.cur.a t) (fun p t => enterEntry_onlyGroups p s.cur.a t)
    ((membersNow s s.cur.a).flatMap (fun ms => ms.map (·.team))) { p' with nextId := p'.nextId + (s.kernel s.cur.a).teams }
  exact ⟨_, (execTeamPlace_eq hmay hpower hplace hsplits hload hplace').trans hcommit, State.kernel_setKernel .., hgroups.teams, hgroups.nextId⟩

/-! ## The team that is to leave -/

theorem minBy_mem {f : WayInfo → Nat} {ws : List WayInfo} {w : WayInfo} (h : minBy f ws = some w) : w ∈ ws := by
  induction ws with
  | nil => cases h
  | cons v ws ih =>
    unfold minBy at h
    split at h
    · cases h
      exact List.mem_cons_self
    · rename_i x hx
      split at h
      · cases h
        exact List.mem_cons_of_mem _ (ih hx)
      · cases h
        exact List.mem_cons_self

/-- The team that is to leave is one of the module's. -/
theorem victimTeam_listed {s : State} {prio u : Nat} (h : victimTeam s prio = some u) : u ∈ s.teams.map (·.1) := by
  unfold victimTeam at h
  obtain ⟨w, hw, rfl⟩ := Option.map_eq_some_iff.mp h
  obtain ⟨p, hp, rfl⟩ := List.mem_map.mp (minBy_mem hw)
  exact List.mem_map_of_mem (List.mem_filter.mp hp).1

/-- A running team stops with itself. -/
theorem mem_stopsWith_self {s : State} {u : Nat} (hmem : u ∈ s.teams.map (·.1)) (hrun : (s.team u).state = .running) : u ∈ stopsWith s u := by
  have hentry : (u, s.team u) ∈ s.teams := AMap.mem_get _ _ _ hmem
  refine List.mem_map.mpr ⟨(u, s.team u), List.mem_filter.mpr ⟨hentry, ?_⟩, rfl⟩
  simp [hrun]

/-- A pre-emption request goes to one team (R123). -/
def request (s : State) (v : Nat) : State := s.modTeam v (fun x => { x with asked := true })

theorem askTeam_eq (s : State) (u : Nat) : askTeam s u = (stopsWith s u).foldl request s := rfl

/-- A request reaches its team, and takes none back. -/
theorem asked_request (s : State) (v u : Nat) : ((request s v).team u).asked = (decide (u = v) || (s.team u).asked) := by
  unfold request
  by_cases huv : u = v
  · subst huv
    simp
  · simp [State.team_setTeam_ne, huv]

/-- Every team that requests go to has been asked. -/
theorem asked_requests (us : List Nat) (s : State) (u : Nat) (h : u ∈ us ∨ (s.team u).asked = true) :
    ((us.foldl request s).team u).asked = true := by
  induction us generalizing s with
  | nil => exact h.resolve_left List.not_mem_nil
  | cons v us ih =>
    refine ih _ ?_
    rw [asked_request]
    rcases h with h | h
    · rcases List.mem_cons.mp h with rfl | h
      · simp
      · exact .inl h
    · simp [h]

/-- Requests leave the groups and the kernels. -/
theorem requests_leave (us : List Nat) (s : State) :
    (us.foldl request s).groups = s.groups ∧ (us.foldl request s).kernels = s.kernels := by
  induction us generalizing s with
  | nil => exact ⟨rfl, rfl⟩
  | cons v us ih => exact ih _

/-- PRIORITY_PREEMPT: the most recently placed team of lower priority is asked to leave (R97). -/
theorem priorityPreempt_asks (s : State) (u : Nat) (hpre : slotPreempt s (s.kernel s.cur.a) = true) (hmay : mayPlace s s.cur.a = true)
    (hplace : placeAll s (s.kernel s.cur.a) (membersNow s s.cur.a) = none) (hvictim : victimTeam s (s.kernel s.cur.a).prio = some u)
    (hrun : (s.team u).state = .running) :
    Answers (exec .priorityPreempt s) (fun t => (t.team u).asked = true ∧ t.groups = s.groups ∧ t.kernels = s.kernels) := by
  have hexec : exec .priorityPreempt s = .next ((stopsWith s u).foldl request s) := by
    change execPriorityPreempt s = _
    unfold execPriorityPreempt
    simp [hpre, hmay, hplace, hvictim, askTeam_eq]
  exact ⟨_, hexec, asked_requests _ s u (.inl (mem_stopsWith_self (victimTeam_listed hvictim) hrun)), requests_leave _ s⟩

/-! ## The end -/

/-- Of a kernel that completes in a context without a fault, the lines that stand dirty are noted, to be cleaned (R95, log 41). -/
theorem kernelComplete_notesDirty (s : State) (hctx : (s.ctx (s.kernel s.cur.a).asid).state ≠ .faulted)
    (hst : (s.kernel s.cur.a).state = .completing) (hclean : (s.kernel s.cur.a).toClean = none) :
    Answers (exec .kernelComplete s) (fun t =>
      t.kernel s.cur.a = { s.kernel s.cur.a with toClean := some (dirtyLines s (s.kernel s.cur.a).asid) } ∧ t.l2 = s.l2 ∧ t.hbm = s.hbm) := by
  have hexec : exec .kernelComplete s
      = .next (s.setKernel s.cur.a { s.kernel s.cur.a with toClean := some (dirtyLines s (s.kernel s.cur.a).asid) }) := by
    change execKernelComplete s = _
    unfold execKernelComplete
    simp [hctx, hst, hclean]
  exact ⟨_, hexec, State.kernel_setKernel .., rfl, rfl⟩

/-- With none of them left, its end is published. -/
theorem execKernelComplete_clean {s : State} (hctx : (s.ctx (s.kernel s.cur.a).asid).state ≠ .faulted)
    (hst : (s.kernel s.cur.a).state = .completing) (hclean : (s.kernel s.cur.a).toClean = some []) :
    exec .kernelComplete s = publish s s.cur.a := by
  change execKernelComplete s = _
  unfold execKernelComplete
  simp [hctx, hst, hclean]

theorem kernelComplete_publishesStatus (s s' : State) (hctx : (s.ctx (s.kernel s.cur.a).asid).state ≠ .faulted)
    (hst : (s.kernel s.cur.a).state = .completing) (hclean : (s.kernel s.cur.a).toClean = some [])
    (htold : (s.kernel s.cur.a).told = false)
    (hwrite : schedWrite s (schedWord (s.kernel s.cur.a).asid ((s.kernel s.cur.a).packet + 0x58) 4 1) = (s', true)) :
    Answers (exec .kernelComplete s) (fun t => t.kernel s.cur.a = { s.kernel s.cur.a with told := true } ∧ t.l2 = s'.l2 ∧ t.hbm = s'.hbm) := by
  have hpublish : publish s s.cur.a = .next (s'.setKernel s.cur.a { s.kernel s.cur.a with told := true }) := by
    simp [publish, htold, hwrite]
  exact ⟨_, (execKernelComplete_clean hctx hst hclean).trans hpublish, State.kernel_setKernel .., rfl, rfl⟩

/-- Nothing dirty of a context's host and peer pages, and nothing of theirs on its way: what comes after the flush comes at once. -/
theorem afterFlush_done {s : State} {asid : Nat} (go : Out) (hdirty : ∀ x ∈ farLines s asid (fun _ => true), x.2.dirty = 0)
    (haway : farAway s asid (fun _ => true) = false) : afterFlush s asid (fun _ => true) go = go := by
  have hnone : ¬ ((farLines s asid (fun _ => true)).any fun x => decide (x.2.dirty ≠ 0)) = true := by
    rw [List.any_eq_true]
    rintro ⟨x, hx, hne⟩
    exact of_decide_eq_true hne (hdirty x hx)
  unfold afterFlush
  rw [if_neg hnone, haway]
  rfl

/-- DONE raised where there is one, the kernel is Complete (R95). -/
theorem publishDone_completes (s s' : State) (kh : Nat)
    (hdone : ((s.kernel kh).done = 0 ∧ s' = s) ∨ ((s.kernel kh).done ≠ 0 ∧ schedWrite s ⟨(s.kernel kh).asid, lineOf (s.kernel kh).done, [],
      some ((s.kernel kh).done % 128, (s.kernel kh).sys), notMapped⟩ = (s', true))) :
    Answers (publishDone s kh) (fun t => (t.kernel kh).state = .complete ∧ t.l2 = s'.l2 ∧ t.hbm = s'.hbm) := by
  have hraised : publishDone s kh = .next
      ((if lastOut s' kh then s'.modQueue (s.kernel kh).queue (fun q => { q with prevDone := true }) else s').setKernel kh
        { s.kernel kh with state := .complete, toClean := none, told := false }) := by
    unfold publishDone
    rcases hdone with ⟨hzero, rfl⟩ | ⟨hne, hwrite⟩
    · simp [hzero]
    · simp [hne, hwrite]
  refine ⟨_, hraised, congrArg Kernel.state (State.kernel_setKernel _ kh _), ?_⟩
  split <;> exact ⟨rfl, rfl⟩

theorem kernelComplete_publishesDone (s s' : State) (hctx : (s.ctx (s.kernel s.cur.a).asid).state ≠ .faulted)
    (hst : (s.kernel s.cur.a).state = .completing) (hclean : (s.kernel s.cur.a).toClean = some [])
    (htold : (s.kernel s.cur.a).told = true)
    (hsys : (s.kernel s.cur.a).sys = true → (∀ x ∈ farLines s (s.kernel s.cur.a).asid (fun _ => true), x.2.dirty = 0) ∧
      farAway s (s.kernel s.cur.a).asid (fun _ => true) = false)
    (hdone : ((s.kernel s.cur.a).done = 0 ∧ s' = s) ∨ ((s.kernel s.cur.a).done ≠ 0 ∧ schedWrite s ⟨(s.kernel s.cur.a).asid,
      lineOf (s.kernel s.cur.a).done, [], some ((s.kernel s.cur.a).done % 128, (s.kernel s.cur.a).sys), notMapped⟩ = (s', true))) :
    Answers (exec .kernelComplete s) (fun t => (t.kernel s.cur.a).state = .complete ∧ t.l2 = s'.l2 ∧ t.hbm = s'.hbm) := by
  have hpublish : publish s s.cur.a = publishDone s s.cur.a := by
    unfold publish
    dsimp only
    rw [if_pos htold]
    split
    · rename_i hs
      obtain ⟨hdirty, haway⟩ := hsys hs
      exact afterFlush_done _ hdirty haway
    · rfl
  rw [execKernelComplete_clean hctx hst hclean, hpublish]
  exact publishDone_completes s s' s.cur.a hdone

/-- In a faulted context a kernel that runs ends ABORTED, and its STATUS says so (R95). -/
theorem kernelComplete_aborts (s s' : State) (hctx : (s.ctx (s.kernel s.cur.a).asid).state = .faulted)
    (hst : (s.kernel s.cur.a).state = .running)
    (hwrite : schedWrite s (schedWord (s.kernel s.cur.a).asid ((s.kernel s.cur.a).packet + 0x58) 4 2) = (s', true)) :
    Answers (exec .kernelComplete s) (fun t => (t.kernel s.cur.a).state = .aborted ∧ t.l2 = s'.l2 ∧ t.hbm = s'.hbm) := by
  have hexec : exec .kernelComplete s = abortKernel s s.cur.a := by
    change execKernelComplete s = _
    unfold execKernelComplete
    simp [hctx, hst]
  rw [hexec]
  unfold abortKernel
  simp only [hwrite, Bool.not_true, Bool.false_eq_true, if_false]
  refine ⟨_, rfl, congrArg Kernel.state (State.kernel_setKernel _ _ _), ?_⟩
  split <;> exact ⟨rfl, rfl⟩

/-- Settles O47, a clause at a time. -/
theorem kernelSteps : Obligations.KernelSteps := by
  intro s
  exact ⟨depPoll_notes s,
    fun h hahead => ⟨fun s' hmarker hrd _ => dispatchStart_passesMarker s h hahead s' hmarker hrd, dispatchStart_dispatches s h hahead⟩,
    teamPlace_counts s, priorityPreempt_asks s,
    fun hctx hst => ⟨kernelComplete_notesDirty s hctx hst, fun s' => kernelComplete_publishesStatus s s' hctx hst,
      fun s' => kernelComplete_publishesDone s s' hctx hst⟩,
    kernelComplete_aborts s⟩

end Sys2Proof.Machine
end
